-- ==== Sys2Proof/Word.lean ====
section
/-! DEFINITION. The word types of the manual (00_scope.md R5, R6, R12). -/

namespace Sys2Proof

/-- One byte of a structure in memory (R5). -/
abbrev Byte := BitVec 8

/-- A register of 32 bits (R6). -/
abbrev Word := BitVec 32

/-- A register pair, a beat number, a PCIe address. -/
abbrev Quad := BitVec 64

/-- A node ID: w, z, y, x of six bits each (R12). -/
abbrev NodeId := BitVec 24

/-- A descriptor, or one 64 B flit. -/
abbrev Flit := BitVec 512

end Sys2Proof
end

