-- ==== Sys2Proof/Syntax.lean ====
section
/-! DEFINITION. The commands: one constructor for each row of spec/opcode_table.json, with the row's operands, and the
types of the operands. A command stands for one step of the part as 95_what_each_step_holds.md lists it. What comes from outside the block
(a message, a descriptor's bytes, a sensor reading, whether a signature verified) is an operand (log 6). `stream` is the IDE stream on
which a TLP arrives, if any (17_host_port_management.md R481). -/

namespace Sys2Proof

/-- Who reaches the register map (18_register_map.md R494). -/
inductive Who
  | pf0
  | mgt
  | jtag
  | vf (n : Nat)
  deriving DecidableEq, Repr

/-- A read of a register: its width in bytes, and the increments that a count has in the same cycle (18_register_map.md R496). -/
structure RegRead where
  width : Nat
  inc : Nat
  deriving DecidableEq, Repr

/-- A descriptor in the hands of the unit that executes it: its ring, its free-running index on the ring, its 64 bytes
(04_rings_and_descriptors.md R95, R99). -/
structure Desc where
  ring : Nat
  index : Word
  raw : Flit
  deriving DecidableEq, Repr

/-- A message of the fabric: the header fields of 10_fabric.md R291, `spec` the bytes 36 to 47 (byte 36 most
significant), `rsvd` whether a reserved bit is set, `data` the payload bytes. -/
structure Msg where
  cls : BitVec 2 := 0
  chan : BitVec 2 := 0
  opcode : Byte := 0
  dest : NodeId := 0
  dport : BitVec 5 := 0
  src : NodeId := 0
  sport : BitVec 5 := 0
  fwded : Bool := false
  genValid : Bool := false
  lent : Bool := false
  txn : BitVec 16 := 0
  ctx : BitVec 16 := 0
  gen : Byte := 0
  status : Byte := 0
  addr : Quad := 0
  len : BitVec 7 := 0
  bytes : BitVec 13 := 0
  be : Quad := 0
  spec : BitVec 96 := 0
  info : Word := 0
  rsvd : Bool := false
  data : List Byte := []
  deriving DecidableEq, Repr

/-- A slot of a tag group: its kind (R286) and its 64 bytes as one number, byte 0 most significant. -/
structure Slot where
  kind : BitVec 2
  bits : Flit
  deriving DecidableEq, Repr

/-- The flits that a received TAG flit covers, decrypted, and the number of their blocks that RS has corrected (R289, R320). -/
structure TagIn where
  slots : List Slot
  fixed : Nat
  deriving DecidableEq, Repr

/-- BEAT flit fields (R295). -/
structure BeatFlit where
  hops : Byte
  master : NodeId
  prio : BitVec 4
  epoch : BitVec 16
  num : Quad
  period : Byte
  corr : Word
  deriving DecidableEq, Repr

/-- ELECT flit fields (R295). -/
structure ElectFlit where
  cand : NodeId
  prio : BitVec 4
  epoch : BitVec 16
  maxBeat : Quad
  deriving DecidableEq, Repr

/-- LCTL flit fields (R295): twelve VC credit counts in order of VC. -/
structure LctlFlit where
  ackValid : Bool
  nakValid : Bool
  goingDown : Bool
  ackSeq : BitVec 16
  nakSeq : BitVec 16
  credit : List Nat
  shared : Nat
  deriving DecidableEq, Repr

/-- MGMT HELLO fields (R295). -/
structure HelloFlit where
  node : NodeId
  port : BitVec 5
  lightOk : Bool
  dedicated : Nat
  shared : Nat
  deriving DecidableEq, Repr

/-- The fragments of one MGMT KEY message as they arrived (14_security.md R426). -/
structure Frags where
  indices : List Nat
  count : Nat
  deriving DecidableEq, Repr

/-- A link key OFFER (R425): its fields in order, the byte strings at their lengths, and whether ENDORSEMENT verifies. -/
structure Offer where
  nonce : BitVec 256
  anchor : Byte
  anchorPk : List Byte
  identityPk : List Byte
  endorsement : List Byte
  ek : List Byte
  endorsed : Bool
  deriving DecidableEq, Repr

/-- A firmware image of a boot flash slot as SEC reads it (R401): the hash of its root key, whether its signatures
verified, its SVN and the digests of its parts and of the whole. -/
structure Image where
  rootHash : BitVec 384
  firstOk : Bool
  mgtOk : Bool
  seqOk : Bool
  svn : Nat
  first : BitVec 384
  mgt : BitVec 384
  seq : BitVec 384
  seqVersion : Word := 0
  whole : BitVec 384 := 0
  deriving DecidableEq, Repr

/-- The common part of a signed command (R430): `lenOk` and `rsvd` of its layout, the hash of the key it verifies under
and whether the signature verifies, the digest that M4 is extended with, and the management message it came in (none: the mailbox). -/
structure SignedCmd where
  keyIndex : Byte
  bootId : BitVec 128
  counter : Quad
  serial : Quad
  lenOk : Bool
  rsvd : Bool
  keyHash : BitVec 384
  sigOk : Bool
  digest : BitVec 384
  eth : Option Word := none
  deriving DecidableEq, Repr

/-- What a key set command does with its slot (R430). -/
inductive KeySet
  | program (hash : BitVec 384)
  | revoke
  deriving DecidableEq, Repr

/-- What the module finds when it opens a bind blob (R415): the clear fields, and the sealed fields where the GCM tag
verifies. -/
structure BindSealed where
  dataKey : BitVec 512
  adminId : BitVec 16
  rebind : Bool
  adminEntry : BitVec 128
  confirm : BitVec 256
  deriving DecidableEq, Repr

structure BindBlob where
  bootId : BitVec 128
  tenant : Nat
  slot : Nat
  opened : Option BindSealed
  deriving DecidableEq, Repr

/-- What the module finds in a content envelope (R421, R423): TILES and COUNT of the header, whether an entry names this
device, whether its unwrap succeeds, and the plaintext tiles in order up to the first whose tag fails. -/
structure Envelope where
  tiles : Nat
  count : Nat
  names : Bool
  unwraps : Bool
  plain : List (List Byte)
  deriving DecidableEq, Repr

/-- The transports of an attestation request (R404). -/
inductive Transport
  | doe (fn : Nat)
  | mailbox
  | ethernet (id : Word)
  deriving DecidableEq, Repr

/-- A trace entry of 16_observation.md R467, with the fields that DBG tests. `keyed`: the request is to an extent whose
KEY_VALID is 1. -/
structure TraceEntry where
  kind : Byte
  block : Byte
  inst : Byte
  code : Byte
  ctx : BitVec 16
  unit : BitVec 16
  addr : Quad
  tag : Word
  aux : Word
  keyed : Bool := false
  deriving DecidableEq, Repr

/-- A journal record as RED reads it from a partner (R385): `crcOk` whether its CRC verifies. -/
structure WireRec where
  jseq : Quad
  crcOk : Bool
  kind : Nat
  index : Nat
  count : Nat
  entry : BitVec 256
  mark : Option Nat
  deriving DecidableEq, Repr

/-- What a takeover reads from the partner (R389): CODE of the current header, whether the image's CRC verifies, the image's tables
where they differ from cleared ones (a folio's record: none for CLEAN, or its tenant), JSEQ and the journal records from it on. -/
structure Restored where
  code : Nat
  imageOk : Bool
  jseq : Quad
  dir : List (Nat × BitVec 256)
  ctxs : List (Nat × BitVec 128)
  slots : List (Nat × BitVec 128)
  folioDefault : Option Nat
  folios : List (Nat × Option Nat)
  groups : List (Nat × Word)
  records : List WireRec
  deriving DecidableEq, Repr

/-- Who sends a request for flash: PF 0 or MGT through the registers, or the management service (R483, R486). -/
inductive FlashFrom
  | register (who : Who)
  | service (id : Word) (addr : Nat)
  deriving DecidableEq, Repr

/-- The rails with a monitor (15_reset_clocks_power.md R456). -/
inductive Rail
  | core
  | aon
  | io
  deriving DecidableEq, Repr

/-- The tamper sensors (14_security.md R434); `aon` says that the voltage is that of VDD_AON. -/
inductive TamperSensor
  | mesh
  | voltage (aon : Bool)
  | clock
  | temperature
  deriving DecidableEq, Repr

/-- How the loss of a lender, an agent or a partner is found (03_extents.md R83, 09_coherence.md R264, 13_redundancy.md R383). -/
inductive LossCause
  | noRoute
  | heartbeat
  | unanswered
  deriving DecidableEq, Repr

/-- An access of a ring's 4 KiB doorbell page in BAR 2 (04_rings_and_descriptors.md R95, R96): a write of SQ_TAIL of a width in bytes, a write at
another offset, or a 32-bit read with its tag. -/
inductive PageAccess
  | write (width : Nat)
  | other (off width : Nat)
  | read (off tag : Nat)
  deriving DecidableEq, Repr

/-- THE COMMANDS: one constructor per row of spec/opcode_table.json, in the table's order. -/
inductive Instr
  -- registers, the beat and commit
  | registerWrite (who : Who) (off width : Nat) (val : Quad)
  | counterReadClear (who : Who) (off : Nat) (r : RegRead)
  | reg64LowRead (who : Who) (off : Nat)
  | reg64HighRead (who : Who) (off : Nat)
  | reg64LowWrite (who : Who) (off : Nat) (val : Word)
  | reg64HighWrite (who : Who) (off : Nat) (val : Word)
  | beatBoundary (watts : Nat)
  | holdoverExpiry
  | beat (link : Nat) (f : BeatFlit) (late : Int)
  | elect (link : Nat) (f : ElectFlit)
  | electionSilenceExpiry
  | electionWin
  | glbCommit (who : Who) (mask : Word)
  | commitCheckDone (ticket : BitVec 4)
  | cntClearAll (who : Who)
  -- contexts and extents
  | ctxSet (d : Desc)
  | ctxClear (d : Desc)
  | ctxChangePoint (ctx : Nat)
  | extMap (d : Desc)
  | extRevoke (d : Desc)
  | revocationPoint (handle : Nat)
  | drainEnd (handle : Nat)
  | drainBoundExpiry (handle : Nat)
  | extRelease (d : Desc)
  | directoryWalk (elb ctx pla : Nat)
  | entryRebuild (kind index : Nat)
  -- requests and memory
  | rd (link : Nat) (m : Msg)
  | wr (link : Nat) (m : Msg)
  | wrBe (link : Nat) (m : Msg)
  | rdRsp (link : Nat) (m : Msg)
  | wrAck (link : Nat) (m : Msg)
  | lendDone (link : Nat) (m : Msg)
  | reclaim (link : Nat) (m : Msg)
  | lenderLoss (node : NodeId) (why : LossCause)
  | bar4Read (fn off bytes tag : Nat) (stream : Option Nat)
  | bar4Write (fn off : Nat) (data : List Byte) (stream : Option Nat)
  | stackReadData (id line : Nat)
  | lineReconstruct (id line : Nat)
  | stripeWrite (id : Nat)
  | stripeWriteIssue (id : Nat)
  -- rings
  | sqTailWrite (fn ring : Nat) (acc : PageAccess) (val : Word) (stream : Option Nat)
  | cqHeadWrite (fn ring width : Nat) (val : Word) (stream : Option Nat)
  | fqHeadWrite (fn ring q width : Nat) (val : Word) (stream : Option Nat)
  | eqHeadWrite (fn ring q width : Nat) (val : Word) (stream : Option Nat)
  | doorbell (link : Nat) (m : Msg)
  | descriptorArrival (ring : Nat) (ok : Bool) (slots : List Flit)
  | descriptorStart
  | ringPriorityAging (ring : Nat)
  | nop (d : Desc)
  | ringSet (d : Desc)
  | ringAbort (d : Desc)
  | ringAbortDone (ring : Nat)
  | queueEnable (d : Desc)
  | queueDisable (d : Desc)
  | ring0Enable (who : Who) (val : Word)
  | ring0Disable (who : Who) (val : Word)
  | fq0Enable (who : Who) (val : Word)
  | fq0Disable (who : Who) (val : Word)
  | eq0Enable (who : Who) (val : Word)
  | eq0Disable (who : Who) (val : Word)
  | completionTake
  | batchWaitExpiry (batch : Nat)
  -- host translation
  | domainSet (d : Desc)
  | domainClear (d : Desc)
  | attach (d : Desc)
  | xltInval (d : Desc)
  | xltInvalDone
  | xltWalk (domain va : Nat)
  | moverBurst (mover : Nat)
  -- operators
  | copy (d : Desc)
  | fill (d : Desc)
  | scrub (d : Desc)
  | convert (d : Desc)
  | fold (d : Desc)
  | foldWrite (d : Desc)
  | reduceScatter (d : Desc)
  | allReduce (d : Desc)
  | broadcast (d : Desc)
  | gather (d : Desc)
  | scatter (d : Desc)
  | optStepAdamw (d : Desc)
  | optStepLion (d : Desc)
  | optStepSgdMomentum (d : Desc)
  | seal (d : Desc)
  | check (d : Desc)
  | complication (d : Desc)
  | watch (d : Desc)
  | sliceAdmit (op : Nat)
  | tileStart (unit : Nat)
  | operatorComplete (op : Nat)
  | peerTimeout (op peer : Nat)
  -- folds
  | foldArmed (slot : Nat)
  | foldContrib (link : Nat) (m : Msg)
  | foldInitRead (slot tile : Nat)
  | foldTileConvert (slot tile : Nat)
  | foldRegionClose (slot : Nat)
  | foldTimeout (slot : Nat)
  -- the key-value store
  | kvAppend (d : Desc)
  | kvAppendAdmit
  | kvAppendCommit (id : Nat)
  | kvGather (d : Desc)
  | kvCreate (d : Desc)
  | kvFork (d : Desc)
  | kvForkPrefix (d : Desc)
  | kvPublish (d : Desc)
  | kvDropQuire (d : Desc)
  | kvDropPrefix (d : Desc)
  | kvPinQuire (d : Desc)
  | kvPinPrefix (d : Desc)
  | kvEvictAge (d : Desc)
  | kvEvictQuota (d : Desc)
  | kveInit (who : Who) (val : Word)
  | kveAdopt (who : Who) (val : Word)
  | kveReady
  | tchkInit (who : Who) (val : Word)
  | tchkAdopt (who : Who) (val : Word)
  | tchkInitDone
  -- coherence
  | rdShared (link : Nat) (m : Msg)
  | rdOwn (link : Nat) (m : Msg)
  | upgrade (link : Nat) (m : Msg)
  | wbData (link : Nat) (m : Msg)
  | wbClean (link : Nat) (m : Msg)
  | evictS (link : Nat) (m : Msg)
  | snpAck (link : Nat) (m : Msg)
  | snpAckData (link : Nat) (m : Msg)
  | heartbeat (link : Nat) (m : Msg)
  | agentJoin (d : Desc)
  | agentLeave (d : Desc)
  | agentLeaveDone (agent : Nat)
  | agentLoss (agent : Nat) (why : LossCause)
  -- links and the router
  | linkEnable (who : Who) (link : Nat) (val : Word)
  | linkCmdRetrain (who : Who) (link : Nat)
  | linkCmdDown (who : Who) (link : Nat)
  | lightDetected (link : Nat)
  | lossOfSignal (link : Nat)
  | laserLoss (laser : Nat)
  | probeBurst (link : Nat)
  | linkLockDone (link : Nat) (locked : Byte) (lowErrors : Bool)
  | hello (link : Nat) (f : HelloFlit)
  | keyOffer (link : Nat) (fr : Frags) (o : Offer)
  | keyResponse (link : Nat) (fr : Frags) (ct : List Byte) (secret : BitVec 256)
  | keyFinish (link : Nat) (fr : Frags) (sigOk : Bool)
  | time (link t1 t2 t3 arrival : Nat)
  | linkTrainTimeout (link : Nat)
  | downHoldExpiry (link : Nat)
  | tag (link : Nat) (g : TagIn) (seq : Quad) (tagOk : Bool)
  | lctl (link : Nat) (f : LctlFlit)
  | replayTimeout (link : Nat)
  | lightFecFallback (link : Nat)
  | msgAbort (link vc : Nat)
  | rteEnable (who : Who) (val : Word)
  | messageRoute (port vc : Nat)
  -- the stacks
  | refreshDue (stack bank : Nat)
  | rfmDue (stack bank : Nat)
  | tempRead (stack temp : Nat)
  | trainPauseEnd (stack : Nat) (ok : Bool)
  | rowIdleClose (stack bank : Nat)
  | urgencyRise (stack port level : Nat)
  | bestEffortPromote (id : Nat)
  | selfRefreshDone (stack : Nat)
  | stackReady (stack : Nat) (ok : Bool)
  -- integrity
  | scrubStripe
  | intScrubNow (who : Who) (stripe : Word)
  | zeroFolio
  | intFlipArm (who : Who) (val : Word)
  | catClear (who : Who) (n : Nat)
  | selfTest (failing : List (Nat × Nat))
  -- redundancy
  | redEnable (who : Who) (val : Word)
  | redGroupClear (who : Who) (group : Nat)
  | partnerLoss (group : Nat) (why : LossCause)
  | mirrorRetry (id : Nat)
  | resyncDirty (who : Who) (group : Nat)
  | resyncAll (who : Who) (group : Nat)
  | resyncFolioDone (group folio : Nat)
  | journalAck (jseq : Quad) (fromPartner : Bool)
  | checkpointHeader
  | tableRestore
  | restoreStart (who : Who)
  | restoreDone (r : Option Restored)
  | rebuildStripe (stripe : Nat) (lines : List (List Byte))
  -- security
  | attest (via : Transport) (tenant : Nat) (tenantValid : Bool) (nonce : BitVec 256)
  | fwStage (c : SignedCmd) (slot : Nat) (img : Image)
  | fwCancel (c : SignedCmd)
  | svnAdvance (c : SignedCmd)
  | mgmtKeySet (c : SignedCmd) (slot : Nat) (k : KeySet)
  | anchorSet (c : SignedCmd) (slot : Nat) (k : KeySet)
  | debugUnlock (c : SignedCmd) (level : Nat)
  | tenantBind (d : Desc) (b : BindBlob)
  | tenantUnbind (d : Desc)
  | unbindRingsAbort (tenant : Nat)
  | unbindRetire (tenant : Nat)
  | unbindComplete (tenant : Nat)
  | contentKeyLoad (d : Desc) (e : Envelope)
  | tamper (sensor : TamperSensor)
  | entropyHealthFail
  | drbgReseed
  | secSelfTest (ok : Bool)
  | romBoot (a b : Image)
  | seqDigestCheck (mgt : Bool) (digest : BitVec 384)
  | bootRecordWrite (link : Word)
  | ideSessionOpen (ct : List Byte) (secret : BitVec 256)
  | ideKm (stream : Nat) (key : BitVec 256)
  | ideStreamInsecure (stream : Nat)
  | doeDiscovery (fn : Nat)
  -- reset, clocks and power
  | powerOnReset
  | perst
  | rstSysN
  | rstCoreN
  | rcuCmdCore (who : Who) (key : BitVec 16)
  | rcuCmdSystem (who : Who) (key : BitVec 16)
  | watchdogExpiry
  | rcuWdtKick (who : Who)
  | clockLoss (domain : Nat)
  | vddCoreLow
  | resetRelease (link : Word)
  | fuseLoad (crcOk : Bool)
  | stormClear (viaI3c : Bool)
  | idleEntry
  | pwrRun (who : Who)
  | pwrQuiesce (who : Who)
  | quiesceReached
  | pwrRetain (who : Who) (pciIdle : Bool)
  | retainWake
  | supplyTrip (rail : Rail)
  | inhibitClear
  | thermalSample (tLogic : Nat)
  -- debug and trace
  | dbgStop (who : Who)
  | dbgResume (who : Who)
  | gstopNFall
  | jtagStop
  | scanOut
  | trcArm (who : Who)
  | trcForceTrig (who : Who)
  | traceEntry (e : TraceEntry)
  | traceSpill
  -- the line cache, flash, management and the added rows
  | lccInvalidate (who : Who)
  | lccSweepDone
  | mgtFlashErase (src : FlashFrom)
  | mgtFlashProgram (src : FlashFrom) (data : List Byte)
  | flashOpDone (deviceOk : Bool)
  | ethStatus (id : Word)
  | contextTimeout (kind : Nat) (id : Nat)
  | hostReadCompletion (mover : Nat) (ok : Bool) (data : List Byte)
  | uncorrectableBlock (link : Nat) (seq : Quad)
  | clockGood (domain : Nat)
  | laserOkSet (laser : Nat)
  | activeCopyRewrite (off : Nat)
  deriving DecidableEq, Repr

end Sys2Proof
end

