-- ==== Sys2Proof/Config.lean ====
section
/-! DEFINITION. What the manual leaves to a standard or to chance: constants without a body (logs 2 and 4). -/

namespace Sys2Proof

/-- AES-256-XTS of one 64 B line under a key of 512 bits with the tweak PPA[40:6] (14_security.md R411), as a permutation
of lines: decryption undoes encryption, and nothing else is known of it (PRESUMED, log 4; safe). -/
opaque Config.xts : BitVec 512 → BitVec 128 → Equiv.Perm (BitVec 512)

/-- KMAC256 key derivation of R397: a key, a label and context, `n` bits (PRESUMED, log 4; safe). -/
opaque Config.kmac : BitVec 512 → String → List Byte → BitVec 1024

/-- SHA3-384 of a byte string (R397; PRESUMED, log 4; safe). -/
opaque Config.sha3 : List Byte → BitVec 384

/-- ML-DSA-87 signing with the key derived from the identity seed (R397, R400; PRESUMED, log 4; safe). -/
opaque Config.sign : BitVec 256 → List Byte → List Byte

/-- The public keys derived from the identity seed: the ML-KEM-1024 encapsulation key and the ML-DSA-87 key (R400). -/
opaque Config.kemPk : BitVec 256 → List Byte
opaque Config.identityPk : BitVec 256 → List Byte

/-- The ML-KEM-1024 encapsulation key generated from a random draw, the ciphertext and the secret that an encapsulation to a key makes from
a draw, the public key of the fused device root and the endorsement stored with the firmware (R397, R400, R425; PRESUMED, log 4; safe). -/
opaque Config.ephemeralEk : BitVec 512 → List Byte
opaque Config.encapsCt : List Byte → BitVec 512 → List Byte
opaque Config.encapsSecret : List Byte → BitVec 512 → BitVec 256
opaque Config.anchorPk : List Byte
opaque Config.endorsement : BitVec 256 → List Byte

/-- AES-256-GCM of sealed messages and flits: ciphertext of a plaintext under a key and an IV (R288; PRESUMED, log 4). -/
opaque Config.gcm : BitVec 256 → BitVec 96 → List Byte → List Byte

/-- The GCM tag of covered flits (R288). -/
opaque Config.gcmTag : BitVec 256 → BitVec 96 → List Byte → BitVec 128

/-- The SHA3-384 digests of the ROM image and of the verified fuse load of option and trim values, which M0 and M5 are extended with
(R402; PRESUMED, log 4; safe). -/
opaque Config.romDigest : BitVec 384
opaque Config.trimDigest : BitVec 384

/-- A random draw (R398), one per value of the state's counter `fresh`: a FREE VALUE (log 2). -/
opaque Config.random : Nat → BitVec 512

/-- The approximations of 1 / x and 1 / sqrt x of R216 on FP32 bits: free functions of the operand, the same in every run, of which the model
takes what lies within 2 units in the last place (log 5). -/
opaque Config.rcp : Word → Word
opaque Config.rsqrt : Word → Word

/-- The FP32 bits of sign(NaN), which R211 does not state: a free value, one in every run (log 15). -/
opaque Config.signOfNan : Word

/-- The 2-byte code of a folio record (R384): none for CLEAN, or the tenant; R66 gives no layout (DESIGN CHOICE, log 11;
safe). -/
opaque Config.folioCode : Option Nat → BitVec 16

/-- A value the manual does not state, drawn by the state's counter `fresh`: a FREE VALUE (log 2). -/
opaque Config.freeValue : Nat → BitVec 64

end Sys2Proof
end

