-- ==== Sys2Proof/Machine/Bits.lean ====
section
/-! DEFINITION. Bit fields and byte order (00_scope.md R5). -/

namespace Sys2Proof.Machine

/-- Bits [lo + w - 1 : lo] of a number. -/
def bitsOf (x lo w : Nat) : Nat := x / 2 ^ lo % 2 ^ w

/-- Whether a bit of a number is 1. -/
def bitOf (x n : Nat) : Bool := x / 2 ^ n % 2 == 1

/-- A number with the field [lo + w - 1 : lo] replaced. -/
def withBits (x lo w v : Nat) : Nat := x - bitsOf x lo w * 2 ^ lo + v % 2 ^ w * 2 ^ lo

/-- The bytes of a number, little-endian (R5). -/
def bytesLE : Nat → Nat → List Byte
  | 0, _ => []
  | n + 1, x => BitVec.ofNat 8 x :: bytesLE n (x / 256)

/-- The number of a little-endian byte string. -/
def ofBytesLE : List Byte → Nat
  | [] => 0
  | b :: r => b.toNat + 256 * ofBytesLE r

/-- The number of a big-endian byte string: the fabric's own bit order (10_fabric.md R286). -/
def ofBytesBE (l : List Byte) : Nat := l.foldl (fun a b => a * 256 + b.toNat) 0

/-- The bytes of a number, most significant first. -/
def bytesBE (n x : Nat) : List Byte := (bytesLE n x).reverse

/-- A part of a byte string; what lies past its end is left out. -/
def slice {α : Type} (l : List α) (off n : Nat) : List α := (l.drop off).take n

/-- A byte string with a part overwritten. -/
def overlay {α : Type} (l : List α) (off : Nat) (d : List α) : List α := l.take off ++ d ++ l.drop (off + d.length)

/-- A sum that stays at the largest value of its width. -/
def satAdd (w a b : Nat) : Nat := min (a + b) (2 ^ w - 1)

/-- The exclusive or of two numbers. -/
def xorN (a b : Nat) : Nat := Nat.xor a b

/-- A list with `n` copies of a byte 0. -/
def zeros (n : Nat) : List Byte := List.replicate n 0

/-- Rounding up of a quotient. -/
def ceilDiv (a b : Nat) : Nat := (a + b - 1) / b

/-- The entries of a list that a test finds, counted. -/
def countIf {α : Type} (p : α → Bool) (l : List α) : Nat := (l.filter p).length

/-- The sum of a list of numbers. -/
def sumOf (l : List Nat) : Nat := l.foldl (· + ·) 0

/-- The numbers below `n`. -/
def upTo (n : Nat) : List Nat := List.range n

end Sys2Proof.Machine
end

