-- ==== Sys2Proof/Machine/Maps.lean ====
section
/-! DEFINITION. Sparse tables: lists of keys and values in rising order of the key. A key that is not listed has the
table's own default, said where the table is used. -/

namespace Sys2Proof.Machine

/-- A sparse table over numbers. -/
abbrev NMap (α : Type) := List (Nat × α)

/-- The value at a key, if the key is listed. -/
def look {α : Type} : List (Nat × α) → Nat → Option α
  | [], _ => none
  | (j, v) :: r, k => if j = k then some v else look r k

/-- The value at a key, or the table's default. -/
def lookD {α : Type} (m : List (Nat × α)) (k : Nat) (d : α) : α := (look m k).getD d

/-- The table with one value written. -/
def put {α : Type} : List (Nat × α) → Nat → α → List (Nat × α)
  | [], k, v => [(k, v)]
  | (j, w) :: r, k, v =>
    if k < j then (k, v) :: (j, w) :: r
    else if k = j then (k, v) :: r
    else (j, w) :: put r k v

/-- The table without a key. -/
def del {α : Type} (m : List (Nat × α)) (k : Nat) : List (Nat × α) := m.filter (fun e => e.1 != k)

/-- The table without every entry that a test finds. -/
def delIf {α : Type} (m : List (Nat × α)) (p : Nat → α → Bool) : List (Nat × α) := m.filter (fun e => !p e.1 e.2)

/-- The table with one listed value changed. -/
def adjust {α : Type} (m : List (Nat × α)) (k : Nat) (d : α) (f : α → α) : List (Nat × α) := put m k (f (lookD m k d))

/-- Every value changed. -/
def mapVals {α β : Type} (m : List (Nat × α)) (f : Nat → α → β) : List (Nat × β) := m.map (fun e => (e.1, f e.1 e.2))

/-- The lowest key from `k` below `k + n` that is not listed. -/
def freeKey {α : Type} (m : List (Nat × α)) : Nat → Nat → Option Nat
  | _, 0 => none
  | k, n + 1 => if (look m k).isNone then some k else freeKey m (k + 1) n

/-- A list with its `n`-th entry changed. -/
def setAt {α : Type} (l : List α) (n : Nat) (f : α → α) : List α :=
  match l, n with
  | [], _ => []
  | x :: r, 0 => f x :: r
  | x :: r, n + 1 => x :: setAt r n f

end Sys2Proof.Machine
end

