-- ==== Sys2Proof/Machine/Formats.lean ====
section
/-! DEFINITION. Number formats, conversions, rounding and accumulators (06_fold_arithmetic.md R151 to R163). -/

namespace Sys2Proof.Machine

/-! ### Exact values -/

/-- A value decoded exactly (R157): NaN, an infinity, or ±m × 2^e; a zero keeps its sign. -/
inductive Num
  | nan
  | inf (neg : Bool)
  | fin (neg : Bool) (m : Nat) (e : Int)
  deriving DecidableEq, Repr

def Num.zero : Num := .fin false 0 0
def Num.one : Num := .fin false 1 0

/-- An integer as a value. -/
def Num.ofInt (x : Int) : Num := .fin (decide (x < 0)) x.natAbs 0

def Num.isNan : Num → Bool
  | .nan => true
  | _ => false
def Num.isInf : Num → Bool
  | .inf _ => true
  | _ => false
def Num.isZero : Num → Bool
  | .fin _ m _ => m == 0
  | _ => false
def Num.finite (x : Num) : Bool := !x.isNan && !x.isInf

def Num.isNeg : Num → Bool
  | .fin s _ _ => s
  | .inf s => s
  | .nan => false

def Num.neg : Num → Num
  | .fin s m e => .fin (!s) m e
  | .inf s => .inf (!s)
  | .nan => .nan

def Num.abs : Num → Num
  | .fin _ m e => .fin false m e
  | .inf _ => .inf false
  | .nan => .nan

/-- A signed mantissa at the exponent `q ≤ e`. -/
def atExp (s : Bool) (m : Nat) (e q : Int) : Int :=
  let x : Int := (m * 2 ^ (e - q).toNat : Nat)
  if s then -x else x

/-- The exact sum; a zero result is −0 only of two negative zeros. -/
def Num.add (a b : Num) : Num :=
  match a, b with
  | .nan, _ => .nan
  | _, .nan => .nan
  | .inf s, .inf t => if s = t then .inf s else .nan
  | .inf s, _ => .inf s
  | _, .inf t => .inf t
  | .fin s m e, .fin t n f =>
    let q := min e f
    let x := atExp s m e q + atExp t n f q
    if x = 0 then .fin (s && t) 0 0 else .fin (decide (x < 0)) x.natAbs q

/-- The exact product. -/
def Num.mul (a b : Num) : Num :=
  match a, b with
  | .nan, _ => .nan
  | _, .nan => .nan
  | .inf s, x => if x.isZero then .nan else .inf (s != x.isNeg)
  | x, .inf t => if x.isZero then .nan else .inf (x.isNeg != t)
  | .fin s m e, .fin t n f => .fin (s != t) (m * n) (e + f)

/-- A quotient with enough bits and a sticky last bit, so that one rounding to nearest gives the correctly rounded result in
every format here. -/
def Num.div (a b : Num) : Num :=
  match a, b with
  | .nan, _ => .nan
  | _, .nan => .nan
  | .inf s, .inf _ => if s then .nan else .nan
  | .inf s, x => .inf (s != x.isNeg)
  | x, .inf t => .fin (x.isNeg != t) 0 0
  | .fin s m e, .fin t n f =>
    if n = 0 then (if m = 0 then .nan else .inf (s != t))
    else if m = 0 then .fin (s != t) 0 0
    else
      let k := Nat.log2 n + 70
      let q := m * 2 ^ k / n
      let sticky := if m * 2 ^ k % n = 0 then 0 else 1
      .fin (s != t) (2 * q + sticky) (e - f - k - 1)

/-- The integer square root, bit by bit from bit `n`. -/
def isqrtFrom (x : Nat) : Nat → Nat → Nat
  | 0, r => if (r + 1) * (r + 1) ≤ x then r + 1 else r
  | n + 1, r => isqrtFrom x n (if (r + 2 ^ (n + 1)) * (r + 2 ^ (n + 1)) ≤ x then r + 2 ^ (n + 1) else r)
def isqrt (x : Nat) : Nat := isqrtFrom x (Nat.log2 x / 2 + 1) 0

/-- A square root with enough bits and a sticky last bit. -/
def Num.sqrt (a : Num) : Num :=
  match a with
  | .nan => .nan
  | .inf s => if s then .nan else .inf false
  | .fin s m e =>
    if m = 0 then .fin s 0 0
    else if s then .nan
    else
      let k : Nat := 140
      let (m', e') := if e % 2 = 0 then (m * 2 ^ k, e - k) else (2 * m * 2 ^ k, e - 1 - k)
      let r := isqrt m'
      .fin false (2 * r + (if r * r = m' then 0 else 1)) (e' / 2 - 1)

/-- Whether a is below b; −0 is below +0 (R163). -/
def Num.lt (a b : Num) : Bool :=
  match a, b with
  | .nan, _ => false
  | _, .nan => false
  | .inf s, .inf t => s && !t
  | .inf s, _ => s
  | _, .inf t => !t
  | .fin s m e, .fin t n f =>
    if m = 0 && n = 0 then s && !t else atExp s m e (min e f) < atExp t n f (min e f)

/-- The IEEE 754-2019 operations maximum and minimum. -/
def Num.maximum (a b : Num) : Num := if a.isNan || b.isNan then .nan else if a.lt b then b else a
def Num.minimum (a b : Num) : Num := if a.isNan || b.isNan then .nan else if b.lt a then b else a

/-! ### Rounding (R159, R160) -/

/-- How a value is rounded; STOCH carries the generator's value for the element. -/
inductive Rnd
  | rne
  | rtz
  | stoch (x : Nat)
  deriving DecidableEq, Repr

/-- The generator of R160. -/
def stochGen (seed pos : Nat) : Nat :=
  let x : Word := BitVec.ofNat 32 seed ^^^ (BitVec.ofNat 32 pos * 0x9E3779B9#32)
  let x := x ^^^ (x >>> 16)
  let x := x * 0x21F0AAAD#32
  let x := x ^^^ (x >>> 15)
  let x := x * 0x735A2D97#32
  (x ^^^ (x >>> 15)).toNat

/-- The rounding of the element at a position under a ROUND code. -/
def rndOf (round seed pos : Nat) : Rnd :=
  if round = 1 then .rtz else if round = 2 then .stoch (stochGen seed pos) else .rne

/-- Whether a truncated magnitude `n` with the discarded part rem / den goes away from zero. -/
def Rnd.away (r : Rnd) (n rem den : Nat) : Bool :=
  match r with
  | .rne => den < 2 * rem || (2 * rem == den && n % 2 == 1)
  | .rtz => false
  | .stoch x => x < rem * 2 ^ 32 / den

/-- The magnitude m × 2^e in units of 2^q, rounded. -/
def roundMag (r : Rnd) (m : Nat) (e q : Int) : Nat :=
  if q ≤ e then m * 2 ^ (e - q).toNat
  else
    let d := 2 ^ (q - e).toNat
    m / d + (if r.away (m / d) (m % d) d then 1 else 0)

/-! ### Floating-point formats (R152, R156, R157) -/

/-- Which values the largest exponent holds: ∞ and NaN, one NaN, or numbers only. -/
inductive Top
  | ieee | e4m3 | none
  deriving DecidableEq, Repr

structure FF where
  ebits : Nat
  fbits : Nat
  bias : Nat
  top : Top
  deriving DecidableEq, Repr

def fp64 : FF := ⟨11, 52, 1023, .ieee⟩
def fp32 : FF := ⟨8, 23, 127, .ieee⟩
def bf16 : FF := ⟨8, 7, 127, .ieee⟩
def fp16 : FF := ⟨5, 10, 15, .ieee⟩
def e4m3 : FF := ⟨4, 3, 7, .e4m3⟩
def e5m2 : FF := ⟨5, 2, 15, .ieee⟩
def e2m3 : FF := ⟨2, 3, 1, .none⟩
def e2m1 : FF := ⟨2, 1, 1, .none⟩

/-- The value of an element's bits. -/
def FF.dec (f : FF) (x : Nat) : Num :=
  let s := bitOf x (f.ebits + f.fbits)
  let e := bitsOf x f.fbits f.ebits
  let m := bitsOf x 0 f.fbits
  if f.top = .ieee && e == 2 ^ f.ebits - 1 then (if m = 0 then .inf s else .nan)
  else if f.top = .e4m3 && e == 2 ^ f.ebits - 1 && m == 2 ^ f.fbits - 1 then .nan
  else if e = 0 then .fin s m (1 - f.bias - f.fbits)
  else .fin s (2 ^ f.fbits + m) (e - f.bias - f.fbits)

/-- The bits of the largest finite magnitude. -/
def FF.maxMag (f : FF) : Nat :=
  match f.top with
  | .ieee => (2 ^ f.ebits - 1) * 2 ^ f.fbits - 1
  | .e4m3 => 2 ^ (f.ebits + f.fbits) - 2
  | .none => 2 ^ (f.ebits + f.fbits) - 1

/-- The canonical NaN (R156). -/
def FF.nan (f : FF) : Nat :=
  match f.top with
  | .ieee => (2 ^ f.ebits - 1) * 2 ^ f.fbits + 2 ^ (f.fbits - 1)
  | _ => 2 ^ (f.ebits + f.fbits) - 1

/-- A magnitude rounded into a format, if it does not go beyond the largest finite value. -/
def FF.mag (f : FF) (r : Rnd) (m : Nat) (e : Int) : Option Nat :=
  if m = 0 then some 0
  else
    let q : Int := max (e + (Nat.log2 m : Int) - f.fbits) (1 - f.bias - f.fbits)
    let x := roundMag r m e q + (q + f.fbits + f.bias - 1).toNat * 2 ^ f.fbits
    if f.maxMag < x then none else some x

/-- A sign put on a magnitude's bits. -/
def FF.signed (f : FF) (s : Bool) (x : Nat) : Nat := if s then x + 2 ^ (f.ebits + f.fbits) else x

/-- An encoding (R157): the bits, and whether the event counts in FLD_CONV_SPECIALS. -/
def FF.enc (f : FF) (r : Rnd) (sat : Bool) (v : Num) : Nat × Bool :=
  let inf := if f.top = .ieee then (2 ^ f.ebits - 1) * 2 ^ f.fbits else f.nan
  match v with
  | .nan => (f.nan, false)
  | .inf s => if sat then (f.signed s f.maxMag, true) else if f.top = .ieee then (f.signed s inf, false) else (inf, true)
  | .fin s m e =>
    match f.mag r m e with
    | some x => (f.signed s x, false)
    | none => if sat || r = .rtz then (f.signed s f.maxMag, true)
              else if f.top = .ieee then (f.signed s inf, true) else (inf, true)

/-- One rounding to nearest even in a format, as an arithmetic step does. -/
def FF.rnd (f : FF) (v : Num) : Num := f.dec (f.enc .rne false v).1

/-! ### Integers -/

/-- A value as an integer of `w` bits (R157), two's complement, and whether it is a special event. -/
def intEnc (w : Nat) (r : Rnd) (v : Num) : Nat × Bool :=
  let hi : Int := 2 ^ (w - 1) - 1
  let lo : Int := -(2 ^ (w - 1))
  let wrap (x : Int) : Nat := (x % 2 ^ w).toNat
  match v with
  | .nan => (0, true)
  | .inf s => (wrap (if s then lo else hi), true)
  | .fin s m e =>
    let n : Int := roundMag r m e 0
    let x := if s then -n else n
    if hi < x then (wrap hi, true) else if x < lo then (wrap lo, true) else (wrap x, false)

/-- The integer of `w` two's-complement bits. -/
def intDec (w x : Nat) : Int := if 2 ^ (w - 1) ≤ x % 2 ^ w then (x % 2 ^ w : Int) - 2 ^ w else (x % 2 ^ w : Nat)

/-! ### Format codes (R151 to R155) -/

/-- Whether a code is not reserved, and whether it is an MX format. -/
def fmtOk (f : Nat) : Bool := f < 12
def isMx (f : Nat) : Bool := 6 ≤ f && f ≤ 9

/-- The bits of an element. -/
def fmtBits (f : Nat) : Nat :=
  match f with
  | 0 => 64 | 1 => 32 | 2 => 16 | 3 => 16 | 4 => 8 | 5 => 8 | 6 => 8 | 7 => 6 | 8 => 4 | 9 => 8 | 10 => 32 | _ => 8

/-- The elements of a 4 KiB tile. -/
def fmtE (f : Nat) : Nat :=
  match f with
  | 0 => 512 | 1 => 1024 | 2 => 2048 | 3 => 2048 | 4 => 4096 | 5 => 4096 | 6 => 3840 | 7 => 5120 | 8 => 7680 | 9 => 3840
  | 10 => 1024 | _ => 4096

/-- The floating-point layout of a code's elements, if it has one. -/
def fmtFF (f : Nat) : Option FF :=
  match f with
  | 0 => some fp64 | 1 => some fp32 | 2 => some bf16 | 3 => some fp16 | 4 => some e4m3 | 5 => some e5m2 | 6 => some e4m3
  | 7 => some e2m3 | 8 => some e2m1 | _ => none

/-- An element of a format without blocks, decoded and encoded. -/
def elemDec (f x : Nat) : Num :=
  match fmtFF f with
  | some ff => ff.dec x
  | none => .ofInt (intDec (fmtBits f) x)
def elemEnc (f : Nat) (r : Rnd) (sat : Bool) (v : Num) : Nat × Bool :=
  match fmtFF f with
  | some ff => ff.enc r sat v
  | none => intEnc (fmtBits f) r v

/-! ### MX blocks (R153, R158) -/

/-- An element of an MX block under its scale byte. -/
def mxDec (f scale x : Nat) : Num :=
  if scale = 255 then .nan
  else
    let v := match fmtFF f with
      | some ff => ff.dec x
      | none => (match Num.ofInt (intDec 8 x) with
        | .fin s m e => .fin s m (e - 6)
        | y => y)
    match v with
    | .fin s m e => .fin s m (e + scale - 127)
    | y => y

/-- floor(log2) of the largest magnitude of a block, none if it is 0. -/
def blockTop (vs : List Num) : Option Int :=
  vs.foldl (fun a v => match v with
    | .fin _ m e => if m = 0 then a else
        (match a with
         | none => some (e + (Nat.log2 m : Int))
         | some t => some (max t (e + (Nat.log2 m : Int))))
    | _ => a) none

/-- emax of R158. -/
def mxEmax (f : Nat) : Int := if f = 6 then 8 else if f = 9 then 0 else 2

/-- An element encoded under a scale: saturating always (R158 step 3). -/
def mxElem (f : Nat) (r : Rnd) (scale : Int) (v : Num) : Nat × Bool :=
  match v with
  | .fin s m e =>
    (match fmtFF f with
     | some ff =>
       (match ff.mag r m (e - scale) with
        | some x => (ff.signed s x, false)
        | none => (ff.signed s ff.maxMag, true))
     | none => intEnc 8 r (.fin s m (e - scale + 6)))
  | _ => (0, false)

/-- A block of 32 values encoded: scale, elements, special events. -/
def mxEnc (f : Nat) (vs : List (Num × Rnd)) : Nat × List Nat × Nat :=
  if vs.any (fun v => !v.1.finite) then (255, vs.map (fun _ => 0), countIf (fun (v : Num × Rnd) => !v.1.isNan) vs)
  else match blockTop (vs.map (·.1)) with
    | none => (127, vs.map (fun v => (mxElem f v.2 0 v.1).1), 0)
    | some t =>
      let x : Int := max (-127) (min 127 (t - mxEmax f))
      let es := vs.map (fun v => mxElem f v.2 x v.1)
      ((127 + x).toNat, es.map (·.1), countIf (fun (e : Nat × Bool) => e.2) es)

/-! ### Strings of elements (R154, R155, R167) -/

/-- The elements of a byte string, `w` bits each, least significant first within each group of `g` bytes. -/
def unpackBits (w g : Nat) (bytes : List Byte) : List Nat :=
  (upTo (bytes.length / g)).flatMap (fun i =>
    let x := ofBytesLE (slice bytes (i * g) g)
    (upTo (8 * g / w)).map (fun k => bitsOf x (k * w) w))
def packBits (w g : Nat) (xs : List Nat) : List Byte :=
  let per := 8 * g / w
  (upTo (ceilDiv xs.length per)).flatMap (fun i =>
    bytesLE g ((slice xs (i * per) per).zipIdx.foldl (fun a e => a + e.1 % 2 ^ w * 2 ^ (e.2 * w)) 0))

/-- The bytes in which a format packs its elements: of an element, or of the elements of an MX block. -/
def fmtGroup (f : Nat) : Nat := if isMx f then 4 * fmtBits f else fmtBits f / 8

/-- The values of `n` elements of a tile. -/
def tileDec (f : Nat) (tile : List Byte) (n : Nat) : List Num :=
  if isMx f then
    ((unpackBits (fmtBits f) (fmtGroup f) (slice tile 256 (ceilDiv n 32 * fmtGroup f))).take n).zipIdx.map (fun e =>
      mxDec f (tile.getD (e.2 / 32) 0).toNat e.1)
  else ((unpackBits (fmtBits f) (fmtGroup f) (tile.take (n * fmtGroup f))).take n).map (elemDec f)

/-- The values of one part's payload of `n` elements (R167). -/
def partDec (f : Nat) (payload : List Byte) (n : Nat) : List Num :=
  if isMx f then
    let b := n / 32
    ((unpackBits (fmtBits f) (fmtGroup f) (slice payload b (b * fmtGroup f))).take n).zipIdx.map (fun e =>
      mxDec f (payload.getD (e.2 / 32) 0).toNat e.1)
  else ((unpackBits (fmtBits f) (fmtGroup f) payload).take n).map (elemDec f)

/-- An encoded tile: the codes of its elements, the scales of its blocks, which elements were special events (an MX block of NaN
counts its values as mxEnc says). -/
structure Encoded where
  codes : List Nat
  scales : List Nat
  specials : Nat
  special : List Bool
  deriving DecidableEq, Repr

/-- Values encoded into a format. -/
def encAll (f : Nat) (sat : Bool) (vs : List (Num × Rnd)) : Encoded :=
  if isMx f then
    let bs := (upTo (ceilDiv vs.length 32)).map (fun i =>
      let b := slice vs (32 * i) 32
      (mxEnc f b, b.map (fun v =>
        if b.any (fun u => !u.1.finite) then !v.1.isNan
        else match blockTop (b.map (·.1)) with
          | none => false
          | some t => (mxElem f v.2 (max (-127) (min 127 (t - mxEmax f))) v.1).2)))
    { codes := bs.flatMap (fun b => b.1.2.1), scales := bs.map (fun b => b.1.1), specials := sumOf (bs.map (fun b => b.1.2.2)),
      special := bs.flatMap (·.2) }
  else
    let es := vs.map (fun v => elemEnc f v.2 sat v.1)
    { codes := es.map (·.1), scales := [], specials := countIf (fun (e : Nat × Bool) => e.2) es, special := es.map (·.2) }

/-- The tile that encoded elements make over an old tile: elements from their count onward keep their previous values, and
reserved scale bytes are written as 0 (R154, R202). -/
def tileEnc (f : Nat) (x : Encoded) (old : List Byte) : List Byte :=
  let body := packBits (fmtBits f) (fmtGroup f) x.codes
  if isMx f then
    let blocks := fmtE f / 32
    let t := overlay (overlay old 0 (x.scales.map (BitVec.ofNat 8))) 256 body
    overlay t blocks (zeros (256 - blocks))
  else overlay old 0 body

/-- The value that an encoded element holds. -/
def Encoded.value (f : Nat) (x : Encoded) (i : Nat) : Num :=
  if isMx f then mxDec f (x.scales.getD (i / 32) 0) (x.codes.getD i 0) else elemDec f (x.codes.getD i 0)

/-- Bytes that the first `n` elements take of a tile, scales included; for the input bytes of R192. -/
def fmtBytes (f n : Nat) : Nat := if isMx f then n / 32 * (fmtGroup f + 1) else n * fmtBits f / 8

/-! ### Accumulators (R162, R163) -/

/-- Whether an input format and a reduction pair with an accumulator. -/
def accPairs (acc fmt op : Nat) : Bool :=
  match acc with
  | 0 => (1 ≤ fmt && fmt ≤ 9) && op ≤ 4
  | 1 => fmt ≤ 9 && op ≤ 4
  | 2 => (fmt == 10 || fmt == 11) && (op ≤ 2 || op == 4)
  | _ => false

/-- The width of an accumulator in staging. -/
def accBytes (acc : Nat) : Nat := if acc = 1 then 8 else 4

/-- The bits of a value in an accumulator and the value of the bits. -/
def accDec (acc x : Nat) : Num := if acc = 2 then .ofInt (intDec 32 x) else if acc = 1 then fp64.dec x else fp32.dec x
def accEnc (acc : Nat) (v : Num) : Nat × Bool :=
  if acc = 2 then intEnc 32 .rne v else if acc = 1 then fp64.enc .rne false v else fp32.enc .rne false v

/-- A value brought into an accumulator's format (R162, R176), and whether that is a special event. -/
def toAcc (acc : Nat) (v : Num) : Num × Bool :=
  let (x, s) := accEnc acc v
  (accDec acc x, s)

/-- An update of an accumulator by an input (R163); `none` is an accumulator without input. The second part says whether
an INT32 sum saturated. -/
def accStep (acc op : Nat) (a : Option Nat) (v : Num) : Nat × Bool :=
  let sat (x : Num) : Nat × Bool := let (b, s) := accEnc acc x; (b, acc == 2 && s)
  match op, a with
  | 1, none => sat v
  | 1, some x => ((accEnc acc (Num.maximum (accDec acc x) v)).1, false)
  | 2, none => sat v
  | 2, some x => ((accEnc acc (Num.minimum (accDec acc x) v)).1, false)
  | 4, none => sat ((v.mul v).add .zero)
  | 4, some x => sat ((v.mul v).add (accDec acc x))
  | _, none => sat v
  | _, some x => sat ((accDec acc x).add v)

/-- The identity of a reduction (R163). -/
def accIdentity (acc op : Nat) : Num :=
  if op = 1 then (if acc = 2 then .ofInt (-(2 ^ 31)) else .inf true)
  else if op = 2 then (if acc = 2 then .ofInt (2 ^ 31 - 1) else .inf false)
  else .zero

/-- The output of an accumulator: for MEAN divided by n, correctly rounded in the accumulator's format (R163). -/
def accOut (acc op : Nat) (x : Num) (n : Nat) : Num :=
  if op = 3 && n != 0 then accDec acc (accEnc acc (x.div (.ofInt n))).1 else x

end Sys2Proof.Machine
end

