-- ==== Sys2Proof/Machine/RegMap.lean ====
section
/-! DEFINITION. The register map (18_register_map.md R493): one row per field of the spec's register tables, with its access
type (00_scope.md R9) and what each reset level does to it (R11). Fields the spec marks reserved have no row, so they read as
0 and take no write (R8). -/

namespace Sys2Proof.Machine

/-- The access types of R9. -/
inductive Acc
  | rw | ro | wo | w1c | rc | rws
  deriving DecidableEq, Repr

/-- A field of a register: the offset of its 32-bit word (`count` words `stride` apart), its place, its access type, its
value at P reset, whether S and C reset keep it, and, where the spec reserves encodings, the least and greatest that are
not reserved. -/
structure RegRow where
  base : Nat
  stride : Nat
  count : Nat
  lo : Nat
  width : Nat
  acc : Acc
  pval : Nat
  keepS : Bool
  keepC : Bool
  lim : Option (Nat × Nat)
  deriving DecidableEq, Repr

/-- Whether a row describes the word at an offset. -/
def RegRow.at (r : RegRow) (off : Nat) : Bool :=
  r.base ≤ off && (if r.stride = 0 then off == r.base
    else (off - r.base) % r.stride == 0 && (off - r.base) / r.stride < r.count)

/-- Part 1 of the map, in order of offset. -/
def regRows1 : List RegRow := [
  ⟨0x0, 0x0, 1, 24, 2, .ro, 0, false, true, none⟩,  -- GLB_ID.CODE
  ⟨0x0, 0x0, 1, 16, 8, .ro, 0, false, true, none⟩,  -- GLB_ID.STEPPING
  ⟨0x0, 0x0, 1, 0, 16, .ro, 8256, false, false, none⟩,  -- GLB_ID.DEVICE
  ⟨0x8, 0x0, 1, 0, 32, .ro, 0, false, true, none⟩,  -- GLB_SERIAL(lo)
  ⟨0xC, 0x0, 1, 0, 32, .ro, 0, false, true, none⟩,  -- GLB_SERIAL(hi)
  ⟨0x10, 0x0, 1, 0, 20, .ro, 0, false, true, none⟩,  -- GLB_CAPACITY.FOLIOS
  ⟨0x14, 0x0, 1, 2, 1, .ro, 0, false, true, none⟩,  -- GLB_STRAPS.CARD
  ⟨0x14, 0x0, 1, 1, 1, .ro, 0, true, true, none⟩,  -- GLB_STRAPS.ETH_MODE
  ⟨0x14, 0x0, 1, 0, 1, .ro, 0, true, true, none⟩,  -- GLB_STRAPS.SELFTEST_FULL
  ⟨0x20, 0x0, 1, 0, 32, .rws, 0, true, true, none⟩,  -- GLB_SCRATCH
  ⟨0x100, 0x0, 1, 12, 4, .rw, 0, false, true, none⟩,  -- GLB_BEAT_CTL.MASTER_PRIORITY
  ⟨0x100, 0x0, 1, 8, 1, .rw, 1, false, true, none⟩,  -- GLB_BEAT_CTL.MASTER_ELIGIBLE
  ⟨0x100, 0x0, 1, 0, 8, .rw, 50, true, true, none⟩,  -- GLB_BEAT_CTL.PERIOD_US
  ⟨0x104, 0x0, 1, 8, 8, .ro, 0, false, true, none⟩,  -- GLB_BEAT_STATUS.OFFSET_NS
  ⟨0x104, 0x0, 1, 4, 1, .ro, 0, false, true, none⟩,  -- GLB_BEAT_STATUS.BEAT_AHEAD
  ⟨0x104, 0x0, 1, 3, 1, .ro, 0, false, true, none⟩,  -- GLB_BEAT_STATUS.BEAT_UNLOCKED
  ⟨0x104, 0x0, 1, 0, 3, .ro, 0, false, true, none⟩,  -- GLB_BEAT_STATUS.STATE
  ⟨0x108, 0x0, 1, 0, 24, .ro, 0, false, true, none⟩,  -- GLB_BEAT_MASTER
  ⟨0x110, 0x0, 1, 0, 32, .ro, 0, true, true, none⟩,  -- GLB_BEAT_NUM(lo)
  ⟨0x114, 0x0, 1, 0, 32, .ro, 0, true, true, none⟩,  -- GLB_BEAT_NUM(hi)
  ⟨0x200, 0x0, 1, 0, 32, .wo, 0, false, false, none⟩,  -- GLB_COMMIT
  ⟨0x204, 0x0, 1, 28, 4, .ro, 0, false, false, none⟩,  -- GLB_COMMIT_STATUS.TICKET
  ⟨0x204, 0x0, 1, 24, 1, .w1c, 0, false, false, none⟩,  -- GLB_COMMIT_STATUS.SHADOW_LOCKED
  ⟨0x204, 0x0, 1, 16, 8, .ro, 0, false, false, none⟩,  -- GLB_COMMIT_STATUS.DETAIL
  ⟨0x204, 0x0, 1, 8, 8, .ro, 0, false, false, none⟩,  -- GLB_COMMIT_STATUS.REASON
  ⟨0x204, 0x0, 1, 3, 5, .ro, 0, false, false, none⟩,  -- GLB_COMMIT_STATUS.GROUP
  ⟨0x204, 0x0, 1, 0, 2, .ro, 0, false, false, none⟩,  -- GLB_COMMIT_STATUS.STATE
  ⟨0x208, 0x0, 1, 0, 32, .ro, 0, false, false, none⟩,  -- GLB_COMMIT_PENDING
  ⟨0x210, 0x0, 1, 0, 32, .rw, 0, false, false, none⟩,  -- GLB_COMMIT_BEAT(lo)
  ⟨0x214, 0x0, 1, 0, 32, .rw, 0, false, false, none⟩,  -- GLB_COMMIT_BEAT(hi)
  ⟨0x218, 0x0, 1, 0, 32, .ro, 0, false, false, none⟩,  -- GLB_COMMIT_DONE_BEAT(lo)
  ⟨0x21C, 0x0, 1, 0, 32, .ro, 0, false, false, none⟩,  -- GLB_COMMIT_DONE_BEAT(hi)
  ⟨0x300, 0x0, 1, 8, 8, .rw, 3, false, true, none⟩,  -- GLB_TMO.HEARTBEAT
  ⟨0x300, 0x0, 1, 0, 8, .rw, 4, false, true, none⟩,  -- GLB_TMO.CTX_TIMEOUT
  ⟨0x10000, 0x0, 1, 0, 2, .rw, 0, true, true, some (0, 2)⟩,  -- RCU_CTL.PERST_LEVEL
  ⟨0x10004, 0x0, 1, 16, 16, .wo, 0, false, false, none⟩,  -- RCU_CMD.KEY
  ⟨0x10004, 0x0, 1, 0, 2, .wo, 0, false, false, none⟩,  -- RCU_CMD.LEVEL
  ⟨0x10008, 0x0, 1, 12, 2, .ro, 0, true, true, none⟩,  -- RCU_RESET_CAUSE.LAST
  ⟨0x10008, 0x0, 1, 0, 10, .w1c, 1, true, true, none⟩,  -- RCU_RESET_CAUSE
  ⟨0x1000C, 0x0, 1, 0, 32, .ro, 0, true, true, none⟩,  -- RCU_RESET_COUNT
  ⟨0x10010, 0x0, 1, 8, 4, .ro, 0, true, true, none⟩,  -- RCU_STORM.WINDOW
  ⟨0x10010, 0x0, 1, 0, 1, .w1c, 0, true, true, none⟩,  -- RCU_STORM.STORM
  ⟨0x10014, 0x0, 1, 2, 2, .ro, 0, false, true, none⟩,  -- RCU_FUSE_STATUS.FAILS
  ⟨0x10014, 0x0, 1, 1, 1, .ro, 0, false, true, none⟩,  -- RCU_FUSE_STATUS.FAULT
  ⟨0x10014, 0x0, 1, 0, 1, .ro, 0, false, true, none⟩,  -- RCU_FUSE_STATUS.LOADED
  ⟨0x10020, 0x0, 1, 0, 32, .ro, 0, false, true, none⟩,  -- RCU_CLK_GOOD(lo)
  ⟨0x10024, 0x0, 1, 0, 20, .ro, 0, false, true, none⟩,  -- RCU_CLK_GOOD(hi)
  ⟨0x10028, 0x0, 1, 0, 32, .w1c, 0, false, true, none⟩,  -- RCU_CLK_FAULT(lo)
  ⟨0x1002C, 0x0, 1, 0, 20, .w1c, 0, false, true, none⟩,  -- RCU_CLK_FAULT(hi)
  ⟨0x10030, 0x0, 1, 0, 32, .rc, 0, false, true, none⟩,  -- RCU_CLK_EVENTS
  ⟨0x10040, 0x0, 1, 16, 16, .rw, 2000, false, true, some (1, 65535)⟩,  -- RCU_WDT.TIMEOUT_MS
  ⟨0x10040, 0x0, 1, 0, 1, .rw, 1, false, true, none⟩,  -- RCU_WDT.ENABLE
  ⟨0x10044, 0x0, 1, 0, 32, .wo, 0, false, false, none⟩,  -- RCU_WDT_KICK
  ⟨0x20000, 0x0, 1, 4, 3, .ro, 0, false, false, none⟩,  -- PWR_STATE.REFUSE
  ⟨0x20000, 0x0, 1, 0, 3, .ro, 0, false, false, none⟩,  -- PWR_STATE.STATE
  ⟨0x20004, 0x0, 1, 0, 3, .wo, 0, false, false, none⟩,  -- PWR_STATE_CMD.TARGET
  ⟨0x20010, 0x0, 1, 8, 1, .w1c, 0, true, true, none⟩,  -- PWR_SUPPLY.TRIP_SEEN
  ⟨0x20010, 0x0, 1, 3, 1, .ro, 0, false, true, none⟩,  -- PWR_SUPPLY.INHIBIT
  ⟨0x20010, 0x0, 1, 2, 1, .ro, 0, false, true, none⟩,  -- PWR_SUPPLY.IO_TRIP
  ⟨0x20010, 0x0, 1, 1, 1, .ro, 0, false, true, none⟩,  -- PWR_SUPPLY.AON_TRIP
  ⟨0x20010, 0x0, 1, 0, 1, .ro, 0, false, true, none⟩,  -- PWR_SUPPLY.CORE_TRIP
  ⟨0x20014, 0x0, 1, 0, 32, .rc, 0, false, true, none⟩,  -- PWR_SUPPLY_EVENTS
  ⟨0x20020, 0x0, 1, 16, 8, .ro, 0, false, true, none⟩,  -- PWR_THERMAL.T_STACK
  ⟨0x20020, 0x0, 1, 8, 8, .ro, 0, false, true, none⟩,  -- PWR_THERMAL.T_LOGIC
  ⟨0x20020, 0x0, 1, 0, 2, .ro, 0, false, true, none⟩,  -- PWR_THERMAL.LEVEL
  ⟨0x20024, 0x0, 1, 0, 32, .rc, 0, false, true, none⟩,  -- PWR_THERMAL_EVENTS
  ⟨0x20028, 0x0, 1, 0, 10, .rw, 1000, false, true, some (500, 1000)⟩,  -- PWR_PLIMIT.PLIMIT_W
  ⟨0x2002C, 0x0, 1, 0, 10, .ro, 0, false, true, none⟩,  -- PWR_POWER_EST
  ⟨0x20030, 0x0, 1, 0, 32, .rc, 0, false, true, none⟩,  -- PWR_PLIMIT_EVENTS
  ⟨0x30000, 0x0, 1, 6, 1, .ro, 0, false, true, none⟩,  -- SEC_STATUS.ERROR
  ⟨0x30000, 0x0, 1, 5, 1, .ro, 0, true, true, none⟩,  -- SEC_STATUS.DEBUG_INVASIVE
  ⟨0x30000, 0x0, 1, 4, 1, .ro, 0, true, true, none⟩,  -- SEC_STATUS.TAMPERED
  ⟨0x30000, 0x0, 1, 3, 1, .ro, 0, false, true, none⟩,  -- SEC_STATUS.UPDATE_PENDING
  ⟨0x30000, 0x0, 1, 1, 2, .ro, 0, false, true, none⟩,  -- SEC_STATUS.BOOT
  ⟨0x30000, 0x0, 1, 0, 1, .ro, 0, false, true, none⟩,  -- SEC_STATUS.READY
  ⟨0x30004, 0x0, 1, 16, 16, .ro, 0, false, true, none⟩,  -- SEC_FW.SVN_RUNNING
  ⟨0x30004, 0x0, 1, 1, 7, .ro, 0, false, true, none⟩,  -- SEC_FW.SVN_MIN
  ⟨0x30004, 0x0, 1, 0, 1, .ro, 0, false, true, none⟩,  -- SEC_FW.ACTIVE_SLOT
  ⟨0x30008, 0x0, 1, 0, 16, .ro, 0, true, true, none⟩,  -- SEC_TAMPER_COUNT
  ⟨0x30010, 0x0, 1, 0, 32, .ro, 0, false, true, none⟩,  -- SEC_BOOT_ID_LO(lo)
  ⟨0x30014, 0x0, 1, 0, 32, .ro, 0, false, true, none⟩,  -- SEC_BOOT_ID_LO(hi)
  ⟨0x30018, 0x0, 1, 0, 32, .ro, 0, false, true, none⟩,  -- SEC_BOOT_ID_HI(lo)
  ⟨0x3001C, 0x0, 1, 0, 32, .ro, 0, false, true, none⟩,  -- SEC_BOOT_ID_HI(hi)
  ⟨0x30020, 0x0, 1, 16, 16, .rw, 0, false, false, some (0, 16384)⟩,  -- SEC_MBOX_CTL.LENGTH
  ⟨0x30020, 0x0, 1, 8, 8, .ro, 0, false, false, none⟩,  -- SEC_MBOX_CTL.STATUS
  ⟨0x30020, 0x0, 1, 2, 1, .w1c, 0, false, false, none⟩,  -- SEC_MBOX_CTL.DONE
  ⟨0x30020, 0x0, 1, 1, 1, .ro, 0, false, false, none⟩,  -- SEC_MBOX_CTL.BUSY
  ⟨0x30020, 0x0, 1, 0, 1, .wo, 0, false, false, none⟩,  -- SEC_MBOX_CTL.GO
  ⟨0x31000, 0x4, 1024, 2, 10, .ro, 0, false, true, none⟩,  -- SEC_SLOT_n.TENANT
  ⟨0x31000, 0x4, 1024, 0, 2, .ro, 0, false, true, none⟩   -- SEC_SLOT_n.STATE
  ]

/-- Part 2 of the map, in order of offset. -/
def regRows2 : List RegRow := [
  ⟨0x34000, 0x4, 4096, 0, 32, .rw, 0, false, false, none⟩,  -- SEC_MBOX_DATA
  ⟨0x40000, 0x0, 1, 4, 2, .ro, 0, false, true, none⟩,  -- MGT_STATUS.ETH
  ⟨0x40000, 0x0, 1, 3, 1, .ro, 0, false, true, none⟩,  -- MGT_STATUS.SLOT_B_VALID
  ⟨0x40000, 0x0, 1, 2, 1, .ro, 0, false, true, none⟩,  -- MGT_STATUS.SLOT_A_VALID
  ⟨0x40000, 0x0, 1, 1, 1, .ro, 0, false, true, none⟩,  -- MGT_STATUS.RECOVERY
  ⟨0x40000, 0x0, 1, 0, 1, .ro, 0, false, true, none⟩,  -- MGT_STATUS.RUNNING
  ⟨0x40004, 0x0, 1, 0, 1, .ro, 0, true, true, none⟩,  -- MGT_BOOT.TRIAL_TRIED
  ⟨0x40010, 0x0, 1, 0, 26, .rw, 0, false, false, none⟩,  -- MGT_FLASH_ADDR
  ⟨0x40014, 0x0, 1, 0, 2, .wo, 0, false, false, none⟩,  -- MGT_FLASH_CMD.OP
  ⟨0x40018, 0x0, 1, 2, 2, .ro, 0, false, false, none⟩,  -- MGT_FLASH_STAT.ERROR
  ⟨0x40018, 0x0, 1, 1, 1, .w1c, 0, false, false, none⟩,  -- MGT_FLASH_STAT.DONE
  ⟨0x40018, 0x0, 1, 0, 1, .ro, 0, false, false, none⟩,  -- MGT_FLASH_STAT.BUSY
  ⟨0x41000, 0x4, 64, 0, 32, .rw, 0, false, false, none⟩,  -- MGT_FLASH_DATA
  ⟨0x50000, 0x0, 1, 1, 1, .ro, 0, true, true, none⟩,  -- DBG_AUTH.INVASIVE
  ⟨0x50000, 0x0, 1, 0, 1, .ro, 0, false, true, none⟩,  -- DBG_AUTH.NONINVASIVE
  ⟨0x50010, 0x0, 1, 12, 4, .ro, 0, true, true, none⟩,  -- DBG_STOP.CAUSE
  ⟨0x50010, 0x0, 1, 9, 1, .ro, 0, false, false, none⟩,  -- DBG_STOP.SCAN_DIRTY
  ⟨0x50010, 0x0, 1, 8, 1, .ro, 0, true, true, none⟩,  -- DBG_STOP.STOPPED
  ⟨0x50010, 0x0, 1, 4, 1, .rw, 0, true, true, none⟩,  -- DBG_STOP.PIN_OUT_EN
  ⟨0x50010, 0x0, 1, 3, 1, .rw, 0, true, true, none⟩,  -- DBG_STOP.PIN_IN_EN
  ⟨0x50010, 0x0, 1, 2, 1, .rw, 0, true, true, none⟩,  -- DBG_STOP.SCOPE
  ⟨0x50010, 0x0, 1, 1, 1, .wo, 0, false, false, none⟩,  -- DBG_STOP.RESUME
  ⟨0x50010, 0x0, 1, 0, 1, .wo, 0, false, false, none⟩,  -- DBG_STOP.STOP
  ⟨0x50100, 0x20, 32, 0, 32, .rw, 0, true, true, none⟩,  -- DBG_TW_n.TAG
  ⟨0x50104, 0x20, 32, 0, 32, .rw, 0, true, true, none⟩,  -- DBG_TW_n.STEP_LO
  ⟨0x50108, 0x20, 32, 0, 32, .rw, 0, true, true, none⟩,  -- DBG_TW_n.STEP_HI
  ⟨0x5010C, 0x20, 32, 9, 2, .rw, 0, true, true, some (0, 2)⟩,  -- DBG_TW_n.ACTION
  ⟨0x5010C, 0x20, 32, 5, 4, .rw, 0, true, true, none⟩,  -- DBG_TW_n.COND
  ⟨0x5010C, 0x20, 32, 1, 4, .rw, 0, true, true, some (0, 11)⟩,  -- DBG_TW_n.FMT
  ⟨0x5010C, 0x20, 32, 0, 1, .rw, 0, true, true, none⟩,  -- DBG_TW_n.VALID
  ⟨0x50110, 0x20, 32, 0, 32, .rw, 0, true, true, none⟩,  -- DBG_TW_n.THRESH
  ⟨0x51000, 0x20, 32, 0, 32, .rc, 0, true, true, none⟩,  -- DBG_TW_HIT_n.HITS
  ⟨0x51008, 0x20, 32, 0, 32, .ro, 0, true, true, none⟩,  -- DBG_TW_HIT_n.FIRST_PLA(lo)
  ⟨0x5100C, 0x20, 32, 31, 1, .w1c, 0, true, true, none⟩,  -- DBG_TW_HIT_n.FIRST_VALID
  ⟨0x5100C, 0x20, 32, 0, 16, .ro, 0, true, true, none⟩,  -- DBG_TW_HIT_n.FIRST_PLA(hi)
  ⟨0x51010, 0x20, 32, 0, 32, .ro, 0, true, true, none⟩,  -- DBG_TW_HIT_n.FIRST_STEP
  ⟨0x51014, 0x20, 32, 0, 13, .ro, 0, true, true, none⟩,  -- DBG_TW_HIT_n.FIRST_INDEX
  ⟨0x51018, 0x20, 32, 0, 32, .ro, 0, true, true, none⟩,  -- DBG_TW_HIT_n.FIRST_BEAT
  ⟨0x100000, 0x0, 1, 1, 1, .rw, 0, false, true, none⟩,  -- EXT_CTL.STRICT_ALL
  ⟨0x100000, 0x0, 1, 0, 1, .rw, 0, false, true, none⟩,  -- EXT_CTL.ENABLE
  ⟨0x100004, 0x0, 1, 0, 1, .ro, 0, false, false, none⟩,  -- EXT_STATUS.READY
  ⟨0x100008, 0x0, 1, 0, 19, .ro, 0, false, true, none⟩,  -- EXT_USED
  ⟨0x100080, 0x0, 1, 0, 5, .rw, 1, false, true, none⟩,  -- EXT_ILV_LEVELS
  ⟨0x100100, 0x10, 16, 16, 8, .rw, 0, false, true, none⟩,  -- EXT_ILV_CTL_n.SELF
  ⟨0x100100, 0x10, 16, 8, 4, .rw, 0, false, true, none⟩,  -- EXT_ILV_CTL_n.GRAIN
  ⟨0x100100, 0x10, 16, 0, 8, .rw, 0, false, true, none⟩,  -- EXT_ILV_CTL_n.MEMBERS_M1
  ⟨0x100104, 0x10, 16, 0, 24, .rw, 0, false, true, none⟩,  -- EXT_ILV_COORD_n
  ⟨0x100108, 0x10, 16, 0, 24, .rw, 0, false, true, none⟩,  -- EXT_ILV_BASE_n
  ⟨0x10010C, 0x10, 16, 0, 24, .rw, 0, false, true, none⟩,  -- EXT_ILV_STRIDE_n
  ⟨0x200000, 0x0, 1, 0, 1, .rw, 0, false, false, none⟩,  -- RNG_CTL.ENABLE
  ⟨0x200004, 0x0, 1, 16, 13, .ro, 0, false, false, none⟩,  -- RNG_STATUS.ACTIVE_RINGS
  ⟨0x200004, 0x0, 1, 0, 1, .ro, 0, false, false, none⟩,  -- RNG_STATUS.READY
  ⟨0x200010, 0x0, 1, 12, 20, .rw, 0, false, false, none⟩,  -- RNG_RING0_SQ_BASE(lo)
  ⟨0x200014, 0x0, 1, 0, 32, .rw, 0, false, false, none⟩,  -- RNG_RING0_SQ_BASE(hi)
  ⟨0x200018, 0x0, 1, 12, 20, .rw, 0, false, false, none⟩,  -- RNG_RING0_CQ_BASE(lo)
  ⟨0x20001C, 0x0, 1, 0, 32, .rw, 0, false, false, none⟩,  -- RNG_RING0_CQ_BASE(hi)
  ⟨0x200020, 0x0, 1, 24, 2, .rw, 2, false, false, some (0, 2)⟩,  -- RNG_RING0_CFG.IRQ_MODE
  ⟨0x200020, 0x0, 1, 12, 12, .rw, 0, false, false, none⟩,  -- RNG_RING0_CFG.VECTOR
  ⟨0x200020, 0x0, 1, 7, 5, .rw, 6, false, false, some (6, 16)⟩,  -- RNG_RING0_CFG.CQ_LOG2
  ⟨0x200020, 0x0, 1, 2, 5, .rw, 6, false, false, some (6, 16)⟩,  -- RNG_RING0_CFG.SQ_LOG2
  ⟨0x200020, 0x0, 1, 1, 1, .rw, 0, false, false, none⟩,  -- RNG_RING0_CFG.LOC_MGT
  ⟨0x200020, 0x0, 1, 0, 1, .rw, 0, false, false, none⟩,  -- RNG_RING0_CFG.ENABLE
  ⟨0x200030, 0x0, 1, 12, 20, .rw, 0, false, false, none⟩,  -- RNG_FQ0_BASE(lo)
  ⟨0x200034, 0x0, 1, 0, 32, .rw, 0, false, false, none⟩,  -- RNG_FQ0_BASE(hi)
  ⟨0x200038, 0x0, 1, 7, 12, .rw, 0, false, false, none⟩,  -- RNG_FQ0_CFG.VECTOR
  ⟨0x200038, 0x0, 1, 2, 5, .rw, 6, false, false, some (6, 16)⟩,  -- RNG_FQ0_CFG.LOG2
  ⟨0x200038, 0x0, 1, 1, 1, .rw, 0, false, false, none⟩,  -- RNG_FQ0_CFG.LOC_MGT
  ⟨0x200038, 0x0, 1, 0, 1, .rw, 0, false, false, none⟩,  -- RNG_FQ0_CFG.ENABLE
  ⟨0x200040, 0x0, 1, 12, 20, .rw, 0, false, false, none⟩,  -- RNG_EQ0_BASE(lo)
  ⟨0x200044, 0x0, 1, 0, 32, .rw, 0, false, false, none⟩,  -- RNG_EQ0_BASE(hi)
  ⟨0x200048, 0x0, 1, 7, 12, .rw, 0, false, false, none⟩,  -- RNG_EQ0_CFG.VECTOR
  ⟨0x200048, 0x0, 1, 2, 5, .rw, 6, false, false, some (6, 16)⟩,  -- RNG_EQ0_CFG.LOG2
  ⟨0x200048, 0x0, 1, 1, 1, .rw, 0, false, false, none⟩,  -- RNG_EQ0_CFG.LOC_MGT
  ⟨0x200048, 0x0, 1, 0, 1, .rw, 0, false, false, none⟩,  -- RNG_EQ0_CFG.ENABLE
  ⟨0x200050, 0x0, 1, 8, 1, .rw, 0, false, false, none⟩,  -- RNG_ERRQ_PKG.VALID
  ⟨0x200050, 0x0, 1, 0, 6, .rw, 0, false, false, none⟩,  -- RNG_ERRQ_PKG.QUEUE
  ⟨0x200060, 0x0, 1, 0, 32, .rc, 0, false, false, none⟩,  -- RNG_DB_DROPPED
  ⟨0x200064, 0x0, 1, 0, 32, .rc, 0, false, false, none⟩,  -- RNG_FQ_UNROUTED
  ⟨0x200068, 0x0, 1, 0, 32, .rc, 0, false, false, none⟩,  -- RNG_EQ_UNROUTED
  ⟨0x200070, 0x0, 1, 0, 32, .w1c, 0, false, false, none⟩,  -- RNG_FQ_OVF(lo)
  ⟨0x200074, 0x0, 1, 0, 32, .w1c, 0, false, false, none⟩,  -- RNG_FQ_OVF(hi)
  ⟨0x200078, 0x0, 1, 0, 32, .w1c, 0, false, false, none⟩,  -- RNG_EQ_OVF(lo)
  ⟨0x20007C, 0x0, 1, 0, 32, .w1c, 0, false, false, none⟩,  -- RNG_EQ_OVF(hi)
  ⟨0x201000, 0x4, 64, 0, 32, .rc, 0, false, false, none⟩,  -- RNG_FQ_LOST_q
  ⟨0x201100, 0x4, 64, 0, 32, .rc, 0, false, false, none⟩,  -- RNG_EQ_LOST_q
  ⟨0x300000, 0x0, 1, 0, 1, .rw, 0, false, false, none⟩,  -- XLT_CTL.ENABLE
  ⟨0x300004, 0x0, 1, 4, 5, .ro, 0, false, false, none⟩,  -- XLT_STATUS.WALKS
  ⟨0x300004, 0x0, 1, 0, 1, .ro, 0, false, false, none⟩,  -- XLT_STATUS.READY
  ⟨0x300008, 0x0, 1, 0, 13, .ro, 0, false, false, none⟩,  -- XLT_DOMAINS_SET
  ⟨0x300010, 0x0, 1, 0, 32, .rc, 0, false, false, none⟩   -- XLT_TLB_MISSES
  ]

/-- Part 3 of the map, in order of offset. -/
def regRows3 : List RegRow := [
  ⟨0x300014, 0x0, 1, 0, 32, .rc, 0, false, false, none⟩,  -- XLT_WALK_WAITS
  ⟨0x300018, 0x0, 1, 0, 32, .rc, 0, false, false, none⟩,  -- XLT_STALE_REDONE
  ⟨0x30001C, 0x0, 1, 0, 32, .rc, 0, false, false, none⟩,  -- XLT_FAULTS
  ⟨0x380000, 0x0, 1, 1, 1, .rw, 0, false, false, none⟩,  -- MOV_CTL.ROW_PREDICT
  ⟨0x380000, 0x0, 1, 0, 1, .rw, 0, false, false, none⟩,  -- MOV_CTL.ENABLE
  ⟨0x380004, 0x0, 1, 1, 6, .ro, 0, false, false, none⟩,  -- MOV_STATUS.BUSY
  ⟨0x380004, 0x0, 1, 0, 1, .ro, 0, false, false, none⟩,  -- MOV_STATUS.READY
  ⟨0x400000, 0x0, 1, 0, 1, .rw, 0, false, false, none⟩,  -- FLD_CTL.ENABLE
  ⟨0x400004, 0x0, 1, 1, 13, .ro, 0, false, false, none⟩,  -- FLD_STATUS.ARMED
  ⟨0x400004, 0x0, 1, 0, 1, .ro, 0, false, false, none⟩,  -- FLD_STATUS.READY
  ⟨0x400008, 0x0, 1, 0, 16, .ro, 32768, false, false, none⟩,  -- FLD_FST_FREE
  ⟨0x400010, 0x0, 1, 0, 32, .rc, 0, false, false, none⟩,  -- FLD_DUP_DISCARDS
  ⟨0x400014, 0x0, 1, 0, 32, .rc, 0, false, false, none⟩,  -- FLD_LATE_DISCARDS
  ⟨0x400018, 0x0, 1, 0, 32, .rc, 0, false, false, none⟩,  -- FLD_NOT_ARMED
  ⟨0x40001C, 0x0, 1, 0, 32, .rc, 0, false, false, none⟩,  -- FLD_CONV_SPECIALS
  ⟨0x400020, 0x0, 1, 0, 32, .rc, 0, false, false, none⟩,  -- FLD_INT_SAT
  ⟨0x500000, 0x0, 1, 0, 1, .rw, 0, false, false, none⟩,  -- SEQ_CTL.ENABLE
  ⟨0x500004, 0x0, 1, 1, 9, .ro, 0, false, false, none⟩,  -- SEQ_STATUS.OPS
  ⟨0x500004, 0x0, 1, 0, 1, .ro, 0, false, false, none⟩,  -- SEQ_STATUS.READY
  ⟨0x500008, 0x0, 1, 0, 32, .ro, 0, false, false, none⟩,  -- SEQ_FW_VERSION
  ⟨0x500010, 0x0, 1, 3, 1, .ro, 0, false, false, none⟩,  -- SEQ_TCHK_CTL.ERROR
  ⟨0x500010, 0x0, 1, 2, 1, .ro, 0, false, false, none⟩,  -- SEQ_TCHK_CTL.READY
  ⟨0x500010, 0x0, 1, 1, 1, .rw, 0, false, false, none⟩,  -- SEQ_TCHK_CTL.INIT
  ⟨0x500010, 0x0, 1, 0, 1, .rw, 0, false, false, none⟩,  -- SEQ_TCHK_CTL.ENABLE
  ⟨0x500018, 0x0, 1, 21, 11, .rw, 0, false, false, none⟩,  -- SEQ_TCHK_BASE.PLA(lo)
  ⟨0x50001C, 0x0, 1, 16, 8, .rw, 0, false, false, none⟩,  -- SEQ_TCHK_BASE.GEN
  ⟨0x50001C, 0x0, 1, 0, 16, .rw, 0, false, false, none⟩,  -- SEQ_TCHK_BASE.PLA(hi)
  ⟨0x500020, 0x0, 1, 0, 32, .rc, 0, false, false, none⟩,  -- SEQ_TCHK_MISMATCH
  ⟨0x500024, 0x0, 1, 0, 32, .rc, 0, false, false, none⟩,  -- SEQ_TCHK_STALE_READS
  ⟨0x500028, 0x0, 1, 0, 32, .rc, 0, false, false, none⟩,  -- SEQ_SLICE_OVERRUNS
  ⟨0x50002C, 0x0, 1, 0, 32, .rc, 0, false, false, none⟩,  -- SEQ_TCHK_TABLE_ERRORS
  ⟨0x600000, 0x0, 1, 1, 1, .rw, 0, false, false, none⟩,  -- KVE_CTL.INIT
  ⟨0x600000, 0x0, 1, 0, 1, .rw, 0, false, false, none⟩,  -- KVE_CTL.ENABLE
  ⟨0x600004, 0x0, 1, 1, 1, .ro, 0, false, false, none⟩,  -- KVE_STATUS.ERROR
  ⟨0x600004, 0x0, 1, 0, 1, .ro, 0, false, false, none⟩,  -- KVE_STATUS.READY
  ⟨0x600008, 0x0, 1, 21, 11, .rw, 0, false, true, none⟩,  -- KVE_TABLE_BASE.PLA(lo)
  ⟨0x60000C, 0x0, 1, 16, 8, .rw, 0, false, true, none⟩,  -- KVE_TABLE_BASE.GEN
  ⟨0x60000C, 0x0, 1, 0, 16, .rw, 0, false, true, none⟩,  -- KVE_TABLE_BASE.PLA(hi)
  ⟨0x600010, 0x0, 1, 0, 32, .rc, 0, false, false, none⟩,  -- KVE_APPENDS_DEFERRED
  ⟨0x600014, 0x0, 1, 0, 32, .rc, 0, false, false, none⟩,  -- KVE_LATE_APPENDS
  ⟨0x600018, 0x0, 1, 0, 32, .rc, 0, false, false, none⟩,  -- KVE_EVICTED
  ⟨0x60001C, 0x0, 1, 0, 32, .rc, 0, false, false, none⟩,  -- KVE_COW_COPIES
  ⟨0x601000, 0x20, 1024, 30, 1, .rw, 0, false, true, none⟩,  -- KVE_TENANT_n.AUTO_EVICT
  ⟨0x601000, 0x20, 1024, 27, 3, .rw, 0, false, true, none⟩,  -- KVE_TENANT_n.SLOT_CODE
  ⟨0x601000, 0x20, 1024, 0, 27, .rw, 0, false, true, none⟩,  -- KVE_TENANT_n.ARENA_FOLIO
  ⟨0x601004, 0x20, 1024, 0, 23, .rw, 0, false, true, none⟩,  -- KVE_TENANT_n.LEAF_BASE
  ⟨0x601008, 0x20, 1024, 0, 24, .rw, 0, false, true, none⟩,  -- KVE_TENANT_n.LEAVES
  ⟨0x60100C, 0x20, 1024, 0, 20, .rw, 0, false, true, none⟩,  -- KVE_TENANT_n.QUIRE_BASE
  ⟨0x601010, 0x20, 1024, 0, 21, .rw, 0, false, true, none⟩,  -- KVE_TENANT_n.QUIRE_COUNT
  ⟨0x601014, 0x20, 1024, 0, 23, .rw, 0, false, true, none⟩,  -- KVE_TENANT_n.PREFIX_QUOTA
  ⟨0x700000, 0x0, 1, 0, 1, .rw, 0, false, false, none⟩,  -- COH_CTL.ENABLE
  ⟨0x700004, 0x0, 1, 1, 7, .ro, 0, false, true, none⟩,  -- COH_STATUS.JOINED
  ⟨0x700004, 0x0, 1, 0, 1, .ro, 0, false, false, none⟩,  -- COH_STATUS.READY
  ⟨0x700010, 0x0, 1, 0, 32, .rc, 0, false, false, none⟩,  -- COH_BINV_SENT
  ⟨0x700014, 0x0, 1, 0, 32, .rc, 0, false, false, none⟩,  -- COH_BINV_STALLS
  ⟨0x700018, 0x0, 1, 0, 32, .rc, 0, false, false, none⟩,  -- COH_STALE_WB
  ⟨0x70001C, 0x0, 1, 0, 32, .rc, 0, false, false, none⟩,  -- COH_LOST_LINES
  ⟨0x700020, 0x0, 1, 0, 32, .rc, 0, false, false, none⟩,  -- COH_REVOKE_STRUCK
  ⟨0x700024, 0x0, 1, 0, 32, .rc, 0, false, false, none⟩,  -- COH_ORDER_WAITS
  ⟨0x701000, 0x8, 64, 24, 2, .ro, 0, false, true, none⟩,  -- COH_AGENT_n.STATE
  ⟨0x701000, 0x8, 64, 0, 24, .ro, 0, false, true, none⟩,  -- COH_AGENT_n.NODE
  ⟨0x701004, 0x8, 64, 11, 10, .ro, 0, false, true, none⟩,  -- COH_AGENT_n.TENANT
  ⟨0x701004, 0x8, 64, 4, 7, .ro, 0, false, true, none⟩,  -- COH_AGENT_n.WAYS
  ⟨0x701004, 0x8, 64, 0, 4, .ro, 0, false, true, none⟩,  -- COH_AGENT_n.SETS_LOG2
  ⟨0x800000, 0x10000, 24, 1, 1, .rw, 0, false, true, none⟩,  -- LNK_n.CTL.FEC_LIGHT
  ⟨0x800000, 0x10000, 24, 0, 1, .rw, 0, false, true, none⟩,  -- LNK_n.CTL.ENABLE
  ⟨0x800004, 0x10000, 24, 16, 1, .ro, 0, false, true, none⟩,  -- LNK_n.STATUS.PLANNED_DOWN
  ⟨0x800004, 0x10000, 24, 8, 8, .ro, 0, false, true, none⟩,  -- LNK_n.STATUS.WL_LOCK
  ⟨0x800004, 0x10000, 24, 7, 1, .ro, 0, false, true, none⟩,  -- LNK_n.STATUS.KEYED
  ⟨0x800004, 0x10000, 24, 6, 1, .ro, 0, false, true, none⟩,  -- LNK_n.STATUS.LASER_OK
  ⟨0x800004, 0x10000, 24, 5, 1, .ro, 0, false, true, none⟩,  -- LNK_n.STATUS.LOS
  ⟨0x800004, 0x10000, 24, 4, 1, .ro, 0, false, true, none⟩,  -- LNK_n.STATUS.LIGHT_ACTIVE
  ⟨0x800004, 0x10000, 24, 0, 4, .ro, 0, false, true, none⟩,  -- LNK_n.STATUS.STATE
  ⟨0x800008, 0x10000, 24, 29, 1, .ro, 0, false, true, none⟩,  -- LNK_n.PEER.LIGHT_OK
  ⟨0x800008, 0x10000, 24, 24, 5, .ro, 0, false, true, none⟩,  -- LNK_n.PEER.PORT
  ⟨0x800008, 0x10000, 24, 0, 24, .ro, 0, false, true, none⟩,  -- LNK_n.PEER.NODE
  ⟨0x80000C, 0x10000, 24, 0, 24, .ro, 0, false, true, none⟩,  -- LNK_n.DELAY
  ⟨0x800010, 0x10000, 24, 1, 1, .wo, 0, false, false, none⟩,  -- LNK_n.CMD.DOWN
  ⟨0x800010, 0x10000, 24, 0, 1, .wo, 0, false, false, none⟩,  -- LNK_n.CMD.RETRAIN
  ⟨0x800020, 0x10000, 24, 0, 32, .rc, 0, false, true, none⟩,  -- LNK_n.RS_CORRECTED
  ⟨0x800024, 0x10000, 24, 0, 32, .rc, 0, false, true, none⟩,  -- LNK_n.RS_UNCORRECTED
  ⟨0x800028, 0x10000, 24, 0, 32, .rc, 0, false, true, none⟩,  -- LNK_n.REPLAYS
  ⟨0x80002C, 0x10000, 24, 0, 32, .rc, 0, false, true, none⟩,  -- LNK_n.TAG_FAILS
  ⟨0x800030, 0x10000, 24, 0, 32, .rc, 0, false, true, none⟩,  -- LNK_n.DOWN_EVENTS
  ⟨0xA00000, 0x0, 1, 0, 1, .rw, 0, false, true, none⟩,  -- RTE_CTL.ENABLE
  ⟨0xA00004, 0x0, 1, 3, 1, .ro, 1, false, true, none⟩,  -- RTE_STATUS.TRANSIT_EMPTY
  ⟨0xA00004, 0x0, 1, 2, 1, .w1c, 0, false, true, none⟩,  -- RTE_STATUS.ROUTE_STALE
  ⟨0xA00004, 0x0, 1, 1, 1, .ro, 0, false, true, none⟩,  -- RTE_STATUS.CARD
  ⟨0xA00004, 0x0, 1, 0, 1, .ro, 0, false, true, none⟩,  -- RTE_STATUS.READY
  ⟨0xA00008, 0x0, 1, 0, 24, .rws, 0, true, true, none⟩   -- RTE_NODE
  ]

/-- Part 4 of the map, in order of offset. -/
def regRows4 : List RegRow := [
  ⟨0xA00010, 0x0, 1, 0, 32, .rc, 0, false, true, none⟩,  -- RTE_DROPS
  ⟨0xA00014, 0x0, 1, 0, 32, .rc, 0, false, true, none⟩,  -- RTE_BAD_MSGS
  ⟨0xA00018, 0x0, 1, 0, 32, .rc, 0, false, true, none⟩,  -- RTE_ESC_HOPS
  ⟨0xA0001C, 0x0, 1, 0, 32, .rc, 0, false, true, none⟩,  -- RTE_ELECTIONS
  ⟨0xA00100, 0x4, 24, 3, 1, .rw, 1, false, true, none⟩,  -- RTE_PORT_p.ABSENT
  ⟨0xA00100, 0x4, 24, 2, 1, .rw, 0, false, true, none⟩,  -- RTE_PORT_p.DATELINE
  ⟨0xA00100, 0x4, 24, 0, 2, .rw, 0, false, true, none⟩,  -- RTE_PORT_p.DIM
  ⟨0xA01000, 0x4, 256, 30, 1, .rw, 0, false, true, none⟩,  -- RTE_DIM_d_v.REACH
  ⟨0xA01000, 0x4, 256, 29, 1, .rw, 0, false, true, none⟩,  -- RTE_DIM_d_v.ESC_VALID
  ⟨0xA01000, 0x4, 256, 24, 5, .rw, 0, false, true, none⟩,  -- RTE_DIM_d_v.ESC_PORT
  ⟨0xA01000, 0x4, 256, 0, 24, .rw, 0, false, true, none⟩,  -- RTE_DIM_d_v.ADAPT_MASK
  ⟨0xA02000, 0x8, 1024, 24, 8, .rw, 0, false, true, none⟩,  -- RTE_EXC_k.TARGET(lo)
  ⟨0xA02000, 0x8, 1024, 0, 24, .rw, 0, false, true, none⟩,  -- RTE_EXC_k.NODE
  ⟨0xA02004, 0x8, 1024, 31, 1, .rw, 0, false, true, none⟩,  -- RTE_EXC_k.VALID
  ⟨0xA02004, 0x8, 1024, 0, 16, .rw, 0, false, true, none⟩,  -- RTE_EXC_k.TARGET(hi)
  ⟨0xB00000, 0x0, 1, 0, 1, .wo, 0, false, false, none⟩,  -- LCC_CTL.INVALIDATE
  ⟨0xB00004, 0x0, 1, 1, 1, .ro, 0, false, false, none⟩,  -- LCC_STATUS.INV_BUSY
  ⟨0xB00004, 0x0, 1, 0, 1, .ro, 0, false, false, none⟩,  -- LCC_STATUS.READY
  ⟨0xB00008, 0x0, 1, 0, 22, .ro, 0, false, false, none⟩,  -- LCC_VALID
  ⟨0xC00000, 0x20000, 20, 1, 1, .rw, 1, false, true, none⟩,  -- STK_n.CTL.PERIODIC_TRAIN
  ⟨0xC00000, 0x20000, 20, 0, 1, .rw, 0, false, true, none⟩,  -- STK_n.CTL.ENABLE
  ⟨0xC00004, 0x20000, 20, 5, 1, .ro, 0, false, true, none⟩,  -- STK_n.STATUS.DOUBLE
  ⟨0xC00004, 0x20000, 20, 4, 1, .ro, 0, false, false, none⟩,  -- STK_n.STATUS.PAUSE
  ⟨0xC00004, 0x20000, 20, 3, 1, .ro, 0, false, true, none⟩,  -- STK_n.STATUS.HOT
  ⟨0xC00004, 0x20000, 20, 0, 3, .ro, 0, false, true, none⟩,  -- STK_n.STATUS.STATE
  ⟨0xC00008, 0x20000, 20, 0, 8, .ro, 0, false, true, none⟩,  -- STK_n.TEMP
  ⟨0xC0000C, 0x20000, 20, 0, 8, .rw, 64, false, true, some (8, 255)⟩,  -- STK_n.TRAIN_PERIOD
  ⟨0xC00010, 0x20000, 20, 0, 32, .rc, 0, false, true, none⟩,  -- STK_n.REFRESH_POSTPONED
  ⟨0xC00014, 0x20000, 20, 0, 32, .rc, 0, false, true, none⟩,  -- STK_n.URGENT_LATE
  ⟨0xC00018, 0x20000, 20, 0, 32, .rc, 0, false, true, none⟩,  -- STK_n.TRAIN_DEFERRED
  ⟨0xC0001C, 0x20000, 20, 0, 32, .rc, 0, false, true, none⟩,  -- STK_n.RFM_ISSUED
  ⟨0xC00020, 0x20000, 20, 0, 32, .rc, 0, true, true, none⟩,  -- STK_n.TRAIN_FAILS
  ⟨0xC10000, 0x10, 32, 8, 7, .rw, 0, false, true, none⟩,  -- STK_REG_PORT_p.CAP_PCT
  ⟨0xC10000, 0x10, 32, 1, 7, .rw, 0, false, true, none⟩,  -- STK_REG_PORT_p.SHARE_PCT
  ⟨0xC10000, 0x10, 32, 0, 1, .rw, 0, false, true, none⟩,  -- STK_REG_PORT_p.MODE
  ⟨0xC10004, 0x10, 32, 0, 20, .rw, 0, false, true, none⟩,  -- STK_REG_TARGET_p.TARGET_NS
  ⟨0xC10008, 0x10, 32, 16, 9, .rw, 128, false, true, none⟩,  -- STK_REG_PANIC_p.PANIC_OFF
  ⟨0xC10008, 0x10, 32, 0, 9, .rw, 192, false, true, none⟩,  -- STK_REG_PANIC_p.PANIC_ON
  ⟨0xC10400, 0x0, 1, 0, 32, .ro, 0, false, false, none⟩,  -- STK_REG_PANIC
  ⟨0x1000000, 0x0, 1, 1, 1, .rw, 1, false, true, none⟩,  -- INT_CTL.REPAIR_EN
  ⟨0x1000000, 0x0, 1, 0, 1, .rw, 1, false, true, none⟩,  -- INT_CTL.SCRUB_EN
  ⟨0x1000004, 0x0, 1, 5, 20, .ro, 0, true, true, none⟩,  -- INT_STATUS.FAILED
  ⟨0x1000004, 0x0, 1, 3, 2, .ro, 0, true, true, none⟩,  -- INT_STATUS.GROUP1
  ⟨0x1000004, 0x0, 1, 1, 2, .ro, 0, true, true, none⟩,  -- INT_STATUS.GROUP0
  ⟨0x1000004, 0x0, 1, 0, 1, .ro, 0, false, true, none⟩,  -- INT_STATUS.INIT_DONE
  ⟨0x1000010, 0x0, 1, 16, 7, .rw, 50, false, true, none⟩,  -- INT_SCRUB_CTL.REBUILD_PCT
  ⟨0x1000010, 0x0, 1, 0, 16, .rw, 1440, false, true, none⟩,  -- INT_SCRUB_CTL.PERIOD_MIN
  ⟨0x1000014, 0x0, 1, 0, 16, .rw, 16, false, true, none⟩,  -- INT_ERRPOL.STICKY_THRESH
  ⟨0x1000018, 0x0, 1, 0, 32, .ro, 0, false, true, none⟩,  -- INT_SCRUB_POS
  ⟨0x100001C, 0x0, 1, 0, 32, .ro, 0, false, true, none⟩,  -- INT_SCRUB_PASSES
  ⟨0x1000020, 0x0, 1, 0, 32, .wo, 0, false, false, none⟩,  -- INT_SCRUB_NOW
  ⟨0x1000028, 0x0, 1, 7, 3, .rw, 0, false, false, none⟩,  -- INT_FLIP_CTL.WORD
  ⟨0x1000028, 0x0, 1, 6, 1, .rw, 0, false, false, none⟩,  -- INT_FLIP_CTL.CHECKBITS
  ⟨0x1000028, 0x0, 1, 2, 4, .rw, 0, false, false, some (0, 9)⟩,  -- INT_FLIP_CTL.POSITION
  ⟨0x1000028, 0x0, 1, 1, 1, .ro, 0, false, false, none⟩,  -- INT_FLIP_CTL.DONE
  ⟨0x1000028, 0x0, 1, 0, 1, .rw, 0, false, false, none⟩,  -- INT_FLIP_CTL.ARM
  ⟨0x1000030, 0x0, 1, 0, 32, .rw, 0, false, false, none⟩,  -- INT_FLIP_MASK(lo)
  ⟨0x1000034, 0x0, 1, 0, 32, .rw, 0, false, false, none⟩,  -- INT_FLIP_MASK(hi)
  ⟨0x1000038, 0x0, 1, 0, 32, .ro, 0, false, false, none⟩,  -- INT_FLIP_PPA(lo)
  ⟨0x100003C, 0x0, 1, 0, 9, .ro, 0, false, false, none⟩,  -- INT_FLIP_PPA(hi)
  ⟨0x1000040, 0x0, 1, 2, 1, .ro, 0, true, true, none⟩,  -- INT_SELFTEST.FAULTS
  ⟨0x1000040, 0x0, 1, 1, 1, .ro, 0, true, true, none⟩,  -- INT_SELFTEST.DONE
  ⟨0x1000040, 0x0, 1, 0, 1, .ro, 0, true, true, none⟩,  -- INT_SELFTEST.MODE
  ⟨0x1000044, 0x0, 1, 0, 32, .ro, 0, true, true, none⟩,  -- INT_SELFTEST_FAILS
  ⟨0x1000048, 0x0, 1, 0, 32, .rc, 0, false, true, none⟩,  -- INT_COALESCE_MISSED
  ⟨0x100004C, 0x0, 1, 0, 32, .rc, 0, false, true, none⟩,  -- INT_CAT_MISSED
  ⟨0x1000050, 0x0, 1, 0, 32, .rc, 0, false, true, none⟩,  -- INT_STRIPE_WAITS
  ⟨0x1000100, 0x4, 64, 0, 32, .rc, 0, false, true, none⟩,  -- INT_CLASS_CNT_c
  ⟨0x1001000, 0x10, 64, 31, 1, .w1c, 0, true, true, none⟩,  -- INT_CAT_n.VALID
  ⟨0x1001000, 0x10, 64, 30, 1, .ro, 0, true, true, none⟩,  -- INT_CAT_n.STICKY
  ⟨0x1001000, 0x10, 64, 17, 9, .ro, 0, true, true, none⟩,  -- INT_CAT_n.ROW_REGION
  ⟨0x1001000, 0x10, 64, 15, 2, .ro, 0, true, true, none⟩,  -- INT_CAT_n.BANK
  ⟨0x1001000, 0x10, 64, 13, 2, .ro, 0, true, true, none⟩,  -- INT_CAT_n.BANK_GROUP
  ⟨0x1001000, 0x10, 64, 11, 2, .ro, 0, true, true, none⟩,  -- INT_CAT_n.SID
  ⟨0x1001000, 0x10, 64, 10, 1, .ro, 0, true, true, none⟩,  -- INT_CAT_n.PC
  ⟨0x1001000, 0x10, 64, 5, 5, .ro, 0, true, true, none⟩,  -- INT_CAT_n.CHANNEL
  ⟨0x1001000, 0x10, 64, 0, 5, .ro, 0, true, true, none⟩,  -- INT_CAT_n.STACK
  ⟨0x1001004, 0x10, 64, 0, 32, .ro, 0, true, true, none⟩,  -- INT_CAT_n.COUNT
  ⟨0x1001008, 0x10, 64, 0, 32, .ro, 0, true, true, none⟩,  -- INT_CAT_n.FIRST_BEAT
  ⟨0x100100C, 0x10, 64, 0, 32, .ro, 0, true, true, none⟩,  -- INT_CAT_n.LAST_BEAT
  ⟨0x1100000, 0x0, 1, 0, 1, .rw, 0, false, true, none⟩,  -- RED_CTL.ENABLE
  ⟨0x1100004, 0x0, 1, 5, 1, .w1c, 0, false, false, none⟩,  -- RED_STATUS.GROUP_BUSY
  ⟨0x1100004, 0x0, 1, 4, 1, .ro, 0, false, true, none⟩,  -- RED_STATUS.REBUILDING
  ⟨0x1100004, 0x0, 1, 2, 2, .ro, 0, false, true, none⟩,  -- RED_STATUS.RESTORE
  ⟨0x1100004, 0x0, 1, 1, 1, .ro, 0, false, true, none⟩,  -- RED_STATUS.CKPT_VALID
  ⟨0x1100004, 0x0, 1, 0, 1, .ro, 0, false, true, none⟩,  -- RED_STATUS.READY
  ⟨0x1100008, 0x0, 1, 21, 11, .rws, 0, true, true, none⟩,  -- RED_REGION.FOLIO(lo)
  ⟨0x1100008, 0x0, 1, 0, 1, .rws, 0, true, true, none⟩,  -- RED_REGION.VALID
  ⟨0x110000C, 0x0, 1, 0, 9, .rws, 0, true, true, none⟩,  -- RED_REGION.FOLIO(hi)
  ⟨0x1100010, 0x0, 1, 24, 8, .rw, 0, false, true, none⟩   -- RED_CKPT_PARTNER.CTX(lo)
  ]

/-- Part 5 of the map, in order of offset. -/
def regRows5 : List RegRow := [
  ⟨0x1100010, 0x0, 1, 0, 24, .rw, 0, false, true, none⟩,  -- RED_CKPT_PARTNER.NODE
  ⟨0x1100014, 0x0, 1, 8, 1, .rw, 0, false, true, none⟩,  -- RED_CKPT_PARTNER.VALID
  ⟨0x1100014, 0x0, 1, 0, 8, .rw, 0, false, true, none⟩,  -- RED_CKPT_PARTNER.CTX(hi)
  ⟨0x1100018, 0x0, 1, 21, 11, .rw, 0, false, true, none⟩,  -- RED_CKPT_PARTNER_PLA(lo)
  ⟨0x110001C, 0x0, 1, 0, 16, .rw, 0, false, true, none⟩,  -- RED_CKPT_PARTNER_PLA(hi)
  ⟨0x1100020, 0x0, 1, 31, 1, .rw, 0, false, true, none⟩,  -- RED_ALIAS.VALID
  ⟨0x1100020, 0x0, 1, 0, 24, .rw, 0, false, true, none⟩,  -- RED_ALIAS.NODE
  ⟨0x1100028, 0x0, 1, 24, 8, .rw, 0, false, true, none⟩,  -- RED_RESTORE_SRC.CTX(lo)
  ⟨0x1100028, 0x0, 1, 0, 24, .rw, 0, false, true, none⟩,  -- RED_RESTORE_SRC.NODE
  ⟨0x110002C, 0x0, 1, 0, 8, .rw, 0, false, true, none⟩,  -- RED_RESTORE_SRC.CTX(hi)
  ⟨0x1100030, 0x0, 1, 21, 11, .rw, 0, false, true, none⟩,  -- RED_RESTORE_PLA(lo)
  ⟨0x1100034, 0x0, 1, 0, 16, .rw, 0, false, true, none⟩,  -- RED_RESTORE_PLA(hi)
  ⟨0x1100038, 0x0, 1, 0, 1, .wo, 0, false, false, none⟩,  -- RED_RESTORE_CTL.START
  ⟨0x1100040, 0x0, 1, 0, 32, .ro, 0, false, true, none⟩,  -- RED_LAST_CKPT_BEAT(lo)
  ⟨0x1100044, 0x0, 1, 0, 32, .ro, 0, false, true, none⟩,  -- RED_LAST_CKPT_BEAT(hi)
  ⟨0x1100048, 0x0, 1, 0, 21, .ro, 0, false, true, none⟩,  -- RED_JOURNAL_FILL
  ⟨0x1100050, 0x0, 1, 0, 32, .rc, 0, false, true, none⟩,  -- RED_VOTE_REPAIRS
  ⟨0x1100054, 0x0, 1, 0, 32, .rc, 0, false, true, none⟩,  -- RED_VOTE_NOMAJ
  ⟨0x1100058, 0x0, 1, 0, 32, .rc, 0, false, true, none⟩,  -- RED_PAIR_EVENTS
  ⟨0x110005C, 0x0, 1, 0, 32, .rc, 0, false, true, none⟩,  -- RED_CKPT_DEFERRED
  ⟨0x1100060, 0x0, 1, 0, 20, .ro, 0, false, true, none⟩,  -- RED_REBUILD_LEFT
  ⟨0x1120000, 0x20, 4096, 31, 1, .rw, 0, false, true, none⟩,  -- RED_GROUP_n.VALID
  ⟨0x1120000, 0x20, 4096, 26, 2, .wo, 0, false, false, none⟩,  -- RED_GROUP_n.RESYNC
  ⟨0x1120000, 0x20, 4096, 24, 2, .ro, 0, false, true, none⟩,  -- RED_GROUP_n.STATE
  ⟨0x1120000, 0x20, 4096, 0, 24, .rw, 0, false, true, none⟩,  -- RED_GROUP_n.PARTNER
  ⟨0x1120004, 0x20, 4096, 16, 16, .rw, 0, false, true, none⟩,  -- RED_GROUP_n.IN_CTX
  ⟨0x1120004, 0x20, 4096, 0, 16, .rw, 0, false, true, none⟩,  -- RED_GROUP_n.OUT_CTX
  ⟨0x1120008, 0x20, 4096, 0, 20, .rw, 0, false, true, none⟩,  -- RED_GROUP_n.WIN_LO
  ⟨0x112000C, 0x20, 4096, 0, 20, .rw, 0, false, true, none⟩,  -- RED_GROUP_n.WIN_LEN
  ⟨0x1120010, 0x20, 4096, 0, 27, .rw, 0, false, true, none⟩,  -- RED_GROUP_n.OUT_BASE
  ⟨0x1200000, 0x8, 400, 0, 32, .ro, 0, true, true, none⟩,  -- CNT_i(lo)
  ⟨0x1200004, 0x8, 400, 0, 32, .ro, 0, true, true, none⟩,  -- CNT_i(hi)
  ⟨0x120D000, 0x0, 1, 0, 1, .wo, 0, false, false, none⟩,  -- CNT_CTL.CLEAR_ALL
  ⟨0x120D008, 0x0, 1, 0, 32, .ro, 0, true, true, none⟩,  -- CNT_SNAP_BEAT(lo)
  ⟨0x120D00C, 0x0, 1, 0, 32, .ro, 0, true, true, none⟩,  -- CNT_SNAP_BEAT(hi)
  ⟨0x120E000, 0x8, 64, 22, 2, .rw, 0, true, true, none⟩,  -- CNT_SEL_j.FILTER
  ⟨0x120E000, 0x8, 64, 21, 1, .rw, 0, true, true, none⟩,  -- CNT_SEL_j.ANY_INSTANCE
  ⟨0x120E000, 0x8, 64, 16, 5, .rw, 0, true, true, none⟩,  -- CNT_SEL_j.INSTANCE
  ⟨0x120E000, 0x8, 64, 8, 8, .rw, 0, true, true, some (0, 22)⟩,  -- CNT_SEL_j.BLOCK
  ⟨0x120E000, 0x8, 64, 0, 8, .rw, 0, true, true, none⟩,  -- CNT_SEL_j.EVENT
  ⟨0x120E004, 0x8, 64, 0, 32, .rw, 0, true, true, none⟩,  -- CNT_SEL_j.FILTER_VALUE
  ⟨0x1210000, 0x8, 400, 0, 32, .ro, 0, true, true, none⟩,  -- CNT_SNAP_i(lo)
  ⟨0x1210004, 0x8, 400, 0, 32, .ro, 0, true, true, none⟩,  -- CNT_SNAP_i(hi)
  ⟨0x1300000, 0x0, 1, 11, 4, .rw, 0, true, true, none⟩,  -- TRC_CTL.SAMPLE_LOG2
  ⟨0x1300000, 0x0, 1, 10, 1, .rw, 0, true, true, none⟩,  -- TRC_CTL.STOP_ON_DONE
  ⟨0x1300000, 0x0, 1, 9, 1, .rw, 0, true, true, none⟩,  -- TRC_CTL.SPILL
  ⟨0x1300000, 0x0, 1, 2, 7, .rw, 0, true, true, none⟩,  -- TRC_CTL.POST_PCT
  ⟨0x1300000, 0x0, 1, 0, 2, .rw, 0, true, true, some (0, 2)⟩,  -- TRC_CTL.MODE
  ⟨0x1300004, 0x0, 1, 0, 32, .rw, 0, true, true, none⟩,  -- TRC_EVT_MASK
  ⟨0x1300008, 0x0, 1, 25, 1, .rw, 0, true, true, none⟩,  -- TRC_TRIG.WATCH
  ⟨0x1300008, 0x0, 1, 24, 1, .rw, 0, true, true, none⟩,  -- TRC_TRIG.CODE_ANY
  ⟨0x1300008, 0x0, 1, 16, 8, .rw, 0, true, true, none⟩,  -- TRC_TRIG.CODE
  ⟨0x1300008, 0x0, 1, 8, 8, .rw, 0, true, true, some (0, 22)⟩,  -- TRC_TRIG.BLOCK
  ⟨0x1300008, 0x0, 1, 0, 8, .rw, 0, true, true, some (1, 14)⟩,  -- TRC_TRIG.KIND
  ⟨0x130000C, 0x0, 1, 16, 1, .rw, 0, true, true, none⟩,  -- TRC_TRIG_CTX.CTX_ANY
  ⟨0x130000C, 0x0, 1, 0, 16, .rw, 0, true, true, none⟩,  -- TRC_TRIG_CTX.CTX
  ⟨0x1300010, 0x0, 1, 0, 16, .rw, 1, true, true, some (1, 65535)⟩,  -- TRC_TRIG_COUNT
  ⟨0x1300018, 0x0, 1, 21, 11, .rw, 0, true, true, none⟩,  -- TRC_SPILL.PLA(lo)
  ⟨0x130001C, 0x0, 1, 16, 8, .rw, 0, true, true, none⟩,  -- TRC_SPILL.GEN
  ⟨0x130001C, 0x0, 1, 0, 16, .rw, 0, true, true, none⟩,  -- TRC_SPILL.PLA(hi)
  ⟨0x1300020, 0x0, 1, 0, 13, .rw, 0, true, true, none⟩,  -- TRC_SPILL_LEN.LEN_MIB
  ⟨0x1300100, 0x0, 1, 1, 1, .wo, 0, false, false, none⟩,  -- TRC_ARM.FORCE_TRIG
  ⟨0x1300100, 0x0, 1, 0, 1, .wo, 0, false, false, none⟩,  -- TRC_ARM.ARM
  ⟨0x1300104, 0x0, 1, 3, 1, .ro, 0, true, true, none⟩,  -- TRC_STATUS.WRAPPED
  ⟨0x1300104, 0x0, 1, 2, 1, .ro, 0, true, true, none⟩,  -- TRC_STATUS.DONE
  ⟨0x1300104, 0x0, 1, 1, 1, .ro, 0, true, true, none⟩,  -- TRC_STATUS.TRIGGERED
  ⟨0x1300104, 0x0, 1, 0, 1, .ro, 0, true, true, none⟩,  -- TRC_STATUS.CAPTURING
  ⟨0x1300108, 0x0, 1, 0, 6, .rw, 0, true, true, none⟩,  -- TRC_BUF_PAGE
  ⟨0x1300110, 0x0, 1, 0, 32, .ro, 0, true, true, none⟩,  -- TRC_WRITE_PTR(lo)
  ⟨0x1300114, 0x0, 1, 0, 32, .ro, 0, true, true, none⟩,  -- TRC_WRITE_PTR(hi)
  ⟨0x1300118, 0x0, 1, 0, 32, .ro, 0, true, true, none⟩,  -- TRC_TRIG_PTR(lo)
  ⟨0x130011C, 0x0, 1, 0, 32, .ro, 0, true, true, none⟩,  -- TRC_TRIG_PTR(hi)
  ⟨0x1300120, 0x0, 1, 0, 32, .ro, 0, true, true, none⟩,  -- TRC_DROPPED(lo)
  ⟨0x1300124, 0x0, 1, 0, 32, .ro, 0, true, true, none⟩,  -- TRC_DROPPED(hi)
  ⟨0x1400000, 0x0, 1, 1, 1, .rw, 0, false, true, none⟩,  -- PCI_CTL.MOVER_RO
  ⟨0x1400000, 0x0, 1, 0, 1, .rw, 0, false, true, none⟩,  -- PCI_CTL.IDE_REQUIRED
  ⟨0x1400004, 0x0, 1, 10, 1, .ro, 0, false, true, none⟩,  -- PCI_LINK.UP
  ⟨0x1400004, 0x0, 1, 9, 1, .ro, 0, false, true, none⟩,  -- PCI_LINK.FLIT
  ⟨0x1400004, 0x0, 1, 4, 5, .ro, 0, false, true, none⟩,  -- PCI_LINK.WIDTH
  ⟨0x1400004, 0x0, 1, 0, 4, .ro, 0, false, true, none⟩,  -- PCI_LINK.SPEED
  ⟨0x1400008, 0x0, 1, 0, 7, .w1c, 0, false, true, none⟩,  -- PCI_EVT
  ⟨0x140000C, 0x0, 1, 0, 7, .rw, 0, false, true, none⟩,  -- PCI_EVT_MASK
  ⟨0x1401000, 0x10, 256, 31, 1, .rw, 0, false, true, none⟩,  -- PCI_FN_n.VALID
  ⟨0x1401000, 0x10, 256, 0, 16, .rw, 0, false, true, none⟩,  -- PCI_FN_n.CTX
  ⟨0x1401008, 0x10, 256, 0, 27, .rw, 0, false, true, none⟩   -- PCI_FN_n.WIN_FOLIO
  ]

/-- The MSI-X table of PF 0 (17_host_port_management.md R480), as the PCIe standard lays an entry out; its mask bit is 1
after reset (PRESUMED, log 7). -/
def regRowsMsix : List RegRow := [
  ⟨0x1480000, 16, 4096, 2, 30, .rw, 0, false, true, none⟩,  -- message address, low
  ⟨0x1480004, 16, 4096, 0, 32, .rw, 0, false, true, none⟩,  -- message address, high
  ⟨0x1480008, 16, 4096, 0, 32, .rw, 0, false, true, none⟩,  -- message data
  ⟨0x148000C, 16, 4096, 0, 1, .rw, 1, false, true, none⟩  -- vector control: mask
  ]

/-- The register map of R493. -/
def regRows : List RegRow := regRows1 ++ regRows2 ++ regRows3 ++ regRows4 ++ regRows5 ++ regRowsMsix

/-- The rows of one word. -/
def rowsAt (off : Nat) : List RegRow := regRows.filter (fun r => r.at off)

/-- The default guaranteed share and cap of a regulator port, and its latency target (11_memory_stacks.md R338): bits of
STK_REG_PORT_p and STK_REG_TARGET_p. -/
def regShare (p : Nat) : Nat :=
  if p = 25 then 10 else if p = 26 then 15 else if p ≤ 24 || p = 27 then 2 else if p ≤ 30 then 5 else 0
def regCap (p : Nat) : Nat := if p = 31 then 3 else 100
def regTarget (p : Nat) : Nat := if p ≤ 24 then 1000 else 10000

/-- The part of a word's P reset value that its table gives by register number. -/
def resetByInstance (off : Nat) : Nat :=
  if off = 0x1401000 then 0x80000000
  else if 0xC10000 ≤ off && off < 0xC10200 && (off - 0xC10000) % 16 == 0 then
    regShare ((off - 0xC10000) / 16) * 2 + regCap ((off - 0xC10000) / 16) * 256
  else if 0xC10000 ≤ off && off < 0xC10200 && (off - 0xC10000) % 16 == 4 then regTarget ((off - 0xC10000) / 16)
  else 0

/-- The value of a word after P reset. -/
def resetWord (off : Nat) : Word :=
  BitVec.ofNat 32 ((rowsAt off).foldl (fun a r => a + r.pval * 2 ^ r.lo) (resetByInstance off))

/-- Whether a value is no reserved encoding of a field (R8). KIND and BLOCK of TRC_TRIG take 0xFF beside their lists (16_observation.md
R467, R473). -/
def RegRow.takes (r : RegRow) (x : Nat) : Bool :=
  match r.lim with
  | none => true
  | some (a, b) => (a ≤ x && x ≤ b) || (x = 0xFF && r.base = 0x1300008)

/-- What a write does to one field (R9); a reserved encoding leaves the field as it is (R8). -/
def writeField (v : Nat) (old : Nat) (r : RegRow) : Nat :=
  match r.acc with
  | .rw | .rws =>
    let x := bitsOf v r.lo r.width
    if r.takes x then withBits old r.lo r.width x else old
  | .w1c => withBits old r.lo r.width (Nat.land (bitsOf old r.lo r.width) (2 ^ r.width - 1 - bitsOf v r.lo r.width))
  | .ro | .wo | .rc => old

/-- What a write does to a word, field by field. -/
def writeWord (off : Nat) (old v : Word) : Word :=
  BitVec.ofNat 32 ((rowsAt off).foldl (writeField v.toNat) old.toNat)

/-- The levels of R10. -/
inductive Level
  | p | s | c
  deriving DecidableEq, Repr

/-- A word after a reset of a level (R11): the fields the level keeps, and the reset value of the others. -/
def resetTo (l : Level) (off : Nat) (old : Word) : Word :=
  match l with
  | .p => resetWord off
  | .s => BitVec.ofNat 32 ((rowsAt off).foldl (fun a r =>
      if r.keepS then withBits a r.lo r.width (bitsOf old.toNat r.lo r.width) else a) (resetWord off).toNat)
  | .c => BitVec.ofNat 32 ((rowsAt off).foldl (fun a r =>
      if r.keepC then withBits a r.lo r.width (bitsOf old.toNat r.lo r.width) else a) (resetWord off).toNat)

/-- The low halves of the 64-bit registers (R6), as base, stride and count. -/
def wideRows : List (Nat × Nat × Nat) := [
  (0x8, 0, 1), (0x110, 0, 1), (0x210, 0, 1), (0x218, 0, 1), (0x10020, 0, 1), (0x10028, 0, 1), (0x30010, 0, 1),
  (0x30018, 0, 1), (0x51008, 0x20, 32), (0x200010, 0, 1), (0x200018, 0, 1), (0x200030, 0, 1), (0x200040, 0, 1),
  (0x200070, 0, 1), (0x200078, 0, 1), (0x500018, 0, 1), (0x600008, 0, 1), (0x701000, 8, 64), (0xA02000, 8, 1024),
  (0x1000030, 0, 1), (0x1000038, 0, 1), (0x1100008, 0, 1), (0x1100010, 0, 1), (0x1100018, 0, 1), (0x1100028, 0, 1),
  (0x1100030, 0, 1), (0x1100040, 0, 1), (0x1200000, 8, 400), (0x120D008, 0, 1), (0x120E000, 8, 64),
  (0x1210000, 8, 400), (0x1300018, 0, 1), (0x1300110, 0, 1), (0x1300118, 0, 1), (0x1300120, 0, 1)]

/-- Whether the word at an offset is the low half of a 64-bit register. -/
def isWideLow (off : Nat) : Bool :=
  wideRows.any (fun r => r.1 ≤ off && (if r.2.1 = 0 then off == r.1
    else (off - r.1) % r.2.1 == 0 && (off - r.1) / r.2.1 < r.2.2))

/-- Whether the word at an offset is the high half of one. -/
def isWideHigh (off : Nat) : Bool := off ≥ 4 && isWideLow (off - 4)

/-- The commit group of a shadow register (R498), by its number in R48. -/
def groupOf (off : Nat) : Option Nat :=
  if off = 0x100 then some 0
  else if 0xC10000 ≤ off && off < 0xC10200 then some 1
  else if off = 0x100080 || (0x100100 ≤ off && off < 0x100200) then some 2
  else if (0xA00100 ≤ off && off < 0xA00160) || (0xA01000 ≤ off && off < 0xA01400)
      || (0xA02000 ≤ off && off < 0xA04000) then some 3
  else if off = 0x300 then some 4
  else if off = 0x1000010 then some 5
  else if off = 0x1000014 then some 6
  else if 0x601000 ≤ off && off < 0x609000 then some 7
  else if 0x120E000 ≤ off && off < 0x120E200 then some 8
  else if 0x1300000 ≤ off && off < 0x1300024 then some 9
  else if 0x50100 ≤ off && off < 0x50500 then some 10
  else none

/-- The shadow offset of an active copy (R498), if the offset is one. -/
def shadowOf (off : Nat) : Option Nat :=
  if off ≥ 0x8000 && (groupOf (off - 0x8000)).isSome then some (off - 0x8000) else none

/-! ### Offsets the operations use -/

def rEXT_CTL : Nat := 0x100000
def rEXT_STATUS : Nat := 0x100004
def rRNG_CTL : Nat := 0x200000
def rRNG_STATUS : Nat := 0x200004
def rRNG_RING0_CFG : Nat := 0x200020
def rRNG_FQ0_CFG : Nat := 0x200038
def rRNG_EQ0_CFG : Nat := 0x200048
def rRNG_ERRQ_PKG : Nat := 0x200050
def rRNG_DB_DROPPED : Nat := 0x200060
def rRNG_FQ_UNROUTED : Nat := 0x200064
def rRNG_EQ_UNROUTED : Nat := 0x200068
def rRNG_FQ_OVF : Nat := 0x200070
def rRNG_EQ_OVF : Nat := 0x200078
def rRNG_FQ_LOST : Nat := 0x201000
def rRNG_EQ_LOST : Nat := 0x201100
def rGLB_TMO : Nat := 0x300
def rRTE_CTL : Nat := 0xA00000
def rRTE_STATUS : Nat := 0xA00004
def rRTE_NODE : Nat := 0xA00008
def rLCC_STATUS : Nat := 0xB00004
def rINT_CTL : Nat := 0x1000000
def rINT_STATUS : Nat := 0x1000004
def rINT_SCRUB_CTL : Nat := 0x1000010
def rINT_ERRPOL : Nat := 0x1000014
def rINT_SCRUB_POS : Nat := 0x1000018
def rINT_SCRUB_PASSES : Nat := 0x100001C
def rINT_FLIP_CTL : Nat := 0x1000028
def rINT_FLIP_MASK : Nat := 0x1000030
def rINT_FLIP_PPA : Nat := 0x1000038
def rINT_CLASS_CNT : Nat := 0x1000100
def rINT_COALESCE_MISSED : Nat := 0x1000048
def rINT_CAT_MISSED : Nat := 0x100004C
def rINT_STRIPE_WAITS : Nat := 0x1000050
def rRED_CTL : Nat := 0x1100000
def rRED_STATUS : Nat := 0x1100004
def rRED_REGION : Nat := 0x1100008
def rRED_CKPT_PARTNER : Nat := 0x1100010
def rRED_ALIAS : Nat := 0x1100020
def rRED_VOTE_REPAIRS : Nat := 0x1100050
def rRED_VOTE_NOMAJ : Nat := 0x1100054
def rRED_PAIR_EVENTS : Nat := 0x1100058
def rRED_CKPT_DEFERRED : Nat := 0x110005C
def rRED_GROUP : Nat := 0x1120000
def rPCI_CTL : Nat := 0x1400000
def rPCI_EVT : Nat := 0x1400008
def rPCI_EVT_MASK : Nat := 0x140000C
def rPCI_FN : Nat := 0x1401000
def rSTK_REG : Nat := 0xC10000
def rSTK : Nat := 0xC00000

end Sys2Proof.Machine
end

