-- ==== Sys2Proof/Machine/State.lean ====
section
/-! DEFINITION. The state of the package as plain data, block by block (INVENTORY.md, State), and its value after P reset. -/

namespace Sys2Proof.Machine

/-! ### Values -/

/-- The completion statuses of R13. -/
inductive Status
  | ok | okCorrected | contextFault | extentFault | rightsFault | extentRevoked | extentHeld | keyRetired
  | translationFault | dataLost | checkFail | formatFault | timeout | blockReset | aborted | queueFull
  | unsupported | busyRetry
  deriving DecidableEq, Repr

/-- The blocks of R15, as RCU resets them. -/
inductive Blk
  | glb | spine | ext | rng | xlt | mov | fld | seq | kve | coh | lnk (n : Nat) | rte | lcc | stk (n : Nat) | int | red
  | sec | mgt | pci | rcu | pwr | aon | dbg
  deriving DecidableEq, Repr

/-- Three copies of a word, voted (13_redundancy.md R376). -/
structure Votes where
  a : Word
  b : Word
  d : Word
  deriving DecidableEq, Repr

/-- What the register network holds for a requester (R6): the high half read with a low half, or a low half written. -/
inductive Latch
  | high (off : Nat) (v : Word)
  | low (off : Nat) (v : Word)
  deriving DecidableEq, Repr

/-! ### The beat and commit (02_beat_and_commit.md) -/

/-- The lock states of R41. -/
inductive Lock
  | free | acquire | locked | holdover | unlocked
  deriving DecidableEq, Repr

/-- ESC: the beat number, the cycles since cycle B, the length of this beat and of the next where a mark gave it, the ticks
that the last measurement asks for and the cycles they changed this beat by, the half cycle carried (0 or 1; a tick is 12.5 cycles), the lock state with its counts; `bounds` counts the boundaries passed
while the package ran, by which bounds in beats are measured (R47, R471). -/
structure Esc where
  beat : Quad
  cyc : Nat
  now : Nat
  len : Nat
  nextLen : Option Nat
  trim : Int
  adj : Int
  half : Nat
  bounds : Quad
  lock : Lock
  goodMarks : Nat
  markThisBeat : Bool
  holdover : Nat
  offset : Int
  ahead : Bool
  master : NodeId
  isMaster : Bool
  adopt : Option Quad
  accepted : List Quad
  deriving DecidableEq, Repr

/-- The election of 10_fabric.md R315: the highest epoch known, its best claim (priority, node), MAX_BEAT, whether it is
running, the package's beats with its own claim best and unchanged, the beats without a valid BEAT or ELECT, and the
elected master of the epoch. -/
structure Elect where
  epoch : BitVec 16
  claim : Option (Nat × NodeId)
  maxBeat : Quad
  running : Bool
  ownBeats : Nat
  silent : Nat
  master : Option NodeId
  win : Bool
  deriving DecidableEq, Repr

/-- A commit that waits for its boundary (R49): ticket, mask, target beat, and whether its check has ended. -/
structure Pending where
  ticket : Nat
  mask : Nat
  target : Nat
  checked : Bool
  deriving DecidableEq, Repr

/-- GLB_COMMIT_STATUS and the commits pending (R52, R53). -/
structure Commit where
  ticket : Nat
  pend : List Pending
  stTicket : Nat
  stState : Nat
  reason : Nat
  group : Nat
  detail : Nat
  doneBeat : Quad
  deriving DecidableEq, Repr

/-! ### Contexts and extents (03_extents.md) -/

/-- A context entry (R60). -/
structure CtxE where
  valid : Bool := false
  admin : Bool := false
  mgmt : Bool := false
  strict : Bool := false
  srcPcie : Bool := false
  func : Nat := 0
  srcNode : NodeId := 0
  srcMask : NodeId := 0
  tenant : Nat := 0
  faultq : Nat := 0
  faultqValid : Bool := false
  errq : Nat := 0
  errqValid : Bool := false
  timeout : Nat := 0
  agent : Nat := 0
  agentValid : Bool := false
  rights : Nat := 0
  deriving DecidableEq, Repr

/-- The states of an extent (R65). -/
inductive ExtSt
  | free | live | draining | held | scrubbing
  deriving DecidableEq, Repr

/-- An extent entry (R64). `backing` is PPA_BASE or, with `lent`, REMOTE_BASE. -/
structure Extent where
  plaBase : Nat := 0
  len : Nat := 0
  ownerCtx : Nat := 0
  backing : Nat := 0
  lender : NodeId := 0
  rights : Nat := 0
  gen : Byte := 0
  keySlot : Nat := 0
  keyValid : Bool := false
  red : Bool := false
  coh : Nat := 0
  tchk : Nat := 0
  spec : Bool := false
  st : ExtSt := .free
  lent : Bool := false
  tenant : Nat := 0
  pairGroup : Nat := 0
  lenderCtx : Nat := 0
  deriving DecidableEq, Repr

/-- One stored copy of a table entry: its value and the CRC-16 difference that an upset has left in it, 0 for none
(13_redundancy.md R373). -/
structure Copy (α : Type) where
  val : α
  err : BitVec 16
  deriving DecidableEq, Repr

/-- The three copies of a table entry. -/
structure Tri (α : Type) where
  a : Copy α
  b : Copy α
  d : Copy α
  deriving DecidableEq, Repr

/-- An ELB entry (R68): a context and an extent as they stood when it was filled. -/
structure ElbE where
  ctx : Nat
  handle : Nat
  c : CtxE
  e : Extent
  deriving DecidableEq, Repr

/-- A revoke in progress (R77): the disposition, the descriptor to complete (none for a lender's reclaim or an unbind), the journal
sequence number before it, the beat it started in, whether the revocation point and the drain bound have passed. -/
structure Revoke where
  scrub : Bool
  desc : Option Desc
  jseq : Quad
  beat : Quad
  point : Bool := false
  bound : Bool := false
  deriving DecidableEq, Repr

/-- A context change between its write and its change point (R62), with the journal sequence number before it. -/
structure CtxChange where
  ctx : Nat
  desc : Desc
  jseq : Quad
  deriving DecidableEq, Repr

/-- Who last held a PPA folio (R66). -/
inductive Folio
  | clean
  | tenant (t : Nat)
  deriving DecidableEq, Repr

/-- A forward to a lender that is outstanding (R82). -/
structure Lend where
  handle : Nat
  lender : NodeId
  src : NodeId
  txn : BitVec 16
  deriving DecidableEq, Repr

/-- An ELB (R68): the bits of its pseudo-LRU tree over 512 ways, and its entries by way. -/
structure ElbSet where
  tree : Nat
  ways : NMap ElbE
  deriving DecidableEq, Repr

/-- An access of an internal unit to a lent extent (R82), which the unit presents again: its context, PLA and bytes, whether it writes,
the transaction of its forward, the beat it was sent in, and the lender's answer. -/
structure UnitLend where
  ctx : Nat
  pla : Nat
  bytes : Nat
  write : Bool
  txn : Nat
  beat : Quad
  ans : Option (Status × List Byte)
  deriving DecidableEq, Repr

/-- EXT. An unlisted context is not VALID; an unlisted handle is FREE with GEN 0 and owner context 0 of tenant 0; an
unlisted folio record is `folioDefault`; an unlisted in-flight counter is 0. `rebuild` lists the entries RED is rebuilding
(13_redundancy.md R375), `units` the accesses of internal units to lent extents that a lender has been asked for. -/
structure Ext where
  ctxs : NMap (Tri CtxE)
  dir : NMap (Tri Extent)
  folios : NMap Folio
  folioDefault : Folio
  elbs : NMap ElbSet
  inflight : NMap Nat
  parity : List Nat
  revokes : NMap Revoke
  ctxChanges : List CtxChange
  lenders : NMap Quad
  lends : List Lend
  rebuild : List (Nat × Nat)
  units : List UnitLend
  deriving DecidableEq, Repr

/-! ### Rings and records (04_rings_and_descriptors.md) -/

/-- The states of a ring pair (R92). -/
inductive RingSt
  | disabled | active | stopped | aborting
  deriving DecidableEq, Repr

/-- How far a fetched descriptor has come; `failed`: it does not execute, and completes with a status and a detail code as soon as a
completion slot can be reserved (R101, R112, R117). -/
inductive DescSt
  | fetched
  | failed (st : Status) (detail : Nat)
  | started
  | done
  deriving DecidableEq, Repr

/-- A TLB entry (05_host_translation.md R137): `size` 0, 1, 2 for 4 KiB, 2 MiB, 1 GiB. -/
structure TlbE where
  domain : Nat
  size : Nat
  group : Nat
  base : Nat
  mask : Nat
  write : Bool
  deriving DecidableEq, Repr

/-- A pretranslation (05_host_translation.md R141, R143): still walking, supplied by the TLB, or the detail of its fault. -/
inductive PreSt
  | waiting | supplied | fault (detail : Nat)
  deriving DecidableEq, Repr

/-- The pretranslation of one TRANSLATED operand: the operand word's offset in the descriptor, its domain, its first byte's host
address, whether an invalidation has made it stale, and the TLB entry that supplied it. -/
structure Pre where
  off : Nat
  domain : Nat
  va : Nat
  st : PreSt
  stale : Bool
  entry : Option TlbE := none
  deriving DecidableEq, Repr

/-- A fetched descriptor in RNG's buffer, with its pretranslations and the beat in which it arrived. -/
structure Fetched where
  index : Word
  raw : Flit
  st : DescSt
  pre : List Pre
  beat : Quad
  deriving DecidableEq, Repr

/-- A completion as a unit posts it (R111, R113). -/
structure Cpl where
  ring : Nat
  index : Word
  status : Status
  posted : Bool
  dropped : Bool
  detail : Nat
  info : Nat
  tag : Word
  irq : Bool
  deriving DecidableEq, Repr

/-- A ring pair (R89, R92, R118). `head` is SQ_HEAD, `fetchIx` the index of the next slot to ask for, `cqPut` the index
past the last completion taken into a batch, `reserved` the completion slots reserved and not yet written (R112), `fetches` the fetches
outstanding with the data of one that came before an older one, `aged` the descriptors that have waited a whole beat (R103), `unfit` that RING_CTX
no longer fits the ring (R534), `abort` the RING_ABORT that waits. `keep` is the function kept for an unbind's completion, with its
descriptor's index (R420, R534). -/
structure RingP where
  st : RingSt := .disabled
  loc : Nat := 0
  pri : Nat := 0
  irq : Nat := 0
  runahead : Nat := 0
  ctx : Nat := 0
  sqLog : Nat := 6
  cqLog : Nat := 6
  sqBase : Quad := 0
  cqBase : Quad := 0
  hostNode : NodeId := 0
  remoteCtx : Nat := 0
  vector : Nat := 0
  coalMax : Nat := 1
  coalWait : Nat := 0
  tail : Word := 0
  cqHead : Word := 0
  head : Word := 0
  fetchIx : Word := 0
  cqPut : Word := 0
  reserved : Nat := 0
  descs : List Fetched := []
  fetches : List (Word × Nat × Option (List Flit)) := []
  batch : List Cpl := []
  batchCyc : Nat := 0
  aged : List Word := []
  unfit : Bool := false
  abort : Option Desc := none
  keep : Option (Nat × Word) := none
  deriving DecidableEq, Repr

/-- A fault queue or error record queue (R90, R118): `put` the index past the last record taken, `dropped` the records
dropped since the last one written, `sig` whether a drop has been signalled (R122). -/
structure Queue where
  enabled : Bool := false
  loc : Nat := 0
  log2 : Nat := 6
  ctrlCtx : Nat := 0
  base : Quad := 0
  hostNode : NodeId := 0
  remoteCtx : Nat := 0
  vector : Nat := 0
  put : Word := 0
  head : Word := 0
  batch : List (List Byte) := []
  batchCyc : Nat := 0
  dropped : Nat := 0
  sig : Bool := false
  deriving DecidableEq, Repr

/-- A doorbell write that waits for earlier BAR 4 writes of its function (05_host_translation.md R132): the function, the ring, the offset in its
page, the width and the value. -/
structure HeldBell where
  fn : Nat
  ring : Nat
  off : Nat
  width : Nat
  val : Word
  deriving DecidableEq, Repr

/-- RNG: rings, fault queues (0 to 63) and error record queues, the completion buffers in the order FLD_0 to FLD_31,
SEQ_0 to SEQ_15, EXT, KVE, XLT, COH, SEC, RNG, the collector's next buffer, the ring served last at each priority (R103), and the location 1 writes and fetches outstanding by transaction (a batch number as `ringBatch` gives it; a
ring, first slot index and count), and the doorbell writes that wait, oldest first. -/
structure Rng where
  rings : NMap RingP
  fqs : NMap Queue
  eqs : NMap Queue
  bufs : NMap (List Cpl)
  turn : Nat
  lastRing : NMap Nat
  recTxns : NMap Nat
  fetchTxns : NMap (Nat × Word × Nat)
  nextTxn : Nat
  bells : List HeldBell
  deriving DecidableEq, Repr

/-! ### Stored lines (11_memory_stacks.md, 12_integrity.md) -/

/-- Pool memory: the stored bytes of every stack, data and check lines, by stack byte address (the stack, then the line location
L of R324, then the byte), and the addresses whose check bit disagrees with its byte (R349). An unlisted byte is 0 with an
agreeing check bit: the state the self-test leaves (R371). -/
structure Mem where
  cells : List Host.Cell
  bad : List Nat
  deriving DecidableEq, Repr

/-- A line of the line cache with its tenant (18_register_map.md R533). -/
structure LccLine where
  line : Nat
  tenant : Nat
  data : List Byte
  deriving DecidableEq, Repr

/-- A set of the line cache: the 15 bits of the pseudo-LRU tree and its 16 ways. -/
structure LccSet where
  tree : Nat
  ways : NMap LccLine
  deriving DecidableEq, Repr

/-- Who waits for a demand access: a fabric request, a BAR 4 access, a coherent transaction, a writeback, or nobody. -/
inductive Requester
  | fabric (link : Nat) (m : Msg)
  | bar4 (fn tag : Nat)
  | coherent (id : Nat)
  | wb (m : Msg)
  | none
  deriving DecidableEq, Repr

/-- How far a line of a demand read has come: waiting at its source while its port's fill is 256 (R335), held at the front end for the port's
cap or a full read queue (R327, R332), issued into its stack's read queue, waiting for its siblings (R352), asked of the partner (R380), or
ready. -/
inductive LineSt
  | waiting
  | held
  | issued
  | failed
  | partner
  | ready (st : Status) (data : List Byte)
  deriving DecidableEq, Repr

/-- A line of a demand read: its PPA line, its state, its own path's latency (R532), to which the stack's part is added when the stack
serves it, and how often a row hit has overtaken it (R328). -/
structure LineRd where
  line : Nat
  st : LineSt
  lat : Nat
  passed : Nat
  deriving DecidableEq, Repr

/-- What an admitted request needs of its extent, as it stood when the request was admitted. -/
structure Target where
  handle : Nat
  tenant : Nat
  ctx : Nat
  slot : Option Nat
  pair : Option Nat
  pla : Nat
  ppa : Nat
  tchk : Nat := 0
  deriving DecidableEq, Repr

/-- A demand read in progress (R20, R532): regulator port, requester, target, bytes, lines, latency added once, urgency
(4: 3, with T passed) and whether it counts as guaranteed (R332, R333), the beats it has waited, the cycle it started in (R334), whether a line of it has been issued to a stack or the partner. -/
structure ReadOp where
  port : Nat
  who : Requester
  tgt : Target
  bytes : Nat
  lines : List LineRd
  extra : Nat
  urgency : Nat
  guaranteed : Bool
  waited : Nat
  start : Nat
  issued : Bool := false
  deriving DecidableEq, Repr

/-- The new bytes of one data line of a stripe: the line's 64 stored bytes and which of them the update changes; `part` says that the write
changes the line only in part, though every stored byte of a keyed line changes (R355, R411). -/
structure LineChg where
  d : Nat
  data : List Byte
  mask : List Bool
  part : Bool
  deriving DecidableEq, Repr

/-- How a write stands with the regulator (11_memory_stacks.md R332 to R334): its port, whether it counts as guaranteed, its urgency (4: 3, with T
passed), the cycle it started in, the beats it has waited, its place in the order of arrival. -/
structure Qos where
  port : Nat
  guaranteed : Bool
  urgency : Nat
  start : Nat
  waited : Nat
  age : Nat
  deriving DecidableEq, Repr

/-- A stripe operation of a write (R355 to R357): its stripe, changes, the write it belongs to and its port. -/
structure StripeOp where
  stripe : Nat
  chgs : List LineChg
  write : Nat
  port : Nat
  locked : Bool
  pla : Nat
  q : Qos
  deriving DecidableEq, Repr

/-- A line in a write queue of a stack (R326): its location, how it stands, how often a row hit has overtaken it. Its bytes are in `Mem` from
the acknowledgement on. -/
structure WrEnt where
  loc : Nat
  q : Qos
  passed : Nat
  deriving DecidableEq, Repr

/-- A bank held by a refresh or an RFM (R339, R341): until when, which, whether a column command has gone to the bank since. -/
structure Hold where
  till : Nat
  rfm : Bool
  used : Bool
  deriving DecidableEq, Repr

/-- A write in progress: its requester and target, the stripe operations not yet taken by the stacks, the mirror writes not
acknowledged, its status so far, and whether one of its stripes has been issued to the stacks. -/
structure WriteOp where
  who : Requester
  tgt : Target
  stripes : List Nat
  mirrors : List Nat
  pair : Bool
  status : Status
  extra : Nat
  issued : Bool := false
  deriving DecidableEq, Repr

/-- A channel's periodic training (R343, R344). -/
structure Pause where
  channel : Nat
  deferrals : Nat
  retries : Nat
  running : Bool
  deriving DecidableEq, Repr

/-- A stack: refresh debt, activations and the open row of each bank that has one, its training turn, and the banks
whose open row a mover's stride predicted and nothing has used (R330). Its write queues, oldest first, the pseudo-channels in a write drain and
those with forced writes left (R329), the bank group that each last activated (R328) and the cycle of its last column command; the banks
that a refresh or RFM holds or last held, the cycle of the last request to an open row, the cycle in which a bank's refresh last fell due; the RFM
threshold that the mode registers advertise (R341, whose value no rule gives: DESIGN CHOICE 64, log 44), whether training results stand (R347), whether it refreshes itself at double rate (R346). The registers STK_n hold its state, temperature
and counts. -/
structure Stk where
  debt : NMap Nat := []
  acts : NMap Nat := []
  rows : NMap Nat := []
  pause : Pause := ⟨0, 0, 0, false⟩
  duePos : Nat := 0
  predicted : List Nat := []
  wq : List WrEnt := []
  drain : List Nat := []
  force : NMap Nat := []
  bg : NMap Nat := []
  last : NMap Nat := []
  holds : NMap Hold := []
  seen : NMap Nat := []
  due : NMap Nat := []
  rfmAt : Nat := 64
  trained : Bool := false
  fast : Bool := false
  deriving DecidableEq, Repr

/-- The regulator's budgets left in this beat, by port (R332). -/
structure Reg where
  guar : NMap Nat
  cap : NMap Nat
  deriving DecidableEq, Repr

/-- An open coalescing slot (R367). `ctx` none: unattributed. -/
structure Report where
  cls : Nat
  blk : Nat
  inst : Nat
  queue : Option Nat
  status : Status
  sev : Nat
  addrKind : Nat
  addr : Nat
  ctx : Nat
  tenant : Nat
  count : Nat
  first : Quad
  last : Quad
  deriving DecidableEq, Repr

/-- An entry of the correctable-address table (R368): its packed location as INT_CAT_n shows it in bits [25:0], counts and
beats, sticky mark, and when it was last hit. -/
structure CatE where
  loc : Nat
  count : Nat
  first : Quad
  last : Quad
  sticky : Bool
  stamp : Nat
  deriving DecidableEq, Repr

/-- A zeroing job (R364): the extent and the next folio of it. -/
structure ZeroJob where
  handle : Nat
  next : Nat
  deriving DecidableEq, Repr

/-- INT: stripe operations (a locked one holds an entry of the lock table) and demand accesses by number, coalescing
slots, the correctable-address table, the stripe of SCRUB_NOW, the grants left in the beat, zeroing jobs, the bytes written so far of the folio that is being zeroed (R362). -/
structure Integ where
  reads : NMap ReadOp
  writes : NMap WriteOp
  stripes : NMap StripeOp
  nextId : Nat
  reports : List Report
  cat : NMap CatE
  catStamp : Nat
  scrubNow : Option Nat
  walkGrant : Nat
  rebuildGrant : Nat
  zero : List ZeroJob
  paid : Nat
  deriving DecidableEq, Repr

/-! ### Voting, mirroring and standby (13_redundancy.md) -/

/-- Key-slot states (14_security.md R409). -/
inductive SlotSt
  | free | bound | awaiting | retiring
  deriving DecidableEq, Repr

/-- A key slot's metadata entry (R410). -/
structure SlotE where
  st : SlotSt := .free
  tenant : Nat := 0
  kcv : Quad := 0
  deriving DecidableEq, Repr

/-- A mirror write in flight or waiting (R379, R381): its group, transaction, lines and stored bytes, the write it belongs
to, the beat of its first send, whether it has been sent and, after BUSY_RETRY, the cycle at which to send it again. -/
structure Mirror where
  group : Nat
  line : Nat
  data : List Byte
  write : Nat
  firstBeat : Quad
  sent : Bool
  retryAt : Option Nat
  deriving DecidableEq, Repr

/-- A partner re-read in flight (R380), by transaction: the demand read it is for (none: a unit's access or a partial write, which is
presented again), its line, the pair group's target, and the beat it was sent in. -/
structure Reread where
  read : Option Nat
  line : Nat
  tgt : Target
  beat : Quad
  deriving DecidableEq, Repr

/-- A folio of a RESYNC (R382): how many of its 512 pieces of 4 KiB have been sent, and the writes not acknowledged. -/
structure Resync where
  group : Nat
  folio : Nat
  next : Nat
  outstanding : List Nat
  deriving DecidableEq, Repr

/-- What a journal record holds (R385). -/
inductive JEntry
  | extent (handle : Nat) (e : Extent)
  | context (id : Nat) (e : CtxE)
  | slot (n : Nat) (e : SlotE)
  | folio (first count : Nat) (f : Folio)
  | group (n : Nat) (words : List Word)
  deriving DecidableEq, Repr

/-- A record, and whether the local stacks and the partner have acknowledged it (true without a partner). -/
structure JRec where
  jseq : Quad
  beat : Quad
  entry : JEntry
  stored : Bool
  copied : Bool
  deriving DecidableEq, Repr

/-- The tables of a checkpoint image (R384). -/
structure CkptImage where
  dir : NMap Extent
  ctxs : NMap CtxE
  slots : NMap SlotE
  folios : NMap Folio
  folioDefault : Folio
  groups : NMap Word
  deriving DecidableEq, Repr

/-- A header (R384) with the image it names. -/
structure Header where
  seq : Quad
  beat : Quad
  jseq : Quad
  image : CkptImage
  deriving DecidableEq, Repr

/-- A descriptor's completion that waits for its journal records (R386): the records, the unit's buffer, the descriptor,
its INFO. -/
structure JWait where
  recs : List Quad
  buf : Nat
  desc : Desc
  info : Nat
  deriving DecidableEq, Repr

/-- RED. `ckpt` is the checkpoint in progress, `ckptTxns` the writes of its image that the partner has not acknowledged (each with its place in units of 4 KiB),
`deferred` whether its header has been put off; `jtxns` names the record of each journal write outstanding at the partner,
and `rebuilding` the extents being rebuilt with the first stripe not yet rebuilt (R392). `asked` holds the lines that a unit's access
has asked of the partner: none while the answer is awaited, or whether it was good. `owed` counts the bytes of RED's own traffic that are
still to be charged to port 30 (R332), `fetch` the stripe of a rebuild that the partner has been asked for, whose lock RED holds (R392). -/
structure Red where
  dirty : List Nat
  mirrors : NMap Mirror
  rereads : NMap Reread
  asked : NMap (Option Bool)
  resyncs : List Resync
  header : Option Header
  ckpt : Option Header
  ckptTxns : NMap Nat
  deferred : Bool
  journal : List JRec
  jtxns : NMap Quad
  jseq : Quad
  jwaits : List JWait
  journaling : Bool
  rebuilding : List (Nat × Nat)
  nextTxn : Nat
  owed : Nat
  fetch : Option Nat
  deriving DecidableEq, Repr

/-! ### The PCIe port (17_host_port_management.md) -/

/-- PCI: MSI-X pending bits (function, vector), the MSI-X table words of the VFs by function × 0x20000 + offset, the size
of each VF's BAR 4 as a power of two, the Completer Aborts logged in AER, and the BAR 4 accesses forwarded to a lender by transaction
(function, tag, beat), with the next transaction; of its forwarded writes only the function and the beat. -/
structure Pci where
  pba : List (Nat × Nat)
  vfTable : NMap Word
  bar4Log2 : NMap Nat
  aer : Nat
  lent : NMap (Nat × Nat × Quad)
  wrLent : NMap (Nat × Quad)
  nextTxn : Nat
  deriving DecidableEq, Repr

/-! ### Coherence (09_coherence.md) -/

/-- The states of an agent (R259). -/
inductive AgSt
  | free | joined | leaving | lost
  deriving DecidableEq, Repr

/-- An agent: its entry (R260), the beat of its last HEARTBEAT or of its join, and, while it leaves, its descriptor and
the lines back-invalidated. -/
structure Agent where
  st : AgSt := .free
  node : NodeId := 0
  setsLog2 : Nat := 0
  ways : Nat := 0
  tenant : Nat := 0
  beat : Quad := 0
  leave : Option Desc := none
  binvs : Nat := 0
  deriving DecidableEq, Repr

/-- A snoop-filter entry (R255, R264, R266): the line, whether it is M, and when it was last granted. -/
structure FEnt where
  line : Nat
  m : Bool
  stamp : Nat
  deriving DecidableEq, Repr

/-- Why a snoop or BINV was sent: for a transaction, an eviction, a revoke, a leave, or the release from C reset. `discard`: its data is
not written. -/
inductive SnpWhy
  | txn (id : Nat)
  | evict
  | revoke (handle : Nat) (discard : Bool)
  | leave
  | release
  deriving DecidableEq, Repr

/-- A snoop or BINV: the agent, the line, its opcode, whether the entry showed M, and whether a writeback or notice of the
agent has crossed it (R269), with its data. -/
structure Snp where
  agent : Nat
  line : Nat
  op : Nat
  why : SnpWhy
  m : Bool
  crossed : Bool := false
  wb : Option (List Byte) := none
  beat : Quad := 0
  deriving DecidableEq, Repr

inductive CohKind
  | shared | own | upgrade | read | write
  deriving DecidableEq, Repr

/-- A transaction of the ordering stage (R268), or a request that waits for it (`started` false): the message, the agent, the
access, and what it has so far: the access of memory (`asked`, `mem`), a data-forwarding owner, whether that owner was lost, the
latency of the last answer. An access of an internal unit has nobody as `who`: it is made by its unit once its snoops are answered, and
`beat` says when it was entered. -/
structure CohTxn where
  kind : CohKind
  who : Requester
  agent : Nat
  port : Nat
  tgt : Target
  bytes : Nat
  data : List Byte
  be : List Bool
  miss : Bool
  strict : Bool
  started : Bool := false
  stalled : Bool := false
  asked : Bool := false
  mem : Option (Status × List Byte × Nat) := none
  fwd : Bool := false
  fromWb : Option (List Byte) := none
  clean : Bool := false
  lost : Bool := false
  snooped : Bool := false
  beat : Quad := 0
  deriving DecidableEq, Repr

/-- COH: the agent table, the partitions by agent, snoops by slot, the BINVs that wait for a slot, transactions by order of
arrival, finished accesses of memory, after C reset the lines whose data COH waits for (R278) with the agents to ask, the requests that wait
under their credits while the ordering stage is full (R268), and the tiles (first, count) to be marked stale once the agents that hold lines
of the tile-check table have been snooped. -/
structure Coh where
  agents : NMap Agent
  parts : NMap (List FEnt)
  snps : NMap Snp
  queue : List Snp
  txns : NMap CohTxn
  nextId : Nat
  stamp : Nat
  done : List (Nat × Status × List Byte × Nat)
  rel : List (Nat × Nat)
  relBeat : Quad
  front : List CohTxn
  posts : List (Nat × Nat)
  deriving DecidableEq, Repr

/-! ### Host translation (05_host_translation.md) -/

/-- A domain (R134). -/
structure Domain where
  root : Nat
  wide : Bool
  ctx : Nat
  tenant : Nat
  deriving DecidableEq, Repr

/-- A context's map entry. -/
structure MapE where
  domain : Nat := 0
  direct : Bool := false
  list : Bool := false
  deriving DecidableEq, Repr

structure TlbSet where
  tree : Nat
  ways : NMap TlbE
  deriving DecidableEq, Repr

/-- A walk-cache entry (R139): the node that the entry of level `level` for the address bits above that level points to. -/
structure WcE where
  domain : Nat
  level : Nat
  pfx : Nat
  node : Nat
  deriving DecidableEq, Repr

/-- A walk in flight, by domain and group of 64 pages of 4 KiB, with the address that missed. -/
structure Walk where
  domain : Nat
  va : Nat
  deriving DecidableEq, Repr

/-- XLT: domains, map entries (context 0's default is domain 0 with DIRECT_OK and LIST_OK), the TLB, the walk cache, newest entry first, walks in flight (at most 16), misses that wait for a walker, the invalidation in progress with the entries it
changed, and the XLT descriptors that wait behind it. -/
structure Xlt where
  domains : NMap Domain
  maps : NMap MapE
  tlb : NMap TlbSet
  wc : List WcE
  walks : List Walk
  waits : List Walk
  inval : Option (Desc × Nat)
  queue : List Desc
  deriving DecidableEq, Repr

/-! ### Operators, movers, folds (06_fold_arithmetic.md, 07_operators.md) -/

/-- One side of a data movement: pool memory (a generation, the rights needed), a host operand (the offset of its word in the
descriptor, and the byte of the operand), or a repeated pattern. -/
inductive End
  | pool (pla : Nat) (gen : Option Nat) (need : Nat)
  | host (word at' : Nat)
  | pattern (at' : Nat)
  deriving DecidableEq, Repr

/-- A movement of at most 4 KiB: `off` its place within the descriptor's transfer. -/
structure Move where
  src : End
  dst : End
  len : Nat
  off : Nat
  deriving DecidableEq, Repr

/-- A command for a tile in a unit's queue: the operator, its tile, and the tile's bytes where the fold engine hands them over
(R205). -/
structure TileCmd where
  op : Nat
  tile : Nat
  data : List Byte
  deriving DecidableEq, Repr

/-- A translation held by a mover for its burst (R127): the domain, the host pages' span, and whether an invalidation has
narrowed it (R145). -/
structure Held where
  domain : Nat
  va : Nat
  len : Nat
  stale : Bool
  deriving DecidableEq, Repr

/-- How far a mover's tile has come: the next burst may start; a walk or a list read is awaited; host data is awaited; writes
of the burst or of the tile await their acknowledgement. -/
inductive RunSt
  | ready
  | walk (domain va : Nat)
  | fault (detail : Nat)
  | list (off first : Nat)
  | read
  | acks
  deriving DecidableEq, Repr

/-- A tile that a mover runs: bytes of it read and then written, its state, the burst's length, the data read, the translations held,
the beat of its last request, and, where its source ended in a translation fault after some bytes had been read, the fault's detail and
offset (R146: those bytes are still moved). -/
structure Run where
  cmd : TileCmd
  pos : Nat := 0
  st : RunSt := .ready
  len : Nat := 0
  data : List Byte := []
  held : List Held := []
  beat : Quad
  short : Option (Nat × Nat) := none
  deriving DecidableEq, Repr

/-- The translation that a mover has looked up for its next burst (R142): the operator, its operand word, the byte of the operand, and
where the burst goes. -/
structure NextBurst where
  op : Nat
  word : Nat
  at' : Nat
  addr : Nat
  len : Nat
  held : List Held
  deriving DecidableEq, Repr

/-- A fold engine (0 to 31) or a mover (32 to 63). Of a mover, the translation looked up for its next burst, and the group of list entries
that it reads ahead (R148): the operator, the operand word, and the group's first entry. -/
structure EngUnit where
  queue : List TileCmd
  run : Option Run
  next : Option NextBurst := none
  ahead : Option (Nat × Nat × Nat) := none
  deriving DecidableEq, Repr

/-- A request of a mover to a host or peer over the fabric, by transaction: the mover (plus 64 for a group of list entries read ahead), the
peer's index (none for a host), the peer PLA of its tile, whether it reads. -/
structure MovTxn where
  unit : Nat
  peer : Option Nat
  at' : Nat
  read : Bool
  beat : Quad
  deriving DecidableEq, Repr

/-- A peer of an operator (R187, R207): its entry, the status it failed with, the PLA and tile of the failure, and the tiles not
delivered. -/
structure Peer where
  node : NodeId
  ctx : Nat
  gen : Nat
  pla : Nat
  failed : Option Status := none
  at' : Nat := 0
  missed : Nat := 0
  deriving DecidableEq, Repr

/-- An operator a sequencer holds (R189; sequencer 16 stands for KVE's data movement): its descriptor, tiles in all, admitted,
put in queues; the tiles of its slices not finished; the boundary after which a slice may next be admitted; how it ends (R195, R196); counts; its peers, record, mirror writes outstanding, faults of its pretranslations (operand
word, page, detail), the region it armed, the elements of WATCH per tile, the entries read of its converted-pointer lists (by operand
word × 2^33 + index), the movements of a KV operation, and of a gather the data read and not yet written, by movement, with the 4 KiB of its
destination that a lost read leaves unwritten (08_kv_store.md R244). -/
structure Op where
  seqn : Nat
  d : Desc
  total : Nat
  next : Nat := 0
  issue : Nat := 0
  base : Nat := 0
  busy : Nat := 0
  wait : Quad := 0
  late : Bool := false
  stop : Option (Status × Nat × Nat × Nat) := none
  aborted : Bool := false
  timedOut : Bool := false
  corrected : Bool := false
  lost : Option (Nat × Nat) := none
  failed : Option (Nat × Nat) := none
  info : Nat := 0
  peers : List Peer := []
  rcd : List Byte := []
  mirrors : List Nat := []
  pre : List (Nat × Nat × Nat) := []
  slot : Option Nat := none
  closed : Bool := false
  sums : NMap (List Nat) := []
  lists : NMap Nat := []
  moves : List Move := []
  parked : NMap (List Byte) := []
  lostPages : List Nat := []
  deriving DecidableEq, Repr

/-- A tile of a region: the contributors received for each part, each part's accumulators (bits) with the number of its contributions,
how its reads stand (0 none, 1 asked, 2 added, 3 failed), for a fused OPT_STEP the FP64 bits of the W, M and V elements it has read, and
whether it is written. -/
structure RTile where
  got : NMap (List Nat) := []
  acc : NMap (List Nat) := []
  init : Nat := 0
  wmv : List (List Nat) := []
  written : Bool := false
  deriving DecidableEq, Repr

inductive RegSt
  | arming | armed | closed
  deriving DecidableEq, Repr

/-- A region slot (R165 to R179). `op` is the operator that armed it, none for FOLD_WRITE; `late` says that its timeout has passed;
`prev` is the closed region of the slot (PLA, tiles, ARM_SEQ) until the armed point. -/
structure Region where
  st : RegSt
  d : Desc
  op : Option Nat
  pla : Nat
  gen : Nat
  tiles : Nat
  seq : Nat
  contributors : Nat
  parts : Nat
  inFmt : Nat
  outFmt : Nat
  acc : Nat
  red : Nat
  round : Nat
  sat : Bool
  init : Bool
  part' : Bool
  limit : Nat
  seed : Nat
  listPla : Nat
  listGen : Nat
  handle : Nat
  tenant : Nat
  list : List NodeId := []
  pages : Nat
  beat : Quad := 0
  work : NMap RTile := []
  done : Nat := 0
  dups : Nat := 0
  late : Bool := false
  prev : Option (Nat × Nat × Nat) := none
  lost : Option (Nat × Nat) := none
  failed : Option (Nat × Nat) := none
  corrected : Bool := false
  mirrors : List Nat := []
  wait : Quad := 0
  deriving DecidableEq, Repr

/-- FLD, SEQ and MOV: units, operators, regions by slot, descriptors that wait to arm, requests outstanding, and the FST pages in use. -/
structure Eng where
  units : NMap EngUnit
  ops : NMap Op
  regions : NMap Region
  arming : List Nat
  txns : NMap MovTxn
  nextTxn : Nat
  nextOp : Nat
  pages : Nat
  tchkWait : Bool
  deriving DecidableEq, Repr

/-! ### The key-value store (08_kv_store.md) -/

/-- How far a KV operation has come: it waits for its quire, for admission, for its data, or, aborted with its ring, for an entry of KVE's
completion buffer (04_rings_and_descriptors.md R113). -/
inductive KvSt
  | queued | deferred | moving | aborted
  deriving DecidableEq, Repr

/-- A KV operation that KVE has taken: its descriptor, the quires of a running one, its state, the beat in which an append may next be
admitted and was admitted, the operator record of its data movement, the leaves and list blocks it allocated, a copied leaf
(old and new), and whether KVE_APPENDS_DEFERRED has counted it. -/
structure KvOp where
  d : Desc
  st : KvSt := .queued
  quires : List Nat := []
  wait : Quad := 0
  beat : Quad := 0
  op : Nat := 0
  leaves : List Nat := []
  blocks : List Nat := []
  cow : Option (Nat × Nat) := none
  counted : Bool := false
  deriving DecidableEq, Repr

/-- KVE: operations in order, appends admitted in this beat, the free lists as KVE holds them (leaves used, blocks used, quires
not FREE, prefix entries VALID with their tenants), and an initialisation or walk that has not ended. -/
structure Kve where
  ops : NMap KvOp
  nextId : Nat
  admitted : Nat
  admitBeat : Quad
  leaves : List Nat
  blocks : List Nat
  quires : List Nat
  prefixes : List (Nat × Nat)
  starting : Bool
  deriving DecidableEq, Repr

/-! ### Observation (16_observation.md) -/

/-- DBG: the 400 counters (EPOCH in [63:48], VALUE in [47:0], R54) and their snapshot; of the trace (R468, R469) the input
FIFO and the buffer as entries of 32 B (by index modulo 131,072), the entries written and spilled since ARM, the run of
drops that waits for its GAP, the DBGCLK cycle of the last writes with their number, the matches counted, and the entries
still to follow the TRIGGER entry. -/
structure Dbg where
  cnt : NMap Quad
  snap : NMap Quad
  snapBeat : Quad
  fifo : List (List Byte)
  buf : NMap (List Byte)
  written : Nat
  spilled : Nat
  run : Nat
  wrCyc : Nat
  wrCount : Nat
  hits : Nat
  post : Option Nat
  deriving DecidableEq, Repr

/-! ### Power states and unbinds -/

/-- PWR (15_reset_clocks_power.md R452 to R458): a command that waits for its boundary (its state's code and the cycle it was written in),
whether a QUIESCE commanded by software, and one of the thermal level, is in effect, whether every unit has been found idle
since, whether the core is clock-gated (IDLE), whether the package is in RETAIN, and whether the power limit throttles this beat. -/
structure Pwr where
  cmd : Option (Nat × Nat) := none
  soft : Bool := false
  hot : Bool := false
  reached : Bool := false
  idle : Bool := false
  retain : Bool := false
  limited : Bool := false
  deriving DecidableEq, Repr

/-- A tenant's unbind in progress (14_security.md R419, R420): the descriptors that complete with it, whether its rings are aborted (step 4)
and its slot retiring (step 6), its ring kept, the folios to zero. -/
structure Unbind where
  descs : List Desc
  aborted : Bool := false
  retired : Bool := false
  folios : Nat := 0
  deriving DecidableEq, Repr

/-! ### Links and the router (10_fabric.md) -/

/-- A tag group as it is sent and kept in a replay buffer (R288, R299): its number, the kinds and the ciphertext of its flits, its tag,
whether its last flit is a BEAT or TIME flit, which stands in slot 9 of a block (R295), how often it has been NAKed. -/
structure Group where
  seq : Quad
  slots : List Slot
  tag : BitVec 128
  mark : Bool
  naks : Nat := 0
  deriving DecidableEq, Repr

/-- A LINK flit that a tag group covers (R295). -/
inductive LinkFlit
  | lctl (f : LctlFlit)
  | beat (f : BeatFlit)
  | elect (f : ElectFlit)
  | abort (vc : Nat)
  deriving DecidableEq, Repr

/-- The keys and salts of a link (R288, R425): sending and receiving. -/
structure LinkKeys where
  tx : BitVec 256
  rx : BitVec 256
  txSalt : Word
  rxSalt : Word
  deriving DecidableEq, Repr

/-- Where the flits of a message in reception go (R306): held in the input buffer; sent on by cut-through on an output port and channel,
under `shared` of its shared credits; discarded, since the output has gone DOWN (R318). -/
inductive Feed
  | hold
  | port (p chan shared : Nat)
  | lost
  deriving DecidableEq, Repr

/-- A message of which some flits have arrived: its VC, its header, the DATA flits so far, where they go. -/
structure Partial where
  vc : Nat
  head : Flit
  data : List Flit
  out : Feed := .hold
  deriving DecidableEq, Repr

/-- A transit message in an input VC (R290, R306): its header and DATA flits. It is `stale` where its link has gone DOWN since it came, so
that no credits are returned for it. -/
structure Transit where
  head : Flit
  data : List Flit
  stale : Bool := false
  deriving DecidableEq, Repr

/-- A link. Its state, FEC mode, PEER and DELAY are in its registers. Of the training run: the HELLOs received, whether SEC runs its key
establishment, the nonce and encapsulation key offered, the ciphertext and secret sent, the peer's OFFER and RESPONSE, the delays measured. In ACTIVE: the keys, the next
GROUP_SEQ to send and to accept, whether groups are discarded until a NAKed one arrives, the replay buffer, the cycle in which ACK_SEQ
last advanced, the credits held at the peer by VC and shared, those it gave at first, the input VCs, the message in reception, the shared
flits in use by VC, the LCTL that has fallen due with the cycle by which it is sent (R299), the LINK flits that wait for room in the replay
buffer, the flits still to come of a message that is sent on by cut-through. `standard` keeps standard FEC until DOWN, `bad` counts the
blocks of the beat that RS could not correct, `fails` holds the cycles of the tag failures, `closing` that a DOWN is commanded, `said` that
GOING_DOWN has fallen due for it, `peerClosing` that GOING_DOWN was received. -/
structure Link where
  hellos : List HelloFlit := []
  begun : Bool := false
  nonce : BitVec 256 := 0
  ek : List Byte := []
  ct : List Byte := []
  secret : BitVec 256 := 0
  offer : Option Offer := none
  resp : Option (List Byte × BitVec 256) := none
  delays : List Nat := []
  keys : Option LinkKeys := none
  tx : Quad := 0
  rx : Quad := 0
  waiting : Bool := false
  replay : List Group := []
  ackCyc : Nat := 0
  credit : List Nat := []
  shared : Nat := 0
  credit0 : Nat := 0
  shared0 : Nat := 0
  vcs : NMap (List Transit) := []
  part : Option Partial := none
  loans : NMap Nat := []
  turn : NMap Nat := []
  owed : Option (LctlFlit × Nat) := none
  later : List LinkFlit := []
  feed : Nat := 0
  standard : Bool := false
  bad : Nat := 0
  fails : List Nat := []
  closing : Bool := false
  said : Bool := false
  peerClosing : Bool := false
  deriving DecidableEq, Repr

/-! ### Security (14_security.md) -/

/-- The fuse array (R399) and the straps of the board: the public colophon, IDENTITY_SEED, the key hash slots that are programmed
with their revoke bits. It outlives every reset. -/
structure Fuses where
  code : Nat
  stepping : Nat
  debugLocked : Bool
  serial : Quad
  mac : BitVec 48
  therm : Nat
  rootHash : BitVec 384
  seed : BitVec 256
  mgmt : NMap (BitVec 384)
  mgmtRevoked : List Nat
  anchors : NMap (BitVec 384)
  anchorsRevoked : List Nat
  strapFull : Bool
  strapEth : Bool
  deriving DecidableEq, Repr

/-- An attestation request that SEC holds while it makes the report (R407): its transport, tenant, TENANT_VALID and nonce. -/
structure AttestReq where
  via : Transport
  tenant : Nat
  valid : Bool
  nonce : BitVec 256
  deriving DecidableEq, Repr

/-- SEC: the measurement registers M0 to M5, the digests extended at boot for MGT and SEQ, the staged image's digest and slot, the last
COUNTER accepted, the DRBG's requests since it was seeded and the consecutive entropy failures, whether the self-tests passed, the IDE
session key and the streams with their keys (those in their secure state), the attestation requests held, oldest first, the SEC
descriptor that has begun and waits for snoops (R416), whether MGT has written its boot record since SEC's reset (17_host_port_management.md R488). -/
structure Sec where
  m : List (BitVec 384) := List.replicate 6 0
  mgtDigest : BitVec 384 := 0
  seqDigest : BitVec 384 := 0
  seqVersion : Word := 0
  staged : Option (BitVec 384 × Nat) := none
  counter : Option Quad := none
  draws : Nat := 0
  entropyFails : Nat := 0
  testsOk : Bool := false
  session : Option (BitVec 256) := none
  streams : NMap (BitVec 256) := []
  attests : List AttestReq := []
  now : Option Desc := none
  confirmed : Bool := false
  deriving DecidableEq, Repr

/-- A boot record (17_host_port_management.md R487). STATE: 0 CONFIRMED, 1 TRIAL, 2 TRIAL_FAILED. -/
structure BootRec where
  seq : Quad
  active : Nat
  prev : Nat
  st : Nat
  deriving DecidableEq, Repr

/-- A flash operation in progress: ERASE or PROGRAM, its address, the page's data, where it came from. -/
structure FlashOp where
  erase : Bool
  addr : Nat
  data : List Byte
  src : FlashFrom
  deriving DecidableEq, Repr

/-- The boot flash (R485 to R487): the boot records A and B (none: the CRC fails), the pages written through MGT by address, the
slots whose first page has been written, the operation in progress, the slot that booted, whether the image that booted is PREV of a
trial. It outlives every reset. -/
structure Flash where
  recA : Option BootRec
  recB : Option BootRec
  pages : NMap (List Byte)
  begun : List Nat
  op : Option FlashOp
  bootedPrev : Bool
  deriving DecidableEq, Repr

/-! ### Resets and clocks (15_reset_clocks_power.md) -/

/-- RCU: the level asserted, the level whose release has not ended, whether the fuses are being loaded, the cycles of the S and C
resets of the last second, the clock domains whose blocks it holds, whether the board's sources hold REFCLK_SYS lost, the cycle of the
last kick of the watchdog, whether RST_SYS_N is low, whether PERST# is. -/
structure Rcu where
  asserted : Option Level := none
  releasing : Option Level := some .p
  fusing : Bool := true
  resets : List Nat := []
  lost : List Nat := []
  refLost : Bool := false
  kick : Nat := 0
  sysPin : Bool := false
  perst : Bool := false
  deriving DecidableEq, Repr

/-! ### What leaves the package -/

/-- The package's outputs, in order: R18's final flits, TLPs, interrupt lines and pins. A latency is in CORECLK cycles at
idle. A message of the package's own, a LINK flit and a transit message are also within the tag groups that carry them (`group`), each with
the FEC mode of the link; `deliver` is a message handed to the package's own ingress, whose row carries it (port 24: its own). -/
inductive Out
  | regRead (who : Who) (v : Quad)
  | unsupported (who : Who)
  | beat (link : Nat) (f : BeatFlit)
  | elect (link : Nat) (f : ElectFlit)
  | msg (m : Msg) (lat : Nat)
  | bar4Read (fn tag : Nat) (st : Status) (data : List Byte) (lat : Nat)
  | bar4Unsupported (fn tag : Nat)
  | hostWrite (fn : Nat) (addr : Quad) (data : List Byte) (ro : Bool) (lat : Nat)
  | hostRead (fn : Nat) (addr : Quad) (len : Nat) (lat : Nat)
  | mgtWrite (addr : Quad) (data : List Byte)
  | mgtRead (addr : Quad) (len : Nat)
  | pageRead (fn tag : Nat) (v : Option Word)
  | msix (fn vector : Nat)
  | mgtIrq (queue : Nat)
  | gstopN (high : Bool)
  | thermtripN (high : Bool)
  | ibi
  | transmitter (link : Nat) (on : Bool)
  | probe (link : Nat)
  | hello (link : Nat) (f : HelloFlit)
  | keyOffer (link : Nat) (data : List Byte) (light : Bool)
  | keyResponse (link : Nat) (ct : List Byte) (light : Bool)
  | keyFinish (link : Nat) (sig : List Byte) (light : Bool)
  | time (link t1 t2 t3 : Nat) (light : Bool)
  | lctl (link : Nat) (f : LctlFlit)
  | abort (link vc : Nat)
  | transit (port chan : Nat) (m : Transit)
  | group (link : Nat) (light : Bool) (g : Group)
  | resend (link : Nat) (light : Bool) (g : Group)
  | deliver (link : Nat) (m : Msg)
  | report (via : Transport) (st : Status) (us : Nat) (bytes : List Byte)
  | eth (id : Word) (data : List Byte)
  | doe (fn : Nat) (data : List Byte)
  | flashErase (addr : Nat)
  | flashReset
  | flashProgram (addr : Nat) (data : List Byte)
  deriving DecidableEq, Repr

/-! ### The package -/

/-- The router's injection queues of the package's own messages, by class (R310), and the rotating pointer of their input (R306). -/
structure Inject where
  q : NMap (List Msg)
  turn : Nat
  deriving DecidableEq, Repr

structure Chip where
  regs : NMap Word
  act : NMap Votes
  latch : List (Who × Latch)
  held : List Blk
  esc : Esc
  elec : Elect
  com : Commit
  ext : Ext
  rng : Rng
  mem : Mem
  lcc : NMap LccSet
  stk : NMap Stk
  reg : Reg
  int : Integ
  red : Red
  slots : NMap (Tri SlotE)
  keys : NMap (BitVec 512)
  scrubKey : BitVec 512
  pci : Pci
  hostWait : List (Nat × Out)
  coh : Coh
  xlt : Xlt
  eng : Eng
  kve : Kve
  dbg : Dbg
  pwr : Pwr
  unbinds : NMap Unbind
  links : NMap Link
  inject : Inject
  fuses : Fuses
  sec : Sec
  flash : Flash
  rcu : Rcu
  out : List Out
  fresh : Nat
  deriving DecidableEq, Repr

/-- The state of the model: the package, and the commands that wait, first in, first out. -/
structure State where
  chip : Chip
  pending : List Instr
  deriving DecidableEq, Repr

/-- No command faults: the block has no exception entry, and every error the spec describes is an effect on the state
(INVENTORY.md, Faults). The constructor stands for a closed type; nothing raises it. -/
inductive Fault
  | none
  deriving DecidableEq, Repr

/-- `notModelled`: a command without a meaning, rejected by name in Dispatch.lean (safe: the run stops). -/
inductive Refusal
  | notModelled (mnemonic : String)
  deriving DecidableEq, Repr

/-- The fuses and straps of the modelled part (DESIGN CHOICE, log 3): an H15 part with no management key and no anchor set but Utzan's
in anchor slot 0; the hashes, seed and serial number stand for unknown ones. -/
def Fuses.part : Fuses :=
  { code := 0, stepping := 0xB0, debugLocked := false, serial := 0, mac := 0, therm := 0, rootHash := 0, seed := 0, mgmt := [],
    mgmtRevoked := [], anchors := [(0, 0)], anchorsRevoked := [], strapFull := false, strapEth := false }

/-- The boot flash of the modelled part (DESIGN CHOICE, log 3): boot record A, CONFIRMED, names slot A. -/
def Flash.part : Flash :=
  { recA := some ⟨1, 0, 1, 0⟩, recB := none, pages := [], begun := [], op := none, bootedPrev := false }

/-- The blocks that RCU holds at P reset: all that sit behind a wrapper (R444). -/
def allBlks : List Blk :=
  [.spine, .ext, .rng, .xlt, .mov, .fld, .seq, .kve, .coh, .rte, .lcc, .int, .red, .sec, .mgt, .pci, .dbg]
  ++ (List.range 24).map Blk.lnk ++ (List.range 20).map Blk.stk

/-- The package right after P reset (R10, R438): every register at its table's value, every table empty; nothing has been
released, loaded or tested yet. -/
def Chip.reset : Chip :=
  { regs := [], act := [], latch := [], held := allBlks,
    esc := ⟨0, 0, 0, 62500, none, 0, 0, 0, 0, .free, 0, false, 0, 0, false, 0, false, none, []⟩,
    elec := ⟨0, none, 0, false, 0, 0, none, false⟩,
    com := ⟨0, [], 0, 0, 0, 0, 0, 0⟩,
    ext := ⟨[], [], [], .clean, [], [], [], [], [], [], [], [], []⟩,
    rng := ⟨[], [], [], [], 0, [], [], [], 0, []⟩,
    mem := ⟨[], []⟩, lcc := [], stk := [], reg := ⟨[], []⟩,
    int := ⟨[], [], [], 1, [], [], 0, none, 0, 0, [], 0⟩,
    red := ⟨[], [], [], [], [], none, none, [], false, [], [], 0, [], false, [], 1, 0, none⟩,
    slots := [], keys := [], scrubKey := 0,
    pci := ⟨[], [], [], 0, [], [], 0⟩, hostWait := [], coh := ⟨[], [], [], [], [], 0, 0, [], [], 0, [], []⟩,
    xlt := ⟨[], [], [], [], [], [], none, []⟩, eng := ⟨[], [], [], [], [], 0, 0, 0, false⟩,
    kve := ⟨[], 0, 0, 0, [], [], [], [], false⟩, dbg := ⟨[], [], 0, [], [], 0, 0, 0, 0, 0, 0, none⟩,
    pwr := {}, unbinds := [], links := [], inject := ⟨[], 0⟩, fuses := Fuses.part, sec := {}, flash := Flash.part, rcu := {}, out := [],
    fresh := 0 }

/-- The machine right after reset: the package after P reset, no command waiting. -/
def State.reset : State := { chip := Chip.reset, pending := [] }

end Sys2Proof.Machine
end

