-- ==== Sys2Proof/Machine/Flags.lean ====
section
/-! DEFINITION. The block's flags: the status codes of R13, the codes of the state fields, and counters that saturate or
clear on read. -/

namespace Sys2Proof.Machine

/-- The 8-bit codes of R13. -/
def Status.code : Status → Nat
  | .ok => 0x00 | .okCorrected => 0x01 | .contextFault => 0x10 | .extentFault => 0x11 | .rightsFault => 0x12
  | .extentRevoked => 0x13 | .extentHeld => 0x14 | .keyRetired => 0x15 | .translationFault => 0x16
  | .dataLost => 0x20 | .checkFail => 0x21 | .formatFault => 0x22 | .timeout => 0x30 | .blockReset => 0x31
  | .aborted => 0x32 | .queueFull => 0x33 | .unsupported => 0x34 | .busyRetry => 0x35

/-- The status of a code; a code that is absent from R13 has none. -/
def Status.ofCode (n : Nat) : Option Status :=
  [Status.ok, .okCorrected, .contextFault, .extentFault, .rightsFault, .extentRevoked, .extentHeld, .keyRetired,
    .translationFault, .dataLost, .checkFail, .formatFault, .timeout, .blockReset, .aborted, .queueFull, .unsupported,
    .busyRetry].find? (fun s => s.code == n)

/-- OK or OK_CORRECTED. -/
def Status.good (s : Status) : Bool := s == .ok || s == .okCorrected

/-- The statuses that make a fault record due (R107): every one but OK, OK_CORRECTED and ABORTED. -/
def Status.faults (s : Status) : Bool := !(s.good || s == .aborted)

/-- The worse of two outcomes of a read or write (R177, R196): DATA_LOST, CHECK_FAIL, OK_CORRECTED, OK, with any other
status before them. -/
def Status.rank : Status → Nat
  | .ok => 0 | .okCorrected => 1 | .checkFail => 2 | .dataLost => 3 | .timeout => 8 | .aborted => 9 | _ => 4
def Status.worse (a b : Status) : Status := if a.rank < b.rank then b else a

/-- The lock state codes of R41. -/
def Lock.code : Lock → Nat
  | .free => 0 | .acquire => 1 | .locked => 2 | .holdover => 3 | .unlocked => 4

/-- BEAT_UNLOCKED (R42). -/
def Lock.unlockedFlag (l : Lock) : Bool := l == .acquire || l == .unlocked

/-- The state codes of R65. -/
def ExtSt.code : ExtSt → Nat
  | .free => 0 | .live => 1 | .draining => 2 | .held => 3 | .scrubbing => 4

/-- The state codes of R92. -/
def RingSt.code : RingSt → Nat
  | .disabled => 0 | .active => 1 | .stopped => 2 | .aborting => 3

/-- The state codes of R409. -/
def SlotSt.code : SlotSt → Nat
  | .free => 0 | .bound => 1 | .awaiting => 2 | .retiring => 3

/-- The block codes of R108. -/
def Blk.code : Blk → Nat
  | .glb => 0x00 | .ext => 0x01 | .rng => 0x02 | .xlt => 0x03 | .mov => 0x04 | .fld => 0x05 | .seq => 0x06 | .kve => 0x07
  | .coh => 0x08 | .lnk _ => 0x09 | .rte => 0x0A | .lcc => 0x0B | .stk _ => 0x0C | .int => 0x0D | .red => 0x0E
  | .sec => 0x0F | .mgt => 0x10 | .pci => 0x11 | .rcu => 0x12 | .pwr => 0x13 | .aon => 0x14 | .dbg => 0x15
  | .spine => 0x16

/-- The error classes of R365: code, STATUS, SEVERITY and ADDR_KIND. GROUP_STATE's status is given where it is raised. -/
inductive ErrClass
  | readCorrected | readLost | degradedRead | scrubCorrected | silentCorrected | scrubLost | writebackLost | writeRefused
  | stackFailed | groupState | catSticky | selfTest | tileCheck | link | route | coh | vote | counterParity | blockReset
  | clock | supply | thermal | security
  deriving DecidableEq, Repr

def ErrClass.code : ErrClass → Nat
  | .readCorrected => 0x01 | .readLost => 0x02 | .degradedRead => 0x03 | .scrubCorrected => 0x04
  | .silentCorrected => 0x05 | .scrubLost => 0x06 | .writebackLost => 0x07 | .writeRefused => 0x08 | .stackFailed => 0x09
  | .groupState => 0x0A | .catSticky => 0x0B | .selfTest => 0x0C | .tileCheck => 0x0D | .link => 0x10 | .route => 0x11
  | .coh => 0x12 | .vote => 0x13 | .counterParity => 0x14 | .blockReset => 0x15 | .clock => 0x16 | .supply => 0x17
  | .thermal => 0x18 | .security => 0x19

def ErrClass.status : ErrClass → Status
  | .readCorrected | .degradedRead | .scrubCorrected | .silentCorrected | .catSticky | .vote => .okCorrected
  | .readLost | .scrubLost | .writebackLost | .writeRefused => .dataLost
  | .tileCheck => .checkFail
  | _ => .ok

def ErrClass.severity : ErrClass → Nat
  | .readCorrected | .degradedRead | .scrubCorrected | .silentCorrected | .catSticky | .selfTest | .vote => 0
  | .blockReset | .clock => 2
  | _ => 1

def ErrClass.addrKind : ErrClass → Nat
  | .readCorrected | .readLost | .writeRefused | .tileCheck | .coh => 2
  | .degradedRead | .scrubCorrected | .silentCorrected | .scrubLost | .stackFailed | .catSticky | .selfTest => 4
  | .writebackLost => 1
  | _ => 0

/-! ### One block replaced -/

def Chip.setEsc (c : Chip) (x : Esc) : Chip := { c with esc := x }
def Chip.setElec (c : Chip) (x : Elect) : Chip := { c with elec := x }
def Chip.setCom (c : Chip) (x : Commit) : Chip := { c with com := x }
def Chip.setExt (c : Chip) (x : Ext) : Chip := { c with ext := x }
def Chip.setRng (c : Chip) (x : Rng) : Chip := { c with rng := x }
def Chip.setMem (c : Chip) (x : Mem) : Chip := { c with mem := x }
def Chip.setInt (c : Chip) (x : Integ) : Chip := { c with int := x }
def Chip.setRed (c : Chip) (x : Red) : Chip := { c with red := x }
def Chip.setDbg (c : Chip) (x : Dbg) : Chip := { c with dbg := x }
def Chip.setPci (c : Chip) (x : Pci) : Chip := { c with pci := x }
def Chip.setCoh (c : Chip) (x : Coh) : Chip := { c with coh := x }
def Chip.setXlt (c : Chip) (x : Xlt) : Chip := { c with xlt := x }
def Chip.setEng (c : Chip) (x : Eng) : Chip := { c with eng := x }
def Chip.setKve (c : Chip) (x : Kve) : Chip := { c with kve := x }
def Chip.setPwr (c : Chip) (x : Pwr) : Chip := { c with pwr := x }
def Chip.setSec (c : Chip) (x : Sec) : Chip := { c with sec := x }
def Chip.setFuses (c : Chip) (x : Fuses) : Chip := { c with fuses := x }
def Chip.setFlash (c : Chip) (x : Flash) : Chip := { c with flash := x }
def Chip.setRcu (c : Chip) (x : Rcu) : Chip := { c with rcu := x }
def Chip.setUnbinds (c : Chip) (x : NMap Unbind) : Chip := { c with unbinds := x }
def Chip.setReg (c : Chip) (x : Reg) : Chip := { c with reg := x }

/-! ### Registers as the blocks see them -/

/-- The stored word of a register. -/
def Chip.word (c : Chip) (off : Nat) : Word := (look c.regs off).getD (resetWord off)

/-- The package with a stored word written. -/
def Chip.setWord (c : Chip) (off : Nat) (v : Word) : Chip := { c with regs := put c.regs off v }

/-- A field of a stored word. -/
def Chip.get (c : Chip) (off lo w : Nat) : Nat := bitsOf (c.word off).toNat lo w

/-- The package with a field of a stored word written by the hardware. -/
def Chip.set (c : Chip) (off lo w v : Nat) : Chip := c.setWord off (BitVec.ofNat 32 (withBits (c.word off).toNat lo w v))

/-- A one-bit field. -/
def Chip.bit (c : Chip) (off n : Nat) : Bool := c.get off n 1 == 1
def Chip.setBit (c : Chip) (off n : Nat) (v : Bool) : Chip := c.set off n 1 (if v then 1 else 0)

/-- A 64-bit register. -/
def Chip.get64 (c : Chip) (off : Nat) : Nat := (c.word off).toNat + (c.word (off + 4)).toNat * 2 ^ 32
def Chip.set64 (c : Chip) (off v : Nat) : Chip :=
  (c.setWord off (BitVec.ofNat 32 v)).setWord (off + 4) (BitVec.ofNat 32 (v / 2 ^ 32))

/-- The bitwise majority of three copies (13_redundancy.md R376). -/
def Votes.majority (v : Votes) : Word := (v.a &&& v.b) ||| (v.a &&& v.d) ||| (v.b &&& v.d)

/-- The word that the blocks act on: the voted active copy of the shadow register at an offset (R51, R376). -/
def Chip.actWord (c : Chip) (off : Nat) : Word :=
  match look c.act off with
  | some v => v.majority
  | none => resetWord off

/-- A field of an active copy. -/
def Chip.aget (c : Chip) (off lo w : Nat) : Nat := bitsOf (c.actWord off).toNat lo w

/-- The counters of which the spec does not say that they saturate: past the greatest value they read a free value
(log 2). -/
def unsaid (off : Nat) : Bool := off == rRNG_DB_DROPPED || off == rRNG_FQ_UNROUTED

/-- A counter increased: it saturates at 2^32 − 1. -/
def Chip.bump (c : Chip) (off n : Nat) : Chip :=
  if (c.word off).toNat + n < 2 ^ 32 then c.setWord off (BitVec.ofNat 32 ((c.word off).toNat + n))
  else if unsaid off then
    { c.setWord off ((Config.freeValue c.fresh).setWidth 32) with fresh := c.fresh + 1 }
  else c.setWord off (BitVec.ofNat 32 (2 ^ 32 - 1))

end Sys2Proof.Machine
end

