-- ==== Sys2Proof/Machine/Operands.lean ====
section
/-! DEFINITION. The operand forms: the fields of a descriptor (04_rings_and_descriptors.md R99, little-endian by R5) and of a
message's SPEC bytes (10_fabric.md R292, big-endian by R286). -/

namespace Sys2Proof

open Sys2Proof.Machine

/-- A field of the SPEC bytes, `off` counted from byte 36, big-endian (R286, R292). -/
def Msg.specAt (m : Msg) (off n : Nat) : Nat := m.spec.toNat / 256 ^ (12 - off - n) % 256 ^ n

/-- The SPEC bytes with a field written. -/
def Msg.withSpec (m : Msg) (off n v : Nat) : Msg :=
  { m with spec := BitVec.ofNat 96 (withBits m.spec.toNat (8 * (12 - off - n)) (8 * n) v) }

/-- Byte `i` of a descriptor, and a little-endian field of it. -/
def Desc.field (d : Desc) (off n : Nat) : Nat := bitsOf d.raw.toNat (8 * off) (8 * n)
def Desc.bitsAt (d : Desc) (off lo w : Nat) : Nat := bitsOf d.raw.toNat (8 * off + lo) w

def Desc.opcode (d : Desc) : Nat := d.field 0 1
def Desc.fence (d : Desc) : Bool := d.bitsAt 1 0 1 == 1
def Desc.quiet (d : Desc) : Bool := d.bitsAt 1 1 1 == 1
def Desc.irq (d : Desc) : Bool := d.bitsAt 1 2 1 == 1
def Desc.ctx (d : Desc) : Nat := d.field 2 2
def Desc.tag (d : Desc) : Nat := d.field 4 4
def Desc.tensorTag (d : Desc) : Nat := d.field 8 4
def Desc.step (d : Desc) : Nat := d.field 12 4

/-- Whether a field that must be 0 is 0. -/
def Desc.zero (d : Desc) (off lo w : Nat) : Bool := d.bitsAt off lo w == 0


end Sys2Proof
end

