-- ==== Sys2Proof/Machine/Ops.lean ====
section
/-! DEFINITION. The shared operations: votes and table writes, contexts, messages, queues and records, completions. -/

namespace Sys2Proof.Machine

/-! ### Outputs and free values -/

/-- The package with an output appended. -/
def Chip.emit (c : Chip) (o : Out) : Chip :=
  { c with out := c.out ++ [o], inject := match o with
    | .msg m _ => { c.inject with q := put c.inject.q m.cls.toNat (lookD c.inject.q m.cls.toNat [] ++ [m]) }
    | _ => c.inject }

/-- Whether the package is stopped (16_observation.md R471). -/
def Chip.stopped (c : Chip) : Bool := c.bit 0x50010 8

/-- Any request leaves IDLE (15_reset_clocks_power.md R452). -/
def Chip.wake (c : Chip) : Chip := { c with pwr := { c.pwr with idle := false } }

/-- Whether a global stop holds a block (R471): stacks go on refreshing and link ports go on, each on a clock of its own (DEDUCED, log 10); RTE
goes on with SCOPE 0. -/
def Chip.paused (c : Chip) (b : Blk) : Bool :=
  c.stopped && (match b with | .stk _ | .lnk _ => false | .rte => c.bit 0x50010 2 | _ => true)

/-- What a block does: nothing while it is held in reset or by a stop (R442, R471; log 10). -/
def Chip.live (c : Chip) (b : Blk) (f : Chip → Chip) : Chip := if c.paused b || c.held.contains b then c else f c.wake

/-- Whether QUIESCE is in effect (15_reset_clocks_power.md R453). -/
def Chip.quiesced (c : Chip) : Bool := c.pwr.soft || c.pwr.hot

/-- Whether a tenant is being unbound (14_security.md R419). -/
def Chip.unbinding (c : Chip) (t : Nat) : Bool := (look c.unbinds t).isSome

/-- The next transaction identifier of RED. The package numbers its own requests: RNG from 0, RED from 0x4000, movers from
0x8000 (DESIGN CHOICE, log 12). -/
def Chip.redTxn (c : Chip) : Nat × Chip :=
  (0x4000 + c.red.nextTxn % 0x4000, c.setRed { c.red with nextTxn := (c.red.nextTxn + 1) % 0x4000 })

/-- The next free value (log 2), and the package that has used it. -/
def Chip.free (c : Chip) : BitVec 64 × Chip := (Config.freeValue c.fresh, { c with fresh := c.fresh + 1 })

/-- The next random draw (14_security.md R398), and the package that has used it. -/
def Chip.draw (c : Chip) : BitVec 512 × Chip :=
  (Config.random c.fresh, { c with fresh := c.fresh + 1, sec := { c.sec with draws := c.sec.draws + 1 } })

/-- Whether a TLP to BAR 2 or BAR 4 is accepted by the stream it arrives on (17_host_port_management.md R481). -/
def Chip.ideOk (c : Chip) (stream : Option Nat) : Bool :=
  match stream with
  | some n => (look c.sec.streams n).isSome
  | none => !c.bit 0x1400000 0

/-! ### Counters (02_beat_and_commit.md R54, 16_observation.md R462, R463) -/

/-- A counter increased: VALUE wraps modulo 2^48, EPOCH stays. -/
def cntAdd (v : Quad) (n : Nat) : Quad :=
  BitVec.ofNat 64 (v.toNat / 2 ^ 48 * 2 ^ 48 + (v.toNat % 2 ^ 48 + n) % 2 ^ 48)

/-- A new epoch (R55): EPOCH increases modulo 2^16, VALUE restarts from 0. -/
def cntEpoch (v : Quad) : Quad := BitVec.ofNat 64 ((v.toNat / 2 ^ 48 + 1) % 2 ^ 16 * 2 ^ 48)

/-- Counter `i` of R462 increased. -/
def Chip.count (c : Chip) (i n : Nat) : Chip :=
  { c with dbg := { c.dbg with cnt := put c.dbg.cnt i (cntAdd (lookD c.dbg.cnt i 0) n) } }

/-- TLP payload bytes in and out of the PCIe port (R462); a message of MSI-X carries four. -/
def Chip.tlpIn (c : Chip) (n : Nat) : Chip := if c.held.contains .pci then c else c.count 120 n
def Chip.tlpOut (c : Chip) (n : Nat) (o : Out) : Chip := (c.count 121 n).emit o

/-- Whether the port of a location of rings is held in reset: PCI, or MGT (15_reset_clocks_power.md R444). -/
def Chip.portShut (c : Chip) (loc : Nat) : Bool := (loc == 0 && c.held.contains .pci) || (loc == 2 && c.held.contains .mgt)

/-- A request of the package's own at the PCIe port, of `n` payload bytes: with IDE_REQUIRED it waits for a stream in its secure state, which
any stream serves (17_host_port_management.md R481; DEDUCED, log 31). -/
def Chip.hostOut (c : Chip) (n : Nat) (o : Out) : Chip :=
  if c.held.contains .pci then c
  else if c.bit 0x1400000 0 && c.sec.streams.isEmpty then { c with hostWait := c.hostWait ++ [(n, o)] }
  else c.tlpOut n o

/-- Requests that waited for a stream go out, in order. -/
def Chip.pumpHost (c : Chip) : Chip :=
  c.hostWait.foldl (fun c e => c.hostOut e.1 e.2) { c with hostWait := [] }

/-- Counter `i` starts a new epoch. -/
def Chip.epoch (c : Chip) (i : Nat) : Chip :=
  { c with dbg := { c.dbg with cnt := put c.dbg.cnt i (cntEpoch (lookD c.dbg.cnt i 0)) } }

/-- Whether CNT_SEL_j selects an event of one of a block's copies: BLOCK, EVENT, INSTANCE and the filter (R463). -/
def Chip.selects (c : Chip) (j : Nat) (b : Blk) (inst code : Nat) (filter : Option (Nat × Nat × Nat)) : Bool :=
  let o := 0x120E000 + 8 * j
  c.aget o 8 8 == b.code && c.aget o 0 8 == code && (c.aget o 21 1 == 1 || c.aget o 16 5 == inst)
  && (match c.aget o 22 2, filter with
    | 0, _ => true
    | 1, some (x, _, _) => x == (c.actWord (o + 4)).toNat
    | 2, some (_, y, _) => y == (c.actWord (o + 4)).toNat
    | 3, some (_, _, z) => z == (c.actWord (o + 4)).toNat
    | _, none => false
    | _, _ => false)

/-- An event that the programmable counters may count (R463): `filter` is its context, tenant and tensor tag. A counter
whose selection no commit has made counts no event but cycles. -/
def Chip.event (c : Chip) (b : Blk) (inst code n : Nat) (filter : Option (Nat × Nat × Nat)) : Chip :=
  (upTo 64).foldl (fun c j => if c.selects j b inst code filter then c.count (336 + j) n else c) c

/-! ### Nodes and messages (10_fabric.md R291, R292) -/

/-- The package's own node ID. -/
def Chip.node (c : Chip) : NodeId := BitVec.ofNat 24 (c.get rRTE_NODE 0 24)

/-- The alias, while it is VALID (13_redundancy.md R390). -/
def Chip.alias? (c : Chip) : Option NodeId :=
  if c.bit rRED_ALIAS 31 then some (BitVec.ofNat 24 (c.get rRED_ALIAS 0 24)) else none

/-- The SRC of messages the package originates (R390). -/
def Chip.srcNode (c : Chip) : NodeId := (c.alias?).getD c.node

/-- Whether the package runs in the card configuration (01_architecture.md R33). -/
def Chip.card (c : Chip) : Bool := c.bit rRTE_STATUS 1

/-- The classes of R291. -/
def clsReq : BitVec 2 := 0
def clsFwd : BitVec 2 := 1
def clsFold : BitVec 2 := 2
def clsRsp : BitVec 2 := 3

/-- The number of DATA flits of a payload. -/
def flitsOf (bytes : Nat) : BitVec 7 := BitVec.ofNat 7 (ceilDiv bytes 64)

/-- A response to a request, to its source, with its transaction and context. -/
def Chip.reply (c : Chip) (m : Msg) (opcode : Byte) (st : Status) : Msg :=
  { cls := clsRsp, opcode := opcode, dest := m.src, dport := m.sport, src := c.srcNode, txn := m.txn, ctx := m.ctx,
    status := BitVec.ofNat 8 st.code }

/-- The length of a beat without its trim, in cycles. -/
def Esc.base (e : Esc) : Nat := ((e.len : Int) - e.adj).toNat

/-- The length of a beat in µs: the retry time of one beat (R111). -/
def Chip.beatUs (c : Chip) : Nat := c.esc.base / 1250

/-- The opcode that answers an opcode (R293), and a refusal for a status. INFO holds the retry time of BUSY_RETRY. -/
def answerOf (op : Nat) : Option Byte :=
  if op = 0x01 then some 0x20 else if op = 0x02 || op = 0x03 then some 0x21 else if op = 0x10 then some 0x22
  else if op = 0x0A then some 0x24 else if 0x40 ≤ op && op ≤ 0x45 then some 0x62 else none

/-- A refusal: a coherent request is answered by GO, and a RELEASE carries the address of its RECLAIM. -/
def Chip.refusal (c : Chip) (m : Msg) (st : Status) (us : Nat) : Option Msg :=
  (answerOf m.opcode.toNat).map (fun op => { c.reply m op st with
    info := if st == .busyRetry then BitVec.ofNat 32 us else 0, addr := if op == 0x24 then m.addr else 0 })

/-- The done notice of a lent access to its home (03_extents.md R82). -/
def Chip.lendDone (c : Chip) (m : Msg) : Chip :=
  if m.lent then
    c.emit (.msg { cls := clsRsp, opcode := 0x23, dest := BitVec.ofNat 24 (m.specAt 0 3), dport := BitVec.ofNat 5 (m.specAt 3 1),
                   src := c.srcNode, txn := BitVec.ofNat 16 (m.specAt 4 2) } 0)
  else c

/-- The package that has sent a refusal, where the request has an answering message. -/
def Chip.sendRefusal (c : Chip) (m : Msg) (st : Status) (us lat : Nat) : Chip :=
  match c.refusal m st us with
  | some r => (c.emit (.msg r lat)).lendDone m
  | none => c

/-! ### Voted tables (13_redundancy.md R373 to R375) -/

/-- Three equal copies. -/
def Tri.of {α : Type} (v : α) : Tri α := ⟨⟨v, 0⟩, ⟨v, 0⟩, ⟨v, 0⟩⟩

/-- The vote of R373: the value used, if there is one, and whether a copy is rewritten. -/
def Tri.vote {α : Type} [DecidableEq α] (t : Tri α) : Option α × Bool :=
  match ([t.a, t.b, t.d].filter (fun k => k.err == 0)).map (fun k => k.val) with
  | [] => (none, false)
  | [x] => (some x, true)
  | [x, y] => if x = y then (some x, true) else (none, false)
  | x :: y :: z :: _ =>
    if x = y then (some x, decide (x ≠ z)) else if x = z then (some x, true) else if y = z then (some y, true)
    else (none, false)

/-- The context entry that no write has changed: context 0 as R61 gives, every other not VALID. -/
def ctxDefault (n : Nat) : CtxE :=
  if n = 0 then { valid := true, mgmt := true, srcPcie := true, rights := 31 } else {}

def Chip.ctxTri (c : Chip) (n : Nat) : Tri CtxE := lookD c.ext.ctxs n (Tri.of (ctxDefault n))
def Chip.extTri (c : Chip) (h : Nat) : Tri Extent := lookD c.ext.dir h (Tri.of {})
def Chip.slotTri (c : Chip) (n : Nat) : Tri SlotE := lookD c.slots n (Tri.of {})

/-- A context entry as the vote gives it; without a majority it is not VALID (R375). -/
def Chip.ctx (c : Chip) (n : Nat) : CtxE := ((c.ctxTri n).vote.1).getD {}

/-- An extent entry as the vote gives it. -/
def Chip.extent? (c : Chip) (h : Nat) : Option Extent := (c.extTri h).vote.1

/-- An extent entry; without a majority, its logic-die copy (R375). -/
def Chip.extent (c : Chip) (h : Nat) : Extent := (c.extent? h).getD (c.extTri h).a.val

/-- A key slot; without a majority it is treated as retiring (R375). -/
def Chip.slot (c : Chip) (n : Nat) : SlotE := ((c.slotTri n).vote.1).getD { (c.slotTri n).a.val with st := .retiring }

/-- Whether a key slot lets a keyed extent be accessed: BOUND, and SEC not in its error state (14_security.md R409, R435). -/
def Chip.slotBound (c : Chip) (n : Nat) : Bool := (c.slot n).st == .bound && !c.bit 0x30000 6

/-- One write of the three copies (R68, R373). -/
def Chip.putCtx (c : Chip) (n : Nat) (e : CtxE) : Chip := { c with ext := { c.ext with ctxs := put c.ext.ctxs n (Tri.of e) } }
def Chip.putExt (c : Chip) (h : Nat) (e : Extent) : Chip := { c with ext := { c.ext with dir := put c.ext.dir h (Tri.of e) } }
def Chip.putSlot (c : Chip) (n : Nat) (e : SlotE) : Chip := { c with slots := put c.slots n (Tri.of e) }

/-- What the filter of a programmable counter compares (16_observation.md R463): a context, its tenant, a tensor tag. -/
def noTag : Nat := 2 ^ 32
def Chip.carries (c : Chip) (ctx tag : Nat) : Option (Nat × Nat × Nat) := some (ctx, (c.ctx ctx).tenant, tag)

/-- The handles listed, which are all those that can be other than FREE. -/
def Chip.handles (c : Chip) : List Nat := c.ext.dir.map (·.1)

/-- Handles that are not FREE (EXT_USED). -/
def Chip.usedHandles (c : Chip) : List Nat := c.handles.filter (fun h => (c.extent h).st != .free)

/-- Whether a tenant holds a key slot (R62). -/
def Chip.tenantKeyed (c : Chip) (t : Nat) : Bool :=
  c.slots.any (fun e => (c.slot e.1).st != .free && (c.slot e.1).tenant == t)

/-- The folio record of a PPA folio (03_extents.md R66). -/
def Chip.folio (c : Chip) (f : Nat) : Folio := lookD c.ext.folios f c.ext.folioDefault

/-- Protected capacity in folios (R57): 786,432 on H15 and 524,288 on H10, by GLB_CAPACITY. -/
def Chip.folioCount (c : Chip) : Nat := c.get 0x10 0 20

/-- An entry's bits (R60), for its journal record and its CRC. -/
def CtxE.bits (e : CtxE) : Nat :=
  e.valid.toNat + e.admin.toNat * 2 + e.mgmt.toNat * 4 + e.strict.toNat * 8 + e.srcPcie.toNat * 16 + e.func * 2 ^ 8
  + e.srcNode.toNat * 2 ^ 16 + e.srcMask.toNat * 2 ^ 40 + e.tenant * 2 ^ 64 + e.faultq * 2 ^ 74
  + e.faultqValid.toNat * 2 ^ 80 + e.errq * 2 ^ 81 + e.errqValid.toNat * 2 ^ 87 + e.timeout * 2 ^ 88
  + e.agent * 2 ^ 96 + e.agentValid.toNat * 2 ^ 102 + e.rights * 2 ^ 103

/-- The entry of 128 bits (R60). -/
def CtxE.ofBits (x : Nat) : CtxE :=
  { valid := bitOf x 0, admin := bitOf x 1, mgmt := bitOf x 2, strict := bitOf x 3, srcPcie := bitOf x 4,
    func := bitsOf x 8 8, srcNode := BitVec.ofNat 24 (bitsOf x 16 24), srcMask := BitVec.ofNat 24 (bitsOf x 40 24),
    tenant := bitsOf x 64 10, faultq := bitsOf x 74 6, faultqValid := bitOf x 80, errq := bitsOf x 81 6,
    errqValid := bitOf x 87, timeout := bitsOf x 88 8, agent := bitsOf x 96 6, agentValid := bitOf x 102,
    rights := bitsOf x 103 5 }

/-- The CRC-16 of R373 over an entry of `n` bits, most significant bit first: polynomial 0x1021, initial value 0xFFFF. -/
def crc16 (x : Nat) : Nat → Nat → Nat
  | 0, acc => acc
  | n + 1, acc =>
    let fb := xorN (acc / 2 ^ 15 % 2) (x / 2 ^ n % 2)
    crc16 x n (if fb = 1 then xorN (acc * 2 % 65536) 0x1021 else acc * 2 % 65536)

/-- The CRC a copy of a context entry carries. -/
def CtxE.crc (e : CtxE) : Nat := crc16 e.bits 128 0xFFFF

/-! ### Error reports (12_integrity.md R365, R367) -/

/-- The queue a report goes to (04_rings_and_descriptors.md R109): the ERRQ of its context, or the package's. -/
def Chip.errDest (c : Chip) (ctx : Option Nat) : Option Nat :=
  match ctx with
  | some n => if (c.ctx n).valid && (c.ctx n).errqValid then some (c.ctx n).errq else none
  | none => if c.bit rRNG_ERRQ_PKG 8 then some (c.get rRNG_ERRQ_PKG 0 6) else none

/-- The key of a coalescing slot. -/
def Report.same (r : Report) (cls blk inst : Nat) (q : Option Nat) : Bool :=
  r.cls == cls && r.blk == blk && r.inst == inst && r.queue == q

/-- The class of a report without its queue, count and address. -/
structure ReportOf where
  cls : ErrClass
  blk : Blk
  inst : Nat := 0
  status : Option Status := none
  sev : Option Nat := none
  addr : Nat := 0
  ctx : Option Nat := none
  tenant : Nat := 0
  count : Nat := 1
  deriving DecidableEq, Repr

/-- A report: counted by class, and coalesced into the open slot of its key, or into a new one while one of the 256 is
free. -/
def Chip.report (c : Chip) (r : ReportOf) : Chip :=
  let c := c.bump (rINT_CLASS_CNT + 4 * r.cls.code) 1
  let q := c.errDest r.ctx
  let merge (x : Report) : Report :=
    if x.same r.cls.code r.blk.code r.inst q then { x with count := satAdd 32 x.count r.count, last := c.esc.beat } else x
  if c.int.reports.any (fun x => x.same r.cls.code r.blk.code r.inst q) then
    { c with int := { c.int with reports := c.int.reports.map merge } }
  else if c.int.reports.length < 256 then
    { c with int := { c.int with reports := c.int.reports ++ [{
        cls := r.cls.code, blk := r.blk.code, inst := r.inst, queue := q, status := r.status.getD r.cls.status,
        sev := r.sev.getD r.cls.severity, addrKind := r.cls.addrKind, addr := r.addr, ctx := r.ctx.getD 0,
        tenant := r.tenant, count := r.count, first := c.esc.beat, last := c.esc.beat }] } }
  else c.bump rINT_COALESCE_MISSED 1

/-- A vote on an entry: a losing copy is rewritten, counted and reported (R374). -/
def Chip.countRepair (c : Chip) : Chip := (c.bump rRED_VOTE_REPAIRS 1).report { cls := .vote, blk := .ext }

def Chip.voteExt (c : Chip) (h : Nat) : Chip :=
  match (c.extTri h).vote with
  | (some e, true) => (c.putExt h e).countRepair
  | (none, _) => { c with ext := { c.ext with rebuild := if c.ext.rebuild.contains (0, h) then c.ext.rebuild
      else c.ext.rebuild ++ [(0, h)] } }
  | _ => c

def Chip.voteCtx (c : Chip) (n : Nat) : Chip :=
  match (c.ctxTri n).vote with
  | (some e, true) => (c.putCtx n e).countRepair
  | (none, _) => { c with ext := { c.ext with rebuild := if c.ext.rebuild.contains (1, n) then c.ext.rebuild
      else c.ext.rebuild ++ [(1, n)] } }
  | _ => c

def Chip.voteSlot (c : Chip) (n : Nat) : Chip :=
  match (c.slotTri n).vote with
  | (some e, true) => (c.putSlot n e).countRepair
  | (none, _) => { c with ext := { c.ext with rebuild := if c.ext.rebuild.contains (2, n) then c.ext.rebuild
      else c.ext.rebuild ++ [(2, n)] } }
  | _ => c

/-! ### Signals (R120, R480) -/

/-- An MSI-X message of a function, or its pending bit while the vector is masked. -/
def Chip.msix (c : Chip) (fn v : Nat) : Chip :=
  let masked := if fn = 0 then c.bit (0x148000C + 16 * v) 0
    else bitOf ((look c.pci.vfTable (fn * 0x20000 + 16 * v + 12)).getD 1).toNat 0
  if masked then
    { c with pci := { c.pci with pba := if c.pci.pba.contains (fn, v) then c.pci.pba else c.pci.pba ++ [(fn, v)] } }
  else c.hostOut 4 (.msix fn v)

/-- A device event of PF 0 (R480): its bit in PCI_EVT, and its vector unless it is masked. A port in reset shows none. -/
def Chip.pfEvent (c : Chip) (n : Nat) : Chip :=
  if c.held.contains .pci then c else
  let c := c.setBit rPCI_EVT n true
  if c.bit rPCI_EVT_MASK n then c else c.msix 0 (4088 + n)

/-! ### Queues of records (R110, R114, R116, R120, R122) -/

/-- PHASE of the record at an index: 1 on the first pass, and it flips on each later one (R110). -/
def phaseOf (ix log2 : Nat) : Nat := if ix / 2 ^ log2 % 2 = 0 then 1 else 0

/-- Where a ring's or queue's records are written (R91). -/
structure Place where
  loc : Nat
  fn : Nat
  node : NodeId
  rctx : Nat
  base : Quad
  log2 : Nat
  size : Nat
  vector : Nat
  number : Nat
  kind : Nat
  deriving DecidableEq, Repr

/-- A write request of the records' bytes at one address: by TLP, by a REQ-class WR, or to MGT (R91, R114); a port in reset sends none. -/
def Chip.writePiece (c : Chip) (p : Place) (batch : Nat) (addr : Nat) (data : List Byte) : Chip :=
  if data.isEmpty || c.portShut p.loc then c
  else if p.loc = 0 then c.hostOut data.length (.hostWrite p.fn (BitVec.ofNat 64 addr) data false 12)
  else if p.loc = 1 then
    let t := c.rng.nextTxn
    let m : Msg :=
      { cls := clsReq, opcode := 0x02, dest := p.node, src := c.srcNode, txn := BitVec.ofNat 16 t,
        ctx := BitVec.ofNat 16 p.rctx, addr := BitVec.ofNat 64 addr, len := flitsOf data.length,
        bytes := BitVec.ofNat 13 data.length, data := data }
    ({ c with rng := { c.rng with recTxns := put c.rng.recTxns t batch, nextTxn := (t + 1) % 16384 } }).emit (.msg m 10)
  else c.emit (.mgtWrite (BitVec.ofNat 64 addr) data)

/-- A batch of records from index `ix`, in two requests where it wraps (R114). -/
def Chip.writeBatch (c : Chip) (p : Place) (batch ix : Nat) (recs : List (List Byte)) : Chip :=
  let slot := ix % 2 ^ p.log2
  let n := min recs.length (2 ^ p.log2 - slot)
  let c := c.writePiece p batch (p.base.toNat + slot * p.size) ((recs.take n).flatten)
  c.writePiece p batch p.base.toNat ((recs.drop n).flatten)

/-- The signal of a ring or queue (R120): MSI-X, NOTIFY, or the MGT line. -/
def Chip.signal (c : Chip) (p : Place) (ix : Nat) : Chip :=
  if p.loc = 0 then c.msix p.fn p.vector
  else if p.loc = 1 then
    let m : Msg := { cls := clsReq, opcode := 0x09, dest := p.node, src := c.srcNode, ctx := BitVec.ofNat 16 p.rctx }
    c.emit (.msg (((m.withSpec 0 2 p.vector).withSpec 2 2 (p.number + p.kind * 4096)).withSpec 4 4 ix) 10)
  else c.emit (.mgtIrq p.kind)

/-- The place of a queue: through the function of CTRL_CTX (R118). -/
def Queue.place (q : Queue) (c : Chip) (n kind : Nat) : Place :=
  { loc := q.loc, fn := (c.ctx q.ctrlCtx).func, node := q.hostNode, rctx := q.remoteCtx, base := q.base, log2 := q.log2,
    size := 32, vector := q.vector, number := n, kind := kind }

def Chip.fq (c : Chip) (n : Nat) : Queue := lookD c.rng.fqs n {}
def Chip.eq (c : Chip) (n : Nat) : Queue := lookD c.rng.eqs n {}
def Chip.putFq (c : Chip) (n : Nat) (q : Queue) : Chip := { c with rng := { c.rng with fqs := put c.rng.fqs n q } }
def Chip.putEq (c : Chip) (n : Nat) (q : Queue) : Chip := { c with rng := { c.rng with eqs := put c.rng.eqs n q } }

/-- Records of a queue that the host has not consumed. -/
def Queue.used (q : Queue) : Nat := (q.put - q.head).toNat

/-- The batch of a queue written and signalled (R114, R122). -/
def Chip.flushQueue (c : Chip) (isErr : Bool) (n : Nat) : Chip :=
  let q := if isErr then c.eq n else c.fq n
  if q.batch.isEmpty then c else
  let p := q.place c n (if isErr then 2 else 1)
  let ix := (q.put - BitVec.ofNat 32 q.batch.length).toNat
  let c := c.writeBatch p (if isErr then 4160 + n else 4096 + n) ix q.batch
  let q' := { q with batch := [] }
  (if isErr then c.putEq n q' else c.putFq n q').signal p q.put.toNat

/-- A record for an enabled queue: taken into its batch, or dropped and counted where the queue is full (R116). `mk` makes
the 32 bytes from PHASE and the records dropped before. -/
def Chip.pushQueue (c : Chip) (isErr : Bool) (n : Nat) (mk : Nat → Nat → List Byte) : Chip × Bool :=
  let q := if isErr then c.eq n else c.fq n
  if q.used ≥ 2 ^ q.log2 then
    let c := (c.bump ((if isErr then rRNG_EQ_LOST else rRNG_FQ_LOST) + 4 * n) 1).setBit
      ((if isErr then rRNG_EQ_OVF else rRNG_FQ_OVF) + 4 * (n / 32)) (n % 32) true
    let q' := { q with dropped := q.dropped + 1, sig := true }
    let c := if isErr then c.putEq n q' else c.putFq n q'
    (if q.sig then c else c.signal (q.place c n (if isErr then 2 else 1)) q.put.toNat, false)
  else
    let r := mk (phaseOf q.put.toNat q.log2) q.dropped
    let q' := { q with put := q.put + 1, batch := q.batch ++ [r], dropped := 0,
                       batchCyc := if q.batch.isEmpty then c.esc.now else q.batchCyc }
    let c := if isErr then c.putEq n q' else c.putFq n q'
    (if q'.batch.length ≥ 16 then c.flushQueue isErr n else c, true)

/-- Whether a queue may take the records of a context's tenant (R107): CTRL_CTX is a MGMT context or of the tenant. -/
def Queue.admits (q : Queue) (c : Chip) (tenant : Option Nat) : Bool :=
  q.enabled && ((c.ctx q.ctrlCtx).mgmt || (match tenant with
    | some t => (c.ctx q.ctrlCtx).valid && (c.ctx q.ctrlCtx).tenant == t
    | none => false))

/-! ### Fault records (R106, R107) -/

/-- A fault record without its phase; it covers one event unless COUNT says more. -/
structure FaultRec where
  status : Status
  detail : Nat := 0
  ctx : Nat := 0
  ring : Nat := 0
  kind : Nat := 0
  slot : Nat := 0
  tag : Nat := 0
  addr : Nat := 0
  node : Nat := 0
  gen : Nat := 0
  handle : Nat := 0
  count : Nat := 1
  deriving DecidableEq, Repr

/-- The 32 bytes of R106. -/
def FaultRec.bytes (f : FaultRec) (beat phase dropped : Nat) : List Byte :=
  bytesLE 1 f.status.code ++ bytesLE 1 f.detail ++ bytesLE 2 f.ctx ++ bytesLE 2 (f.ring % 4096 + f.kind * 4096)
  ++ bytesLE 2 f.slot ++ bytesLE 4 f.tag ++ bytesLE 8 f.addr ++ bytesLE 4 (f.node % 2 ^ 24 + f.gen * 2 ^ 24)
  ++ bytesLE 4 (f.handle % 2 ^ 18 + min f.count 16383 * 2 ^ 18)
  ++ bytesLE 4 (beat % 65536 + (if dropped > 0 then 2 ^ 30 else 0) + phase * 2 ^ 31)

/-- A fault record to the queue of its context (R107): the package, and whether the record was written. -/
def Chip.fault (c : Chip) (f : FaultRec) : Chip × Bool :=
  let e := c.ctx f.ctx
  let dropped (c : Chip) : Chip := c.event .rng 0 0x04 1 (c.carries f.ctx noTag)
  if !(e.valid && e.faultqValid) then (dropped (c.bump rRNG_FQ_UNROUTED 1), false)
  else if !(c.fq e.faultq).admits c (some e.tenant) then (dropped (c.bump (rRNG_FQ_LOST + 4 * e.faultq) 1), false)
  else match c.pushQueue false e.faultq (f.bytes c.esc.beat.toNat) with
    | (c, true) => (c.event .rng 0 0x03 1 (c.carries f.ctx noTag), true)
    | (c, false) => (dropped c, false)

/-- A coalesced error record (R108, R109): the 32 bytes, and the write to its queue. -/
def Report.bytes (r : Report) (phase lost : Nat) : List Byte :=
  bytesLE 1 r.status.code ++ bytesLE 1 r.cls ++ bytesLE 1 r.blk ++ bytesLE 1 r.inst ++ bytesLE 4 r.count
  ++ bytesLE 8 r.addr ++ bytesLE 4 r.first.toNat ++ bytesLE 4 r.last.toNat ++ bytesLE 2 r.ctx
  ++ bytesLE 2 (r.tenant % 1024 + r.addrKind * 1024 + r.sev * 16384) ++ bytesLE 2 (min lost 65535)
  ++ bytesLE 1 0 ++ bytesLE 1 (phase * 128)

def Chip.writeReport (c : Chip) (r : Report) (attributed : Bool) : Chip :=
  match r.queue with
  | none => c.bump rRNG_EQ_UNROUTED 1
  | some q =>
    let dropped (c : Chip) : Chip := c.event .rng 0 0x04 1 (c.carries r.ctx noTag)
    if (c.eq q).admits c (if attributed then some r.tenant else none) then
      match c.pushQueue true q r.bytes with
      | (c, true) => c
      | (c, false) => dropped c
    else dropped (c.bump (rRNG_EQ_LOST + 4 * q) 1)

def rXLT_FAULTS : Nat := 0x30001C

/-! ### Descriptors and their completions (R99, R111, R113) -/

def Chip.ring (c : Chip) (r : Nat) : RingP := lookD c.rng.rings r {}
def Chip.putRing (c : Chip) (r : Nat) (x : RingP) : Chip := { c with rng := { c.rng with rings := put c.rng.rings r x } }

/-- The slot of an index (R95). -/
def RingP.slotOf (x : RingP) (ix : Word) : Nat := ix.toNat % 2 ^ x.sqLog

/-- The buffers of R113: FLD_0 to FLD_31, SEQ_0 to SEQ_15, EXT, KVE, XLT, COH, SEC, RNG. -/
def bufFld (n : Nat) : Nat := n
def bufSeq (n : Nat) : Nat := 32 + n
def bufExt : Nat := 48
def bufKve : Nat := 49
def bufXlt : Nat := 50
def bufCoh : Nat := 51
def bufSec : Nat := 52
def bufRng : Nat := 53

/-- The fetched descriptors with those completed at the front removed: the index of the oldest that has not completed is
the new SQ_HEAD (R111). -/
def RingP.retire (x : RingP) : RingP :=
  let rest := x.descs.dropWhile (fun f => f.st == .done)
  { x with descs := rest, head := match rest with
      | f :: _ => f.index
      | [] => match x.descs.getLast? with
        | some f => f.index + 1
        | none => x.head }

/-- The ring after one of its descriptors has completed; one that had failed its header check or was aborted reserves its slot now. -/
def RingP.complete (x : RingP) (ix : Word) : RingP :=
  RingP.retire { x with descs := x.descs.map (fun f => if f.index = ix then { f with st := .done } else f) }

/-- A completion posted in a buffer. -/
def Chip.post (c : Chip) (buf : Nat) (x : Cpl) : Chip :=
  { c with rng := { c.rng with bufs := put c.rng.bufs buf (lookD c.rng.bufs buf [] ++ [x]) } }

/-- Completions written and not consumed; whether a slot of the completion ring can be reserved (R97, R112). -/
def RingP.written (x : RingP) : Nat := (x.cqPut - BitVec.ofNat 32 x.batch.length - x.cqHead).toNat
def RingP.room (x : RingP) : Bool := x.written + x.reserved < 2 ^ x.cqLog

/-- The buffer in which a descriptor's completion is posted, where its unit has one and RNG's start of it reserves the entry; SEQ and KVE
reserve theirs themselves (R113). -/
def bufOf (d : Desc) (slot : Nat) : Option Nat :=
  let o := d.opcode
  if o ≤ 3 then some bufRng else if 0x10 ≤ o && o ≤ 0x14 then some bufExt else if o = 0x18 || o = 0x19 then some bufXlt
  else if o = 0x25 then some (bufFld (slot % 32)) else if o = 0x38 || o = 0x39 then some bufCoh
  else if 0x40 ≤ o && o ≤ 0x42 then some bufSec else none

/-- Entries of a buffer: completions posted, and with those the entries reserved by started descriptors. -/
def Chip.posted (c : Chip) (buf : Nat) : Nat := (lookD c.rng.bufs buf []).length
def Chip.bufUsed (c : Chip) (buf : Nat) : Nat :=
  c.posted buf + sumOf (c.rng.rings.map (fun r => countIf (fun (f : Fetched) => f.st == .started
    && bufOf ⟨r.1, f.index, f.raw⟩ (r.2.slotOf f.index) == some buf) r.2.descs))

/-- A descriptor's completion, without what it lets follow: its fault record where one is due, its completion in its unit's buffer unless it
is QUIET and good, and its place on the ring; XLT_FAULTS counts one that completes with TRANSLATION_FAULT (05_host_translation.md R150). `f` is
the fault record's own part. -/
def Chip.finishOne (c : Chip) (buf : Nat) (d : Desc) (st : Status) (detail info : Nat) (f : FaultRec) : Chip :=
  let x := c.ring d.ring
  let slot := x.slotOf d.index
  let c := if st == .translationFault then c.bump rXLT_FAULTS 1 else c
  let (c, posted) := if st.faults then
      c.fault { f with status := st, detail := detail, ctx := d.ctx, ring := d.ring, slot := slot, tag := d.tag }
    else (c, false)
  let c := c.putRing d.ring ((c.ring d.ring).complete d.index)
  if d.quiet && st.good then
    c.putRing d.ring { c.ring d.ring with reserved := (c.ring d.ring).reserved - 1 }
  else
    c.post buf
      { ring := d.ring, index := d.index, status := st, posted := posted, dropped := st.faults && !posted,
        detail := detail, info := info % 2 ^ 24,
        tag := BitVec.ofNat 32 d.tag, irq := d.irq }

/-- The descriptors of a ring that do not execute complete, in order, while a completion slot and an entry of RNG's buffer can be reserved
(R101, R112, R113, R117). -/
def Chip.settleRing (c : Chip) (r : Nat) : Chip :=
  (c.ring r).descs.foldl (fun c f =>
    match f.st with
    | .failed st detail =>
      let x := c.ring r
      if x.room && c.bufUsed bufRng < 64 then
        (c.putRing r { x with reserved := x.reserved + 1 }).finishOne bufRng ⟨r, f.index, f.raw⟩ st detail 0 { status := st }
      else c
    | _ => c) c
def Chip.settleAll (c : Chip) : Chip := c.rng.rings.foldl (fun c e => c.settleRing e.1) c

/-- A descriptor completes (R13, R101, R107, R111 to R113). What it frees, a completion slot of its ring or an entry of RNG's buffer, is at
once taken by descriptors that wait to complete without executing. -/
def Chip.finish (c : Chip) (buf : Nat) (d : Desc) (st : Status) (detail info : Nat) (f : FaultRec) : Chip :=
  let c := c.finishOne buf d st detail info f
  if buf = bufRng then c.settleAll else c.settleRing d.ring

/-- A descriptor refused with a status and detail code, without an operand address. -/
def Chip.refuse (c : Chip) (buf : Nat) (d : Desc) (st : Status) (detail : Nat) : Chip := c.finish buf d st detail 0 { status := st }

/-- A descriptor that completes with OK. -/
def Chip.okay (c : Chip) (buf : Nat) (d : Desc) (info : Nat) : Chip := c.finish buf d .ok 0 info { status := .ok }

/-- The first refusal of a list of checks in order: a condition that fails, its status and detail code. -/
def firstFail (l : List (Bool × Status × Nat)) : Option (Status × Nat) :=
  (l.find? (fun e => e.1)).map (fun e => e.2)

end Sys2Proof.Machine
end

