-- ==== Sys2Proof/Machine/Stored.lean ====
section
/-! DEFINITION. Stored lines: check bits, the stripe code, the line cache, reads and writes of lines and stripes
(11_memory_stacks.md, 12_integrity.md, 15_reset_clocks_power.md R441). -/

namespace Sys2Proof.Machine

/-! ### The field GF(2^8) of R351 -/

/-- Multiplication by g = 0x02, modulo x^8 + x^4 + x^3 + x^2 + 1. -/
def gfDouble (a : Nat) : Nat := if a ≥ 128 then xorN (a * 2 % 256) 0x1D else a * 2

/-- The product, over the 8 bits of `b`, least significant first. -/
def gfMulFrom : Nat → Nat → Nat → Nat
  | 0, _, _ => 0
  | n + 1, a, b => xorN (if b % 2 = 1 then a else 0) (gfMulFrom n (gfDouble a) (b / 2))
def gfMul (a b : Nat) : Nat := gfMulFrom 8 a b

/-- Powers. -/
def gfPow (a : Nat) : Nat → Nat
  | 0 => 1
  | n + 1 => gfMul a (gfPow a n)

/-- The inverse of a nonzero element: its 254th power. -/
def gfInv (a : Nat) : Nat := gfPow a 254
def gfDiv (a b : Nat) : Nat := gfMul a (gfInv b)

/-! ### Places (R324, R325) -/

/-- The stack and location L of line `k` of a stripe: 0 to 7 data, 8 for P, 9 for Q. -/
def placeOf (stripe k : Nat) : Nat × Nat :=
  let s := stripe / 2
  let pos := if k < 8 then (s % 10 + 2 + k) % 10 else (s % 10 + (k - 8)) % 10
  (10 * (stripe % 2) + pos, s)

/-- The stack byte address of a line. -/
def stackAddr (p : Nat × Nat) : Nat := (p.1 * 2 ^ 31 + p.2) * 64

/-- The bank of a location within its stack: pseudo-channel, channel, bank group, bank and SID; and its row. -/
def bankOf (l : Nat) : Nat := l % 64 + l / 1024 % 64 * 64
def rowOf (l : Nat) : Nat := l / 65536
def pcOf (l : Nat) : Nat := l % 64
def bankGroupOf (bank : Nat) : Nat := bank / 64 % 4
def channelOf (l : Nat) : Nat := l / 2 % 32

/-- A location packed as ADDRESS of kind 4 (R366), with the byte of a column. -/
def packPlace (stack l byte : Nat) : Nat :=
  byte + l / 64 % 16 * 2 ^ 6 + l / 65536 * 2 ^ 10 + l / 4096 % 4 * 2 ^ 25 + l / 1024 % 4 * 2 ^ 27
  + l / 16384 % 4 * 2 ^ 29 + l % 2 * 2 ^ 31 + l / 2 % 32 * 2 ^ 32 + stack * 2 ^ 37

/-- A location as INT_CAT_n holds it (R368, R372). -/
def catPlace (stack l : Nat) : Nat :=
  stack + l / 2 % 32 * 2 ^ 5 + l % 2 * 2 ^ 10 + l / 16384 % 4 * 2 ^ 11 + l / 1024 % 4 * 2 ^ 13
  + l / 4096 % 4 * 2 ^ 15 + l / 65536 / 64 * 2 ^ 17

/-! ### Memory -/

/-- A stored byte. -/
def Mem.byte (m : Mem) (a : Nat) : Byte := (look m.cells a).getD 0

/-- Whether a byte's check bit disagrees with it (R350). -/
def Mem.disagrees (m : Mem) (a : Nat) : Bool := m.bad.contains a

/-- A run of stored bytes. -/
def Mem.run (m : Mem) (a n : Nat) : List Byte := (upTo n).map (fun i => m.byte (a + i))

/-- The canonical form: addresses strictly rising and no byte equal to what an unlisted one reads as. -/
def cellsWf : List Host.Cell → Bool
  | [] => true
  | [(_, b)] => b != 0
  | (a, b) :: (a', b') :: r => decide (a < a') && b != 0 && cellsWf ((a', b') :: r)

/-- Addresses strictly rising. -/
def risingWf : List Nat → Bool
  | [] => true
  | [_] => true
  | a :: b :: r => decide (a < b) && risingWf (b :: r)

def Mem.wf (m : Mem) : Bool := cellsWf m.cells && risingWf m.bad

/-- The cells of a run. -/
def cellsOf : Nat → List Byte → List Host.Cell
  | _, [] => []
  | a, b :: r => if b = 0 then cellsOf (a + 1) r else (a, b) :: cellsOf (a + 1) r

/-- The bytes that a masked write leaves at a run. -/
def maskedBytes (old new : List Byte) (mask : List Bool) : List Byte :=
  (upTo old.length).map (fun i => if mask.getD i false then new.getD i 0 else old.getD i 0)

/-- A write with the data mask (R322, R349): the enabled bytes and their check bits. -/
def Mem.write (m : Mem) (a : Nat) (data : List Byte) (mask : List Bool) : Mem :=
  let run := maskedBytes (m.run a data.length) data mask
  { cells := m.cells.filter (fun e => e.1 < a) ++ cellsOf a run
      ++ m.cells.filter (fun e => a + data.length ≤ e.1),
    bad := m.bad.filter (fun x => !(a ≤ x && x < a + data.length && mask.getD (x - a) false)) }

/-- An address put into its place in a rising list. -/
def insertNat (a : Nat) : List Nat → List Nat
  | [] => [a]
  | b :: r => if a < b then a :: b :: r else if a = b then b :: r else b :: insertNat a r

/-- A byte whose check bit is flipped, or whose odd number of flipped bits makes it disagree (R370). -/
def Mem.toggle (m : Mem) (a : Nat) : Mem :=
  if m.bad.contains a then { m with bad := m.bad.filter (· != a) } else { m with bad := insertNat a m.bad }

/-- Every byte enabled. -/
def allOn (n : Nat) : List Bool := List.replicate n true

/-! ### Lines and columns -/

/-- A byte of a line as INT takes it: good, recovered, or lost (R353). -/
inductive ByteSt
  | good | recovered | lost
  deriving DecidableEq, Repr

/-- A stored line with its erasures. -/
structure LineView where
  bytes : List Byte
  erased : List Bool
  deriving DecidableEq, Repr

/-- Whether a stack is FAILED (R358). -/
def Chip.stackFailed (c : Chip) (k : Nat) : Bool := c.bit rINT_STATUS (5 + k)

/-- The FAILED stacks of a group, and the group's state (R358). -/
def Chip.failedIn (c : Chip) (g : Nat) : Nat := countIf (fun k => c.stackFailed (10 * g + k)) (upTo 10)
def Chip.groupState (c : Chip) (g : Nat) : Nat := min (c.failedIn g) 3

/-- A line as its stack returns it: every byte of a FAILED stack erased (R350). -/
def Chip.view (c : Chip) (p : Nat × Nat) : LineView :=
  { bytes := c.mem.run (stackAddr p) 64,
    erased := (upTo 64).map (fun i => c.stackFailed p.1 || c.mem.disagrees (stackAddr p + i)) }

/-- The coefficients of a symbol in the two equations of R351. -/
def coefP (k : Nat) : Nat := if k = 9 then 0 else 1
def coefQ (k : Nat) : Nat := if k = 8 then 0 else if k = 9 then 1 else gfPow 2 k

/-- The syndromes of a column's known symbols: S0 = P + ΣDd and S1 = Q + Σ g^d·Dd (R361). -/
def syndrome (coef : Nat → Nat) (syms : List Nat) : Nat :=
  (upTo 10).foldl (fun a k => xorN a (gfMul (coef k) (syms.getD k 0))) 0

/-- A column decoded by its erasures (R353): its symbols, and how each came. -/
def decodeColumn (syms : List Nat) (erased : List Bool) : List (Nat × ByteSt) :=
  let known := (upTo 10).map (fun k => if erased.getD k false then 0 else syms.getD k 0)
  let s0 := syndrome coefP known
  let s1 := syndrome coefQ known
  match (upTo 10).filter (fun k => erased.getD k false) with
  | [] => syms.map (fun x => (x, .good))
  | [e] =>
    let x := if e = 9 then s1 else s0
    (upTo 10).map (fun k => if k = e then (x, .recovered) else (syms.getD k 0, .good))
  | [e, f] =>
    let det := xorN (gfMul (coefP e) (coefQ f)) (gfMul (coefP f) (coefQ e))
    let x := gfDiv (xorN (gfMul s0 (coefQ f)) (gfMul s1 (coefP f))) det
    let y := gfDiv (xorN (gfMul (coefP e) s1) (gfMul (coefQ e) s0)) det
    (upTo 10).map (fun k => if k = e then (x, .recovered) else if k = f then (y, .recovered) else (syms.getD k 0, .good))
  | _ => (upTo 10).map (fun k => (syms.getD k 0, if erased.getD k false then .lost else .good))

/-- The ten lines of a stripe as their stacks return them. -/
def Chip.stripeViews (c : Chip) (stripe : Nat) : List LineView := (upTo 10).map (fun k => c.view (placeOf stripe k))

/-- The stripe decoded column by column: for each line, its 64 bytes and how each came. -/
def decodeStripe (vs : List LineView) : List (List (Byte × ByteSt)) :=
  let cols := (upTo 64).map (fun b => decodeColumn (vs.map (fun v => (v.bytes.getD b 0).toNat))
    (vs.map (fun v => v.erased.getD b false)))
  (upTo 10).map (fun k => cols.map (fun col =>
    match col[k]? with
    | some (x, s) => (BitVec.ofNat 8 x, s)
    | none => (0, .lost)))

/-- P and Q of the data symbols of every column (R351). -/
def parityP (data : List (List Byte)) : List Byte :=
  (upTo 64).map (fun b => BitVec.ofNat 8 (data.foldl (fun a l => xorN a (l.getD b 0).toNat) 0))
def parityQ (data : List (List Byte)) : List Byte :=
  (upTo 64).map (fun b => BitVec.ofNat 8 ((upTo 8).foldl
    (fun a d => xorN a (gfMul (gfPow 2 d) ((data.getD d []).getD b 0).toNat)) 0))

/-! ### Encryption at the stack boundary (14_security.md R411) -/

/-- Whether a line of a keyed extent may be encrypted or decrypted (R412). -/
def Chip.keyUsable (c : Chip) (slot : Option Nat) : Bool :=
  match slot with
  | some n => c.slotBound n
  | none => true

/-- The stored bytes of a plaintext line under a key, and back; the tweak is the PPA line. -/
def xtsEnc (key : BitVec 512) (line : Nat) (data : List Byte) : List Byte :=
  bytesLE 64 (Config.xts key (BitVec.ofNat 128 line) (BitVec.ofNat 512 (ofBytesLE data))).toNat
def xtsDec (key : BitVec 512) (line : Nat) (data : List Byte) : List Byte :=
  bytesLE 64 ((Config.xts key (BitVec.ofNat 128 line)).symm (BitVec.ofNat 512 (ofBytesLE data))).toNat

/-- The stored bytes of a line of an extent, and back. -/
def Chip.encLine (c : Chip) (slot : Option Nat) (line : Nat) (data : List Byte) : List Byte :=
  match slot with
  | some n => xtsEnc (lookD c.keys n 0) line data
  | none => data
def Chip.decLine (c : Chip) (slot : Option Nat) (line : Nat) (data : List Byte) : List Byte :=
  match slot with
  | some n => xtsDec (lookD c.keys n 0) line data
  | none => data

/-! ### The regulator (R331, R332) -/

/-- The budgets of a port for a beat of `cycles` cycles. -/
def Chip.guarBudget (c : Chip) (p cycles : Nat) : Nat := c.aget (rSTK_REG + 16 * p) 1 7 * 19200 * cycles / 100
def Chip.capBudget (c : Chip) (p cycles : Nat) : Nat := c.aget (rSTK_REG + 16 * p) 8 7 * 19200 * cycles / 100

def Chip.guarLeft (c : Chip) (p : Nat) : Nat := lookD c.reg.guar p 0
def Chip.capLeft (c : Chip) (p : Nat) : Nat := lookD c.reg.cap p 0

/-- A cost charged to a port; port 32 stands for a read that its stripe operation is charged for (R441). -/
def Chip.charge (c : Chip) (p n : Nat) : Chip :=
  if p ≥ 32 then c else ({ c with reg := { guar := put c.reg.guar p (c.guarLeft p - n), cap := put c.reg.cap p (c.capLeft p - n) } }).count
    (40 + p) n

/-! ### The line cache (18_register_map.md R533, R441) -/

/-- The set of a line. -/
def lccSetOf (line : Nat) : Nat := line % 196608

def Chip.lccSet (c : Chip) (line : Nat) : LccSet := lookD c.lcc (lccSetOf line) ⟨0, []⟩

/-- The way that holds a line for a tenant. -/
def LccSet.find (s : LccSet) (line tenant : Nat) : Option (Nat × LccLine) :=
  s.ways.find? (fun e => e.2.line == line && e.2.tenant == tenant)

/-- The pseudo-LRU tree over 2^n ways, node 1 its root: a node's bit names the half that is used less lately (0 the lower).
An access to a way points every node on its path, from `node` down, away from it. -/
def treeTouch : Nat → Nat → Nat → Nat → Nat
  | 0, _, _, t => t
  | n + 1, node, way, t => treeTouch n (2 * node + way / 2 ^ n % 2) way (withBits t node 1 (1 - way / 2 ^ n % 2))

/-- The leaf that the tree chooses below a node: 2^n and the way. -/
def treeLeaf : Nat → Nat → Nat → Nat
  | 0, node, _ => node
  | n + 1, node, t => treeLeaf n (2 * node + bitsOf t node 1) t

/-- The tree over 16 ways. -/
def plruTouch (tree way : Nat) : Nat := treeTouch 4 1 way tree
def plruVictim (tree : Nat) : Nat := treeLeaf 4 1 tree - 16

/-- A set with a line filled: over its own entry, into an invalid way, or over the way the tree chooses (R533). -/
def LccSet.fill (s : LccSet) (x : LccLine) : LccSet :=
  let way := match s.find x.line x.tenant with
    | some (w, _) => w
    | none => (freeKey s.ways 0 16).getD (plruVictim s.tree)
  { tree := plruTouch s.tree way, ways := put s.ways way x }

/-- A lookup: the plaintext line if it hits, counted; the tree is updated on a hit. -/
def Chip.lccLook (c : Chip) (line tenant : Nat) : Option (List Byte) × Chip :=
  let s := c.lccSet line
  match s.find line tenant with
  | some (w, x) =>
    (some x.data, (({ c with lcc := put c.lcc (lccSetOf line) { s with tree := plruTouch s.tree w } }).count 122 1).event
      .lcc 0 0x01 1 none)
  | none => (none, (c.count 123 1).event .lcc 0 0x02 1 none)

/-- A line filled. -/
def Chip.lccFill (c : Chip) (line tenant : Nat) (data : List Byte) : Chip :=
  let s := c.lccSet line
  let c := { c with lcc := put c.lcc (lccSetOf line) (s.fill ⟨line, tenant, data⟩) }
  if (s.find line tenant).isNone && (freeKey s.ways 0 16).isNone then c.event .lcc 0 0x03 1 none else c

/-- The lines that a test finds made invalid; none is written back (R78, R502). -/
def Chip.lccDrop (c : Chip) (p : LccLine → Bool) : Chip :=
  { c with lcc := mapVals c.lcc (fun _ s => { s with ways := delIf s.ways (fun _ x => p x) }) }

/-- The lines now valid (LCC_VALID). -/
def Chip.lccValid (c : Chip) : Nat := sumOf (c.lcc.map (fun e => e.2.ways.length))

/-! ### The correctable-address table (R368) -/

/-- The entry that a new location takes: a free one, or the non-sticky one least recently hit. -/
def catVictim (m : NMap CatE) : Option Nat :=
  match freeKey m 0 64 with
  | some n => some n
  | none => (m.filter (fun e => !e.2.sticky)).foldl (fun best e =>
      match best with
      | none => some e.1
      | some b => if e.2.stamp < (lookD m b e.2).stamp then some e.1 else best) none

/-- A rebuilt or corrected line enters the table. -/
def Chip.catHit (c : Chip) (stack l : Nat) : Chip :=
  let loc := catPlace stack l
  let thr := c.aget rINT_ERRPOL 0 16
  let stamp := c.int.catStamp + 1
  let place (c : Chip) (n : Nat) (x : CatE) : Chip :=
    let sticky := x.sticky || (thr ≤ x.count)
    let c := { c with int := { c.int with cat := put c.int.cat n { x with sticky := sticky }, catStamp := stamp } }
    if sticky && !x.sticky then c.report { cls := .catSticky, blk := .int, addr := packPlace stack l 0 } else c
  match c.int.cat.find? (fun e => e.2.loc == loc) with
  | some (n, x) => place c n { x with count := satAdd 32 x.count 1, last := c.esc.beat, stamp := stamp }
  | none =>
    match catVictim c.int.cat with
    | some n => place c n ⟨loc, 1, c.esc.beat, c.esc.beat, false, stamp⟩
    | none => c.bump rINT_CAT_MISSED 1

/-! ### Rows (R330) -/

def Chip.stkOf (c : Chip) (k : Nat) : Stk := lookD c.stk k {}
def Chip.putStk (c : Chip) (k : Nat) (s : Stk) : Chip := { c with stk := put c.stk k s }

/-- Whether the row of a location is open. -/
def Chip.rowOpen (c : Chip) (p : Nat × Nat) : Bool := look (c.stkOf p.1).rows (bankOf p.2) == some (rowOf p.2)

/-- An access leaves its row open; an ACTIVATE is counted (R330, R341, R463). -/
def Chip.openRow (c : Chip) (p : Nat × Nat) : Chip :=
  let s := c.stkOf p.1
  if c.rowOpen p then
    (c.putStk p.1 { s with predicted := s.predicted.filter (· != bankOf p.2) }).event (.stk p.1) p.1 0x01 1 none
  else (c.putStk p.1 { s with predicted := s.predicted.filter (· != bankOf p.2), rows := put s.rows (bankOf p.2) (rowOf p.2),
                              bg := put s.bg (pcOf p.2) (bankGroupOf (bankOf p.2)), seen := put s.seen (bankOf p.2) c.esc.now,
                              acts := put s.acts (bankOf p.2) (lookD s.acts (bankOf p.2) 0 + 1) }).event
    (.stk p.1) p.1 0x02 1 none

/-- A row opened because a mover's stride predicts it, while its bank is idle (R330). -/
def Chip.predictRow (c : Chip) (p : Nat × Nat) : Chip :=
  let s := c.stkOf p.1
  if (look s.rows (bankOf p.2)).isSome || c.stackFailed p.1 || c.capLeft 25 < 64 then c
  else (c.openRow p).putStk p.1 { (c.openRow p).stkOf p.1 with predicted := s.predicted ++ [bankOf p.2] }

/-- A stored line read from its stack: its bytes counted, its row open. -/
def Chip.touchRead (c : Chip) (p : Nat × Nat) : Chip := (c.openRow p).count p.1 64
def Chip.touchWrite (c : Chip) (p : Nat × Nat) : Chip := (c.openRow p).count (20 + p.1) 64

/-! ### Flips (R370) -/

/-- The armed flip on a line just written (R370): the line's stored bytes or check bits, once; ARM clears, DONE sets, and
INT_FLIP_PPA takes the line's PPA, or the stripe's for P and Q. -/
def Chip.applyFlip (c : Chip) (stripe : Nat) (written : List Nat) : Chip :=
  let pos := c.get rINT_FLIP_CTL 2 4
  if c.bit rINT_FLIP_CTL 0 && written.contains pos then
    let mask := c.get64 rINT_FLIP_MASK
    let base := stackAddr (placeOf stripe pos)
    let m := if c.bit rINT_FLIP_CTL 6 then
        (upTo 64).foldl (fun m i => if bitOf mask i then m.toggle (base + i) else m) c.mem
      else (upTo 8).foldl (fun (m : Mem) i =>
        let a := base + 8 * c.get rINT_FLIP_CTL 7 3 + i
        let x := bitsOf mask (8 * i) 8
        let ones := sumOf ((upTo 8).map (fun j => bitsOf x j 1))
        let was := m.disagrees a
        let m' := m.write a [BitVec.ofNat 8 (xorN (m.byte a).toNat x)] [true]
        if xor was (ones % 2 == 1) then m'.toggle a else m') c.mem
    let c := { c with mem := m }
    let c := (c.setBit rINT_FLIP_CTL 0 false).setBit rINT_FLIP_CTL 1 true
    c.set64 rINT_FLIP_PPA (if pos < 8 then (stripe * 8 + pos) * 64 else stripe * 512)
  else c

/-! ### Reading lines (R350 to R354, R360) -/

/-- Data line `d` of the stripe of a PPA line. -/
def stripeOf (line : Nat) : Nat := line / 8
def linePlace (line : Nat) : Nat × Nat := placeOf (stripeOf line) (line % 8)

/-- Whether a line comes from its stack with no erased byte. -/
def Chip.clean (c : Chip) (line : Nat) : Bool := !(c.view (linePlace line)).erased.any id

/-- The recovered bytes of every line of a decoded stripe written back (R354): lines of FAILED stacks are left out, lost
bytes keep their stored values. -/
def Chip.repair (c : Chip) (stripe : Nat) (dec : List (List (Byte × ByteSt))) (port : Nat) : Chip :=
  (upTo 10).foldl (fun c k =>
    let p := placeOf stripe k
    let l := dec.getD k []
    let mask := l.map (fun x => x.2 == .recovered)
    if mask.any id && !c.stackFailed p.1 then
      let c := c.catHit p.1 p.2
      if c.bit rINT_CTL 1 then
        ((c.setMem (c.mem.write (stackAddr p) (l.map (fun x => x.1)) mask)).touchWrite p).charge port 64
      else c
    else c) c

/-- The lines that a repair rewrites. -/
def Chip.repaired (c : Chip) (stripe : Nat) (dec : List (List (Byte × ByteSt))) : List Nat :=
  if !c.bit rINT_CTL 1 then []
  else (upTo 10).filter (fun k => !c.stackFailed (placeOf stripe k).1 && (dec.getD k []).any (fun x => x.2 == .recovered))

/-- The outcome of a read of one line: its status and plaintext. -/
structure LineOut where
  st : Status
  data : List Byte
  deriving DecidableEq, Repr

/-- The reports of a reconstructed read (R358, R365): READ_CORRECTED where a byte of a live stack was recovered,
DEGRADED_READ where a FAILED stack's line was rebuilt, READ_LOST where a byte is lost, unless the partner is asked (R380). -/
def Chip.readReports (c : Chip) (line : Nat) (t : Target) (lost liveFixed again : Bool) : Chip :=
  let p := linePlace line
  let pla := t.pla + (line * 64 - t.ppa / 64 * 64)
  let rpt (c : Chip) (k : ErrClass) : Chip :=
    c.report { cls := k, blk := .int, addr := pla, ctx := some t.ctx, tenant := t.tenant }
  if lost then (if again then c else rpt c .readLost)
  else
    let c := if c.stackFailed p.1 then c.report { cls := .degradedRead, blk := .int, addr := packPlace p.1 p.2 0 } else c
    if liveFixed then rpt c .readCorrected else c

/-- A line rebuilt from its stripe (R352 to R354): the repair is made whatever the outcome, the corrected line is decrypted
and cached, and a lost line leaves memory as it is (R360). `again` says that the partner is asked for a lost line. -/
def Chip.rebuildLine (c : Chip) (line : Nat) (t : Target) (again : Bool) : Chip × LineOut :=
  let s := stripeOf line
  let vs := c.stripeViews s
  let dec := decodeStripe vs
  let mine := dec.getD (line % 8) []
  let lost := mine.any (fun x => x.2 == .lost)
  let c := (upTo 10).foldl (fun c k =>
    let p := placeOf s k
    if p == linePlace line || c.stackFailed p.1 then c else (c.touchRead p).charge 29 64) c
  let c := c.event .int 0 0x01 1 none
  let liveFixed := (upTo 10).any (fun k => !c.stackFailed (placeOf s k).1 && (dec.getD k []).any (fun x => x.2 == .recovered))
  let c := (c.repair s dec 29).applyFlip s (c.repaired s dec)
  let c := c.readReports line t lost liveFixed again
  if lost then (c, ⟨.dataLost, []⟩)
  else
    let plain := c.decLine t.slot line (mine.map (fun x => x.1))
    (c.lccFill line t.tenant plain, ⟨.okCorrected, plain⟩)

/-- A line read from its stack as it stands: decrypted and cached. -/
def Chip.directLine (c : Chip) (line : Nat) (t : Target) : Chip × LineOut :=
  let plain := c.decLine t.slot line (c.view (linePlace line)).bytes
  (c.lccFill line t.tenant plain, ⟨.ok, plain⟩)

/-- One line of an extent read whole: from the line cache, from its stack, or rebuilt. A keyed line whose slot is not BOUND is
not decrypted (R412). -/
def Chip.readLine (c : Chip) (port line : Nat) (t : Target) : Chip × LineOut :=
  match c.lccLook line t.tenant with
  | (some d, c) => (c, ⟨.ok, d⟩)
  | (none, c) =>
    if !c.keyUsable t.slot then (c, ⟨.keyRetired, []⟩)
    else
      let c := if c.stackFailed (linePlace line).1 then c else (c.touchRead (linePlace line)).charge port 64
      if c.clean line then c.directLine line t else c.rebuildLine line t false

/-- The lines of a byte range. -/
def linesOf (ppa n : Nat) : List Nat :=
  if n = 0 then [] else (upTo ((ppa + n - 1) / 64 - ppa / 64 + 1)).map (fun i => ppa / 64 + i)

/-- A range read whole: the worst outcome, and its bytes where every line was read (R532). -/
def Chip.readRange (c : Chip) (port : Nat) (t : Target) (n : Nat) : Chip × Status × List Byte :=
  let (c, st, bytes) := (linesOf t.ppa n).foldl (fun (acc : Chip × Status × List Byte) line =>
    let (c, o) := acc.1.readLine port line t
    (c, acc.2.1.worse o.st, acc.2.2 ++ o.data)) (c, .ok, [])
  (c, st, if st.good then slice bytes (t.ppa % 64) n else [])

/-! ### Writing stripes (R355 to R358, R370) -/

/-- What a stripe update did: its status, the stacks it wrote, the cost, whether a lost byte stays lost, and the old
value's lines read. -/
structure StripeOut where
  st : Status
  lostLeft : Bool
  deriving DecidableEq, Repr

/-- The eight data lines after an update: the changed bytes over the old ones. -/
def newData (old : List (List Byte)) (chgs : List LineChg) : List (List Byte) :=
  (upTo 8).map (fun d => match chgs.find? (fun x => x.d == d) with
    | some x => maskedBytes (old.getD d []) x.data x.mask
    | none => old.getD d [])

/-- Whether a change covers its whole line. -/
def LineChg.whole (x : LineChg) : Bool := x.mask.all id && x.mask.length == 64 && !x.part

/-- Whether an update changes every byte of every data line. -/
def fullStripe (chgs : List LineChg) : Bool := chgs.length == 8 && chgs.all (fun x => x.whole)

/-- Whether the form of R355 for an update reads line `j` of the stripe. -/
def formReads (state : Nat) (chgs : List LineChg) (j : Nat) : Bool :=
  if fullStripe chgs then false
  else if state = 0 then
    if chgs.length ≤ 2 then j ≥ 8 || chgs.any (fun x => x.d == j)
    else j < 8 && (chgs.all (fun x => x.d != j) || chgs.any (fun x => x.d == j && !x.whole))
  else true

/-- Whether a byte of a line that the form reads is erased: every line is then read (R357). -/
def Chip.formErased (c : Chip) (stripe : Nat) (chgs : List LineChg) : Bool :=
  (upTo 10).any (fun j => formReads (c.groupState (stripe % 2)) chgs j && (c.view (placeOf stripe j)).erased.any id)

/-- Whether an update reads a line. -/
def Chip.stripeReads (c : Chip) (stripe : Nat) (chgs : List LineChg) (j : Nat) : Bool :=
  (formReads (c.groupState (stripe % 2)) chgs j || (c.formErased stripe chgs && !fullStripe chgs)) && !c.stackFailed (placeOf stripe j).1

/-- The lines that an update writes: the changed ones, P and Q, on live stacks. -/
def Chip.stripeWrites (c : Chip) (stripe : Nat) (chgs : List LineChg) : List Nat :=
  (chgs.map (fun (x : LineChg) => x.d) ++ [8, 9]).filter (fun j => !c.stackFailed (placeOf stripe j).1)

/-- What an update costs (R332). -/
def Chip.stripeCost (c : Chip) (stripe : Nat) (chgs : List LineChg) : Nat :=
  64 * (countIf (fun j => c.stripeReads stripe chgs j) (upTo 10) + (c.stripeWrites stripe chgs).length)

/-- A line written to a stack: at once by a unit of the package (log 24), into its write queue for a demand write (R326). -/
def Chip.toStack (c : Chip) (how : Option Qos) (p : Nat × Nat) : Chip :=
  match how with
  | none => c.touchWrite p
  | some q => c.putStk p.1 { c.stkOf p.1 with wq := (c.stkOf p.1).wq ++ [⟨p.2, q, 0⟩] }

/-- A stripe update issued to the stacks (R355, R357): the old lines it reads are decoded by their erasures; with at most
two changed lines of an INTACT group the changes are added into P and Q, otherwise P and Q are computed from all eight data
lines; a lost byte is taken at its stored value and stays lost unless it is overwritten. A LOST group writes nothing. -/
def Chip.updateStripe (c : Chip) (how : Option Qos) (port stripe : Nat) (chgs : List LineChg) : Chip × StripeOut :=
  let state := c.groupState (stripe % 2)
  if state ≥ 3 then (c, ⟨.dataLost, false⟩) else
  let full := fullStripe chgs
  let dec := decodeStripe (c.stripeViews stripe)
  let old := (upTo 8).map (fun d => (dec.getD d []).map (·.1))
  let new := newData old chgs
  let anyErased := c.formErased stripe chgs
  let lostIn := (upTo 10).any (fun j => formReads state chgs j && (dec.getD j []).any (fun x => x.2 == .lost))
  let c := ((upTo 10).filter (fun j => c.stripeReads stripe chgs j)).foldl (fun c j =>
    (c.touchRead (placeOf stripe j)).charge port 64) c
  let c := if anyErased then c.repair stripe dec 29 else c
  let adds := state = 0 && chgs.length ≤ 2 && !lostIn
  let oldP := (dec.getD 8 []).map (·.1)
  let oldQ := (dec.getD 9 []).map (·.1)
  let p := if adds then (upTo 64).map (fun b => BitVec.ofNat 8 ((upTo 8).foldl (fun a d =>
      xorN a (xorN ((old.getD d []).getD b 0).toNat ((new.getD d []).getD b 0).toNat)) (oldP.getD b 0).toNat))
    else parityP new
  let q := if adds then (upTo 64).map (fun b => BitVec.ofNat 8 ((upTo 8).foldl (fun a d =>
      xorN a (gfMul (gfPow 2 d) (xorN ((old.getD d []).getD b 0).toNat ((new.getD d []).getD b 0).toNat)))
        (oldQ.getD b 0).toNat))
    else parityQ new
  let lines : List (Nat × List Byte × List Bool) := chgs.map (fun x => (x.d, x.data, x.mask)) ++ [(8, p, allOn 64), (9, q, allOn 64)]
  let c := lines.foldl (fun c (e : Nat × List Byte × List Bool) =>
    let pl := placeOf stripe e.1
    if c.stackFailed pl.1 then c
    else ((c.setMem (c.mem.write (stackAddr pl) e.2.1 e.2.2)).toStack how pl).charge port 64) c
  let lostLeft := (upTo 8).any (fun d => (upTo 64).any (fun b =>
    (match (dec.getD d [])[b]? with | some (_, .lost) => true | _ => false)
    && !c.stackFailed (placeOf stripe d).1
    && !(chgs.any (fun x => x.d == d && x.mask.getD b false))))
  let c := if !full && lostIn && lostLeft then
      c.report { cls := .writebackLost, blk := .int, addr := stripe * 512 }
    else c
  let c := c.applyFlip stripe (lines.map (·.1) ++ if anyErased then c.repaired stripe dec else [])
  (c, ⟨.ok, !full && lostIn && lostLeft⟩)

/-- An update by a unit of the package. -/
def Chip.writeStripe (c : Chip) (port stripe : Nat) (chgs : List LineChg) : Chip × StripeOut := c.updateStripe none port stripe chgs

/-! ### Ranges of bytes written -/

/-- The bytes a request writes to one line: their values and which of them it enables. -/
structure LineWr where
  line : Nat
  data : List Byte
  mask : List Bool
  deriving DecidableEq, Repr

/-- A byte string from a PPA, cut into lines. `be` enables bytes of the string. -/
def linesWr (ppa : Nat) (data : List Byte) (be : List Bool) : List LineWr :=
  (linesOf ppa data.length).map (fun line =>
    let ix := fun i => line * 64 + i - ppa
    let inside := fun i => ppa ≤ line * 64 + i && line * 64 + i < ppa + data.length
    { line := line, data := (upTo 64).map (fun i => if inside i then data.getD (ix i) 0 else 0),
      mask := (upTo 64).map (fun i => inside i && be.getD (ix i) false) })

/-- A line of a write merged in the line cache (R441): a partial write first fills its line as a read miss does; the merged
line stays cached unless its fill was lost. The answer is the change of the stripe: the whole line of a keyed extent,
the enabled bytes of another (R411). -/
def Chip.mergeLine (c : Chip) (t : Target) (w : LineWr) : Chip × LineChg :=
  let d := w.line % 8
  if w.mask.all id then
    let c := c.lccFill w.line t.tenant w.data
    (c, ⟨d, c.encLine t.slot w.line w.data, allOn 64, false⟩)
  else
    let (c, o) := c.readLine 32 w.line t
    if o.st.good then
      let m := maskedBytes o.data w.data w.mask
      let c := c.lccFill w.line t.tenant m
      match t.slot with
      | some _ => (c, ⟨d, c.encLine t.slot w.line m, allOn 64, true⟩)
      | none => (c, ⟨d, m, w.mask, true⟩)
    else
      let c := c.lccDrop (fun x => x.line == w.line)
      match t.slot with
      | some _ =>
        let plain := c.decLine t.slot w.line ((c.view (linePlace w.line)).bytes)
        (c, ⟨d, c.encLine t.slot w.line (maskedBytes plain w.data w.mask), allOn 64, true⟩)
      | none => (c, ⟨d, w.data, w.mask, true⟩)

/-- The PPA of the first byte that a write enables in a stripe, if there is one. -/
def firstEnabled (ls : List LineWr) (stripe : Nat) : Option Nat :=
  ((ls.filter (fun w => stripeOf w.line == stripe)).flatMap (fun w =>
    (w.mask.zipIdx.filter (fun b => b.1)).map (fun b => w.line * 64 + b.2))).head?

/-- The stripes of a list of lines, in ascending order (R355). -/
def stripesOf (ls : List LineWr) : List Nat := (ls.map (fun w => stripeOf w.line)).dedup

/-- The lines of a write merged, with their stripes' changes in ascending order. -/
def Chip.mergeAll (c : Chip) (t : Target) (ls : List LineWr) : Chip × List (Nat × List LineChg) :=
  (stripesOf ls).foldl (fun (acc : Chip × List (Nat × List LineChg)) s =>
    let (c, chgs) := (ls.filter (fun w => stripeOf w.line == s)).foldl (fun (a : Chip × List LineChg) w =>
      let (c, x) := a.1.mergeLine t w
      (c, a.2 ++ [x])) (acc.1, [])
    (c, acc.2 ++ [(s, chgs)])) (c, [])

end Sys2Proof.Machine
end

