-- ==== Sys2Proof/Machine/Journal.lean ====
section
/-! DEFINITION. The journal and the checkpoint's layout (13_redundancy.md R383 to R387). The region's contents are held as
values, not as bytes of pool memory (log 11). -/

namespace Sys2Proof.Machine

/-- One bit of the CRC-32C register. -/
def crcBit (x : Word) : Word := if x &&& 1 = 1 then (x >>> 1) ^^^ 0x82F63B78 else x >>> 1
def crcByte (x : Word) (b : Byte) : Word :=
  crcBit (crcBit (crcBit (crcBit (crcBit (crcBit (crcBit (crcBit (x ^^^ b.setWidth 32))))))))

/-- CRC-32C (07_operators.md R217). -/
def crc32c (l : List Byte) : Word := (l.foldl crcByte 0xFFFFFFFF) ^^^ 0xFFFFFFFF

/-- An extent entry's bits (R64). -/
def Extent.bits (e : Extent) : Nat :=
  e.plaBase + e.len * 2 ^ 27 + e.ownerCtx * 2 ^ 48 + e.backing * 2 ^ 64
  + (if e.lent then e.lender.toNat * 2 ^ 91 else 0) + e.rights * 2 ^ 128 + e.gen.toNat * 2 ^ 136 + e.keySlot * 2 ^ 144
  + e.keyValid.toNat * 2 ^ 154 + e.red.toNat * 2 ^ 155 + e.coh * 2 ^ 156 + e.tchk * 2 ^ 158 + e.spec.toNat * 2 ^ 160
  + e.st.code * 2 ^ 161 + e.lent.toNat * 2 ^ 164 + e.tenant * 2 ^ 166 + e.pairGroup * 2 ^ 176 + e.lenderCtx * 2 ^ 192

/-- A key slot's metadata (R410). -/
def SlotE.bits (e : SlotE) : Nat := e.st.code + e.tenant * 4 + e.kcv.toNat * 2 ^ 64

def Folio.code (f : Folio) : Nat :=
  match f with
  | .clean => (Config.folioCode none).toNat
  | .tenant t => (Config.folioCode (some t)).toNat

/-- A word of a pair group's entry. -/
def groupWord (g k : Nat) : Nat := rRED_GROUP + 0x20 * g + 4 * k

/-- The 32 bytes of a pair group's entry (R395). -/
def groupBytes (word : Nat → Word) (n : Nat) : List Byte :=
  (upTo 8).flatMap (fun k => bytesLE 4 (word (rRED_GROUP + 0x20 * n + 4 * k)).toNat)

/-- The CRC-16 of R373, bit by bit from the most significant one: polynomial 0x1021, initial value 0xFFFF. -/
def entryCrcBit (x : BitVec 16) : BitVec 16 := if x.msb then (x <<< 1) ^^^ 0x1021 else x <<< 1
def entryCrcByte (x : BitVec 16) (b : Byte) : BitVec 16 :=
  entryCrcBit (entryCrcBit (entryCrcBit (entryCrcBit (entryCrcBit (entryCrcBit (entryCrcBit (entryCrcBit (x ^^^ (b.setWidth 16 <<< 8)))))))))
def entryCrc (l : List Byte) : BitVec 16 := l.foldl entryCrcByte 0xFFFF

/-- The CRC that a copy of a table entry carries: that of the entry's bytes, but for what an upset has left in it. The bytes' order is
little-endian (DEDUCED, log 11). -/
def Copy.crc {α : Type} (bytes : α → List Byte) (k : Copy α) : BitVec 16 := entryCrc (bytes k.val) ^^^ k.err

/-! ### Records (R385) -/

def JEntry.kind : JEntry → Nat
  | .extent _ _ => 1 | .context _ _ => 2 | .slot _ _ => 3 | .folio _ _ _ => 4 | .group _ _ => 5
def JEntry.index : JEntry → Nat
  | .extent h _ => h | .context n _ => n | .slot n _ => n | .folio f _ _ => f | .group n _ => n
def JEntry.count : JEntry → Nat
  | .folio _ n _ => n
  | _ => 1

def JEntry.bytes (e : JEntry) : List Byte :=
  match e with
  | .extent _ x => bytesLE 32 x.bits
  | .context _ x => bytesLE 32 x.bits
  | .slot _ x => bytesLE 32 x.bits
  | .folio _ _ f => bytesLE 32 f.code
  | .group _ ws => ws.flatMap (fun w => bytesLE 4 w.toNat)

/-- The 64 bytes of a record. -/
def JRec.bytes (r : JRec) : List Byte :=
  let head := bytesLE 8 r.jseq.toNat ++ bytesLE 8 r.beat.toNat ++ bytesLE 1 r.entry.kind ++ [0]
    ++ bytesLE 4 r.entry.index ++ bytesLE 4 r.entry.count ++ [0, 0]
  let body := r.entry.bytes
  head ++ bytesLE 4 (crc32c (head ++ body)).toNat ++ body

/-- Whether changes are journalled (R386). -/
def Chip.journalOn (c : Chip) : Bool := c.red.journaling && c.bit rRED_CTL 0 && c.bit rRED_REGION 0

/-- The records since the current header's JSEQ. -/
def Chip.journalFill (c : Chip) : Nat :=
  c.red.jseq.toNat - (match c.red.header with | some h => h.jseq.toNat | none => 0)

/-- Whether the next record would overwrite one at or after the current JSEQ (R387). -/
def Chip.journalFull (c : Chip) : Bool := c.journalOn && c.journalFill ≥ 1048576

/-- A WR to the checkpoint partner (R383). -/
def Chip.ckptWrite (c : Chip) (off : Nat) (data : List Byte) : Chip × Nat :=
  let (t, c) := c.redTxn
  let p := c.get64 rRED_CKPT_PARTNER
  let m : Msg :=
    { cls := clsReq, opcode := 0x02, dest := BitVec.ofNat 24 p, src := c.srcNode, txn := BitVec.ofNat 16 t,
      ctx := BitVec.ofNat 16 (p / 2 ^ 24), addr := BitVec.ofNat 64 (c.get64 0x1100018 % 2 ^ 48 + off),
      len := flitsOf data.length, bytes := BitVec.ofNat 13 data.length, data := data }
  (c.emit (.msg m 0), t)

def Chip.ckptPartner (c : Chip) : Bool := bitOf (c.get64 rRED_CKPT_PARTNER) 40

/-- RED's traffic to the stacks charged to port 30 as its cap allows, the rest at the next boundaries (11_memory_stacks.md R331, R332). -/
def Chip.oweRed (c : Chip) (n : Nat) : Chip :=
  let all := c.red.owed + n
  (c.setRed { c.red with owed := all - c.capLeft 30 }).charge 30 (min all (c.capLeft 30))

/-- A change of a table journalled (R386): one record, charged to port 30 as a stripe write of one line (DEDUCED, log 11), and
its copy sent to the checkpoint partner. -/
def Chip.journal (c : Chip) (e : JEntry) : Chip :=
  if !c.journalOn then c
  else
    let r : JRec := { jseq := c.red.jseq, beat := c.esc.beat, entry := e, stored := false, copied := !c.ckptPartner }
    let c := (c.setRed { c.red with journal := c.red.journal ++ [r], jseq := c.red.jseq + 1 }).oweRed 384
    if c.ckptPartner then
      let (c, t) := c.ckptWrite (0x4000000 + r.jseq.toNat % 2 ^ 20 * 64) r.bytes
      c.setRed { c.red with jtxns := put c.red.jtxns t r.jseq }
    else c

/-- A table entry written in its three copies and journalled. -/
def Chip.writeExt (c : Chip) (h : Nat) (e : Extent) : Chip := (c.putExt h e).journal (.extent h e)
def Chip.writeCtx (c : Chip) (n : Nat) (e : CtxE) : Chip := (c.putCtx n e).journal (.context n e)
def Chip.writeSlot (c : Chip) (n : Nat) (e : SlotE) : Chip := (c.putSlot n e).journal (.slot n e)

/-- A pair group's entry journalled as it stands. -/
def Chip.journalGroup (c : Chip) (n : Nat) : Chip := c.journal (.group n ((upTo 8).map (fun k => c.word (groupWord n k))))

/-- Folio records written and journalled (R66). -/
def Chip.writeFolios (c : Chip) (first count : Nat) (f : Folio) : Chip :=
  (c.setExt { c.ext with folios := (upTo count).foldl (fun m i =>
      if f = c.ext.folioDefault then del m (first + i) else put m (first + i) f) c.ext.folios }).journal (.folio first count f)

/-- Whether a record is still to be acknowledged. -/
def JRec.open' (r : JRec) : Bool := !r.stored || !r.copied

/-- A descriptor completes with OK once the records appended since `before` have been acknowledged (R386); without a record
it completes at once. -/
def Chip.okayJ (before c : Chip) (buf : Nat) (d : Desc) (info : Nat) : Chip :=
  let rs := c.red.journal.filter (fun r => before.red.jseq.toNat ≤ r.jseq.toNat && r.open')
  if rs.isEmpty then c.okay buf d info
  else c.setRed { c.red with jwaits := c.red.jwaits ++ [⟨rs.map (fun r => r.jseq), buf, d, info⟩] }

/-- The waiting descriptors whose records are all acknowledged complete. -/
def Chip.settleJournal (c : Chip) : Chip :=
  let opens := (c.red.journal.filter (fun r => r.open')).map (fun r => r.jseq)
  let ready (w : JWait) : Bool := w.recs.all (fun q => !opens.contains q)
  let done := c.red.jwaits.filter ready
  let c := c.setRed { c.red with jwaits := c.red.jwaits.filter (fun w => !ready w) }
  done.foldl (fun c w => c.okay w.buf w.desc w.info) c

/-- A record acknowledged by the local stacks or by the partner. -/
def Chip.ackJournal (c : Chip) (jseq : Quad) (partner : Bool) : Chip :=
  (c.setRed { c.red with journal := c.red.journal.map (fun r =>
    if r.jseq = jseq then (if partner then { r with copied := true } else { r with stored := true }) else r) }).settleJournal

/-! ### The image and the header (R384) -/

/-- The tables as they stand. -/
def Chip.tables (c : Chip) : CkptImage :=
  { dir := c.handles.map (fun h => (h, c.extent h)), ctxs := (c.ext.ctxs.map (fun e => (e.1, c.ctx e.1))),
    slots := c.slots.map (fun e => (e.1, c.slot e.1)), folios := c.ext.folios, folioDefault := c.ext.folioDefault,
    groups := c.regs.filter (fun e => rRED_GROUP ≤ e.1 && e.1 < rRED_GROUP + 0x20 * 4096) }

/-- The 11,157,504 bytes of an image. -/
def CkptImage.bytes (x : CkptImage) : List Byte :=
  (upTo 262144).flatMap (fun h => bytesLE 32 (lookD x.dir h {}).bits)
  ++ (upTo 65536).flatMap (fun n => bytesLE 16 (lookD x.ctxs n (ctxDefault n)).bits)
  ++ (upTo 1024).flatMap (fun n => bytesLE 16 (lookD x.slots n {}).bits)
  ++ (upTo 786432).flatMap (fun f => bytesLE 2 (lookD x.folios f x.folioDefault).code)
  ++ (upTo 4096).flatMap (fun g => groupBytes (fun o => lookD x.groups o 0) g)

/-- The header of a checkpoint: 64 bytes, then zeros to 4 KiB. -/
def Chip.headerBytes (c : Chip) (h : Header) : List Byte :=
  let head := bytesLE 8 h.seq.toNat ++ bytesLE 8 h.beat.toNat ++ bytesLE 8 h.jseq.toNat
    ++ bytesLE 1 (h.seq.toNat % 2) ++ bytesLE 3 c.node.toNat ++ bytesLE 1 (c.get 0x0 24 2) ++ zeros 3
    ++ bytesLE 4 (crc32c h.image.bytes).toNat ++ zeros 24
  head ++ bytesLE 4 (crc32c head).toNat ++ zeros 4032

/-- Where the image of a checkpoint lies in the region: the images alternate. -/
def imageAt (seq : Quad) : Nat := 0x1000000 * (1 + seq.toNat % 2)

/-- A checkpoint started (R387): the tables as they stand, JSEQ at the start, the image's stripe writes charged to port 30, and its
copy sent to the partner in writes of 4 KiB. From here on every change is journalled (R386). -/
def Chip.startCkpt (c : Chip) : Chip :=
  if c.red.ckpt.isSome || !c.bit rRED_CTL 0 || !c.bit rRED_REGION 0 then c
  else
    let seq := (match c.red.header with | some h => h.seq | none => 0) + 1
    let h : Header := { seq := seq, beat := c.esc.beat, jseq := c.red.jseq, image := c.tables }
    let c := (c.setRed { c.red with ckpt := some h, journaling := true }).oweRed 13946880
    if c.ckptPartner then
      let bytes := h.image.bytes
      (upTo (bytes.length / 4096)).foldl (fun c i =>
        let (c, t) := c.ckptWrite (imageAt seq + 4096 * i) (slice bytes (4096 * i) 4096)
        c.setRed { c.red with ckptTxns := put c.red.ckptTxns t i }) c
    else c

/-- The new header written (R387): it becomes current, and records before its JSEQ are no longer kept. It waits for the image's writes, and while
BEAT_UNLOCKED is 1 or a supply monitor is tripped; a wait is counted once. -/
def Chip.writeHeader (c : Chip) : Chip :=
  match c.red.ckpt with
  | none => c
  | some h =>
    if !c.red.ckptTxns.isEmpty || c.red.owed != 0 then c
    else if c.esc.lock.unlockedFlag || c.get 0x20010 0 3 != 0 then
      if c.red.deferred then c else (c.setRed { c.red with deferred := true }).bump rRED_CKPT_DEFERRED 1
    else
      let c := c.setRed { c.red with header := some h, ckpt := none, deferred := false,
                                     journal := c.red.journal.filter (fun r => h.jseq.toNat ≤ r.jseq.toNat || r.open') }
      let c := ((c.setBit rRED_STATUS 1 true).set64 0x1100040 h.beat.toNat).oweRed 5120
      if c.ckptPartner then (c.ckptWrite (0x1000 * (h.seq.toNat % 2)) (c.headerBytes h)).1 else c

end Sys2Proof.Machine
end

