-- ==== Sys2Proof/Machine/Check.lean ====
section
/-! DEFINITION. The order of checks (03_extents.md): look-aside buffers, the directory walk, R72, the interleave function,
in-flight counters. -/

namespace Sys2Proof.Machine

/-! ### The interleave function (R85, R86) -/

/-- Addition per coordinate field, modulo 64 (R12). -/
def coordAdd (a b : NodeId) (k : Nat) : NodeId :=
  let f := fun i => (bitsOf a.toNat (6 * i) 6 + k * bitsOf b.toNat (6 * i) 6) % 64
  BitVec.ofNat 24 (f 0 + f 1 * 2 ^ 6 + f 2 * 2 ^ 12 + f 3 * 2 ^ 18)

/-- The levels in use, and the fields of a level, from the active copies. -/
def Chip.ilvLevels (c : Chip) : Nat := c.aget 0x100080 0 5
def Chip.ilvMembers (c : Chip) (n : Nat) : Nat := c.aget (0x100100 + 16 * n) 0 8 + 1
def Chip.ilvGrain (c : Chip) (n : Nat) : Nat := c.aget (0x100100 + 16 * n) 8 4
def Chip.ilvCoord (c : Chip) (n : Nat) : NodeId := BitVec.ofNat 24 (c.aget (0x100104 + 16 * n) 0 24)
def Chip.ilvBase (c : Chip) (n : Nat) : NodeId := BitVec.ofNat 24 (c.aget (0x100108 + 16 * n) 0 24)
def Chip.ilvStride (c : Chip) (n : Nat) : NodeId := BitVec.ofNat 24 (c.aget (0x10010C + 16 * n) 0 24)

/-- The procedure of R85 over `n` levels from level `k`: the folio and the coordinate. -/
def Chip.ilvWalk (c : Chip) : Nat → Nat → Nat → NodeId → Nat × NodeId
  | 0, _, f, o => (f, o)
  | n + 1, k, f, o =>
    let g := c.ilvGrain k
    let u := f / 2 ^ g
    let m := u % c.ilvMembers k
    c.ilvWalk n (k + 1) (u / c.ilvMembers k * 2 ^ g + f % 2 ^ g) (coordAdd o (c.ilvStride k) m)

/-- Where a request goes (R86). -/
inductive Owner
  | here (pla : Nat)
  | other (node : NodeId)
  | unknown
  deriving DecidableEq, Repr

/-- Whether a node is the package itself (R390: the alias counts as its own). -/
def Chip.isSelf (c : Chip) (n : NodeId) : Bool := n == c.node || c.alias? == some n

/-- The owner of an address in the PLA space of a coordinate. -/
def Chip.owner (c : Chip) (coord : NodeId) (pla : Nat) : Owner :=
  match (upTo c.ilvLevels).find? (fun k => c.ilvCoord k == coord) with
  | some k =>
    let (f, o) := c.ilvWalk (c.ilvLevels - k) k (pla / 2 ^ 21) (c.ilvBase k)
    if c.isSelf o then .here (f * 2 ^ 21 + pla % 2 ^ 21) else .other o
  | none => if c.isSelf coord then .here pla else .unknown

/-! ### Look-aside buffers and the walk (R67, R68) -/

/-- The ELBs: 24 links, then PCIe, movers, sequencers, KVE and INT (R15). -/
def elbLink (n : Nat) : Nat := n
def elbPci : Nat := 24
def elbMov : Nat := 25
def elbSeq : Nat := 26
def elbKve : Nat := 27
def elbInt : Nat := 28

/-- Whether an extent covers a folio. -/
def Extent.covers (e : Extent) (folio : Nat) : Bool := e.st != .free && e.plaBase ≤ folio && folio < e.plaBase + e.len

/-- The range index: the handle whose non-FREE entry covers a PLA (R66: at most one does). -/
def Chip.handleAt (c : Chip) (pla : Nat) : Option Nat :=
  c.handles.find? (fun h => (c.extent h).covers (pla / 2 ^ 21))

/-- The handle of the extent that a refused operand of a context was found in, 0 before step 4 of R72: an extent of another tenant, or one
that the span leaves, is not found (R106). -/
def Chip.foundHandle (c : Chip) (ctx : Nat) (st : Status) (pla : Nat) : Nat :=
  match c.handleAt pla with
  | none => 0
  | some h =>
    if st == .contextFault || (c.extent h).tenant != (c.ctx ctx).tenant || (st == .extentFault && (c.extent h).st != .scrubbing) then 0 else h

/-- The fault record of an operand: the generation carried, and the handle (R106). -/
def Chip.operandFault (c : Chip) (ctx : Nat) (st : Status) (pla gen : Nat) : FaultRec :=
  { status := st, addr := pla, gen := gen, handle := c.foundHandle ctx st pla }

def Chip.elbSet (c : Chip) (n : Nat) : ElbSet := lookD c.ext.elbs n ⟨0, []⟩
def Chip.putElb (c : Chip) (n : Nat) (s : ElbSet) : Chip := c.setExt { c.ext with elbs := put c.ext.elbs n s }

/-- The entries of an ELB. -/
def Chip.elb (c : Chip) (n : Nat) : List ElbE := (c.elbSet n).ways.map (fun e => e.2)

/-- The way that holds an entry. -/
def ElbSet.find (s : ElbSet) (p : ElbE → Bool) : Option (Nat × ElbE) := s.ways.find? (fun e => p e.2)

/-- An entry written to a way, which the tree then points away from. -/
def ElbSet.use (s : ElbSet) (way : Nat) (x : ElbE) : ElbSet := { tree := treeTouch 9 1 way s.tree, ways := put s.ways way x }

/-- An entry filled: over the pair's own entry, into an invalid way, or over the way that the tree over the 512 ways chooses (R68; DESIGN
CHOICE, log 40: the tree is that of the line cache). -/
def ElbSet.fill (s : ElbSet) (x : ElbE) : ElbSet :=
  s.use (match s.find (fun y => y.ctx == x.ctx && y.handle == x.handle) with
    | some (w, _) => w
    | none => (freeKey s.ways 0 512).getD (treeLeaf 9 1 s.tree - 512)) x

/-- Every ELB entry that a test finds invalidated (R68). -/
def Chip.dropElb (c : Chip) (p : ElbE → Bool) : Chip :=
  c.setExt { c.ext with elbs := mapVals c.ext.elbs (fun _ s => { s with ways := delIf s.ways (fun _ x => p x) }) }

/-- What a lookup finds: an entry, nothing, or an entry whose vote has no majority (R375). -/
inductive Found
  | entry (x : ElbE)
  | nothing
  | noMajority (h : Nat)
  deriving DecidableEq, Repr

/-- A directory walk (R67, R373 to R375): the entries it reads are voted, and the pair found fills the ELB. -/
def Chip.walk (c : Chip) (elb ctx pla : Nat) : Chip × Found :=
  let c := (c.count 124 1).event .ext 0 0x02 1 (c.carries ctx noTag)
  let c := c.voteCtx ctx
  match (c.ctxTri ctx).vote.1 with
  | none => (c, .noMajority ctx)
  | some ce =>
    match c.handleAt pla with
    | none => (c, .nothing)
    | some h =>
      let c := c.voteExt h
      match c.extent? h with
      | none => (c, .noMajority h)
      | some e =>
        let x : ElbE := { ctx := ctx, handle := h, c := ce, e := e }
        if ce.valid then (c.putElb elb ((c.elbSet elb).fill x), .entry x) else (c, .entry x)

/-- A lookup in an ELB; a miss walks. The last part says whether it missed. -/
def Chip.lookup (c : Chip) (elb ctx pla : Nat) : Chip × Found × Bool :=
  match (c.elbSet elb).find (fun x => x.ctx == ctx && x.e.covers (pla / 2 ^ 21)) with
  | some (way, x) =>
    let c := c.event .ext 0 0x01 1 (c.carries ctx noTag)
    (c.putElb elb ((c.elbSet elb).use way x), .entry x, false)
  | none =>
    let (c, f) := c.walk elb ctx pla
    (c, f, true)

/-! ### The order of checks (R72, R73) -/

/-- Where a request comes from: a PCIe function, a fabric node, or an internal unit, whose source RNG has checked. -/
inductive Src
  | pcie (fn : Nat)
  | fabric (n : NodeId)
  | internal
  deriving DecidableEq, Repr

/-- Rights (R64): bit 0 READ, 1 WRITE, 2 FOLD, 3 OPERATE, 4 MAP_COH. -/
def rRead : Nat := 1
def rWrite : Nat := 2
def rFold : Nat := 4
def rOperate : Nat := 8
def rMapCoh : Nat := 16

/-- A request as EXT checks it: `need` its rights (R73), `write` whether it writes, `coh` whether it is coherent. -/
structure Req where
  ctx : Nat
  src : Src
  pla : Nat
  bytes : Nat
  gen : Option Nat
  need : Nat
  write : Bool
  coh : Bool
  deriving DecidableEq, Repr

/-- Step 2: whether a source matches a context. -/
def CtxE.from (x : CtxE) (s : Src) : Bool :=
  match s with
  | .pcie fn => x.srcPcie && x.func == fn
  | .fabric n => !x.srcPcie && (n &&& x.srcMask) == (x.srcNode &&& x.srcMask)
  | .internal => true

/-- The first step of R72 that fails, with its status. `sealed` says whether the key slot is BOUND. -/
def stepFailed (r : Req) (x : CtxE) (e : Option Extent) (bound : Bool) : Option (Nat × Status) :=
  if !x.valid then some (1, .contextFault)
  else if !x.from r.src then some (2, .contextFault)
  else match e with
    | none => some (3, .extentFault)
    | some e =>
      if e.tenant != x.tenant || !(e.covers ((r.pla + (r.bytes - 1)) / 2 ^ 21)) then some (3, .extentFault)
      else if e.st == .scrubbing then some (4, .extentFault)
      else if e.st == .draining || (match r.gen with | some g => g != e.gen.toNat | none => false) then
        some (5, .extentRevoked)
      else if e.st == .held then some (6, .extentHeld)
      else if Nat.land (Nat.land e.rights x.rights) r.need != r.need || (r.write && e.coh == 2) || (r.coh && e.coh == 0) then
        some (7, .rightsFault)
      else if e.keyValid && !bound then some (8, .keyRetired)
      else none

/-- The outcome of the check: admitted under an entry, refused at a step, or refused for a while (BUSY_RETRY). -/
inductive Verdict
  | granted (x : ElbE)
  | refuse (step : Nat) (st : Status) (handle : Nat)
  | retry
  deriving DecidableEq, Repr

/-- Whether EXT admits requests at all (R88). -/
def Chip.extOpen (c : Chip) : Bool := c.bit rEXT_CTL 0 && c.bit rEXT_STATUS 0

/-- The check of a request at an ELB: the package, the verdict, and whether the ELB missed. -/
def Chip.check (c : Chip) (elb : Nat) (r : Req) : Chip × Verdict × Bool :=
  if !c.extOpen then (c, .retry, false) else
  let refused (c : Chip) : Chip := c.event .ext 0 0x03 1 (c.carries r.ctx noTag)
  let (c, f, miss) := c.lookup elb r.ctx r.pla
  match f with
  | .noMajority _ => (c, .retry, miss)
  | .nothing =>
    match stepFailed r (c.ctx r.ctx) none false with
    | some (n, st) => (refused c, .refuse n st 0, miss)
    | none => (refused c, .refuse 3 .extentFault 0, miss)
  | .entry x =>
    match stepFailed r x.c (some x.e) (!x.e.keyValid || c.slotBound x.e.keySlot) with
    | some (n, st) => (refused c, .refuse n st (if n > 3 then x.handle else 0), miss)
    | none => (c, .granted x, miss)

/-- Whether a request is STRICT (R83). -/
def Chip.strict (c : Chip) (x : ElbE) : Bool := x.c.strict || x.e.spec || c.bit rEXT_CTL 1

/-! ### In-flight counters (R76) -/

def Chip.inflight (c : Chip) (h : Nat) : Nat := lookD c.ext.inflight h 0

/-- A request to the extent admitted, or finished with its backing. -/
def Chip.addInflight (c : Chip) (h : Nat) : Chip := c.setExt { c.ext with inflight := put c.ext.inflight h (c.inflight h + 1) }
def Chip.subInflight (c : Chip) (h n : Nat) : Chip :=
  c.setExt { c.ext with inflight := if c.inflight h ≤ n then del c.ext.inflight h else put c.ext.inflight h (c.inflight h - n) }

/-! ### The place of an admitted request (R58, R82) -/

/-- The PPA of a local PLA in an extent backed by the package, or the lender's PLA. -/
def Extent.place (e : Extent) (pla : Nat) : Nat := e.backing * 2 ^ 21 + (pla - e.plaBase * 2 ^ 21)

def ElbE.target (x : ElbE) (pla : Nat) : Target :=
  { handle := x.handle, tenant := x.e.tenant, ctx := x.ctx, slot := if x.e.keyValid then some x.e.keySlot else none,
    pair := if x.e.red then some x.e.pairGroup else none, pla := pla, ppa := x.e.place pla, tchk := x.e.tchk }

/-! ### Speculative reads (01_architecture.md R34 to R36; R83) -/

/-- The lines that a read takes from the stacks during a directory walk: none where its context, the package or the first directory
copy to arrive (the logic-die copy; DEDUCED, log 24) is STRICT, or that copy names a lender. -/
def Chip.specLines (c : Chip) (r : Req) : Option (List Nat) :=
  match c.handleAt r.pla with
  | none => none
  | some h =>
    let e := (c.extTri h).a.val
    if e.spec || e.lent || (c.ctx r.ctx).strict || c.bit rEXT_CTL 1 then none
    else some ((linesOf (e.place r.pla) r.bytes).filter (fun l =>
      ((c.lccSet l).find l e.tenant).isNone && !c.stackFailed (linePlace l).1))

/-- The check of a read: the package, the verdict, whether the ELB missed, and whether no read ran during the walk. Lines that were read and
whose data is not used, because the check failed or the voted entry is STRICT, are charged to the port (R34, R83). -/
def Chip.checkRead (c : Chip) (elb port : Nat) (r : Req) : Chip × Verdict × Bool × Bool :=
  let spec := c.specLines r
  let (c, v, miss) := c.check elb r
  let used := match v with
    | .granted x => !c.strict x
    | _ => false
  let c := if miss && !used then c.charge port (64 * (spec.getD []).length) else c
  (c, v, miss, match v with
    | .granted x => c.strict x || spec.isNone
    | _ => true)

/-- The fault record of a refused request (R107): kind 1 for the fabric, 2 for BAR 4. -/
def Chip.faultRequest (c : Chip) (r : Req) (kind addr node : Nat) (step : Nat) (st : Status) (h : Nat) : Chip :=
  (c.fault { status := st, detail := step, ctx := r.ctx, kind := kind, addr := addr, node := node, gen := r.gen.getD 0,
             handle := h, count := 1 }).1

end Sys2Proof.Machine
end

