-- ==== Sys2Proof/Machine/Routes.lean ====
section
/-! DEFINITION. The states of the links, and the router's choice of ports: productive ports, escape ports, whether a node can be reached
(10_fabric.md R296, R304 to R307). -/

namespace Sys2Proof.Machine

/-! ### Registers and state of a link (R296, R320) -/

def lnkReg (n off : Nat) : Nat := 0x800000 + 0x10000 * n + off
def Chip.link (c : Chip) (n : Nat) : Link := lookD c.links n {}
def Chip.putLink (c : Chip) (n : Nat) (l : Link) : Chip := { c with links := put c.links n l }
def Chip.lnkState (c : Chip) (n : Nat) : Nat := c.get (lnkReg n 4) 0 4
def Chip.setLnkState (c : Chip) (n s : Nat) : Chip := c.set (lnkReg n 4) 0 4 s

def lsDisabled : Nat := 0
def lsDark : Nat := 1
def lsLock : Nat := 2
def lsParam : Nat := 3
def lsKey : Nat := 4
def lsDelay : Nat := 5
def lsActive : Nat := 6
def lsRetrain : Nat := 7
def lsDown : Nat := 8

/-- The ACTIVE links. -/
def Chip.activeLinks (c : Chip) : List Nat := (upTo 24).filter (fun n => c.lnkState n = lsActive)

/-! ### Fields of a header that a router reads (R286, R291, R294) -/

/-- A field of a flit, big-endian: `n` bytes from byte `i` on; byte 0 is the most significant. -/
def flitField (x : Flit) (i n : Nat) : Nat := bitsOf x.toNat (8 * (64 - i - n)) (8 * n)

/-- A byte of a flit. -/
def flitByte (x : Flit) (i : Nat) : Nat := flitField x i 1

def headCls (h : Flit) : Nat := flitByte h 0 / 64
def headChan (h : Flit) : Nat := flitByte h 0 / 16 % 4
def headDest (h : Flit) : NodeId := BitVec.ofNat 24 (flitField h 2 3)
def headLen (h : Flit) : Nat := flitByte h 24 % 128
def headVc (h : Flit) : Nat := 3 * headCls h + headChan h

/-! ### Routing (R304 to R307) -/

/-- Coordinate `d` of a node: 0 for x up to 3 for w (R12). -/
def coordOf (n : NodeId) (d : Nat) : Nat := bitsOf n.toNat (6 * d) 6

/-- Whether a message is delivered to the package's own ingress (R304, R390). -/
def Chip.isOwnDest (c : Chip) (n : NodeId) : Bool := c.isSelf n || (upTo c.ilvLevels).any (fun k => c.ilvCoord k == n)

/-- The node that a destination is routed toward. -/
def Chip.targetOf (c : Chip) (dest : NodeId) : NodeId :=
  match (upTo 1024).find? (fun k => c.aget (0xA02004 + 8 * k) 31 1 == 1 && c.aget (0xA02000 + 8 * k) 0 24 == dest.toNat) with
  | some k => BitVec.ofNat 24 (c.aget (0xA02000 + 8 * k) 24 8 + c.aget (0xA02004 + 8 * k) 0 16 * 256)
  | none => dest

def dimReg (d v : Nat) : Nat := 0xA01000 + 0x100 * d + 4 * v
def portReg (p : Nat) : Nat := 0xA00100 + 4 * p

/-- Whether a port may carry messages. -/
def Chip.portUp (c : Chip) (p : Nat) : Bool := p < 24 && c.lnkState p = lsActive && c.aget (portReg p) 3 1 = 0

/-- The dimensions in which the package differs from a target, lowest first. -/
def Chip.dimsTo (c : Chip) (t : NodeId) : List Nat := (upTo 4).filter (fun d => coordOf c.node d != coordOf t d)

/-- The productive ports (R305). -/
def Chip.productive (c : Chip) (t : NodeId) : List Nat :=
  (upTo 24).filter (fun p => c.portUp p && (c.dimsTo t).any (fun d => bitOf (c.aget (dimReg d (coordOf t d)) 0 24) p))

/-- The escape port and its channel (R307): `inp` and `chan` say where the message came from. -/
def Chip.escape (c : Chip) (t : NodeId) (inp chan : Nat) : Option (Nat × Nat) :=
  match c.dimsTo t with
  | [] => none
  | d :: _ =>
    let e := dimReg d (coordOf t d)
    let p := c.aget e 24 5
    if c.aget e 29 1 = 1 && c.portUp p then
      some (p, if c.aget (portReg p) 2 1 = 1 || (chan = 2 && c.aget (portReg inp) 0 2 = d) then 2 else 1)
    else none

/-- The port of the router by which the package's own messages enter it. -/
def ownPort : Nat := 24

/-- Whether the package has a route to a node: it is the package itself, or a productive or an escape port leads toward it (R276, R304). -/
def Chip.hasRoute (c : Chip) (n : NodeId) : Bool :=
  c.isOwnDest n || !(c.productive (c.targetOf n)).isEmpty || (c.escape (c.targetOf n) ownPort 0).isSome

/-- Whether the router holds no transit message: one for the package itself, whole or in reception, is none (R321). -/
def Chip.noTransit (c : Chip) : Bool :=
  c.links.all (fun e => (e.2.part.all (fun p => c.isOwnDest (headDest p.head)))
    && e.2.vcs.all (fun v => v.2.all (fun m => c.isOwnDest (headDest m.head))))

end Sys2Proof.Machine
end

