-- ==== Sys2Proof/Machine/Views.lean ====
section
/-! DEFINITION. What a read of a register returns where the register shows state that has a home of its own, and who reaches
which window (18_register_map.md R493 to R496). -/

namespace Sys2Proof.Machine

/-- GLB_BEAT_STATUS.OFFSET_NS: the last offset, signed, saturating at −128 and +127 (R53). -/
def offsetByte (x : Int) : Nat := (max (-128) (min 127 x) % 256).toNat

/-- Whether a block is out of reset: its tables are cleared and it is usable (its READY). -/
def Chip.up (c : Chip) (b : Blk) : Bool := !c.held.contains b

/-- Movers that run a tile. -/
def Chip.movBusy (c : Chip) : Nat := countIf (fun (u : Nat × EngUnit) => 32 ≤ u.1 && u.2.run.isSome) c.eng.units

/-- PWR_STATE.STATE (15_reset_clocks_power.md R452, R453): QUIESCE once every unit has been found idle. -/
def Chip.pwrState (c : Chip) : Nat :=
  if c.pwr.retain then 3 else if c.quiesced && c.pwr.reached then 2 else if c.pwr.idle then 1 else 0

/-- The state codes of R259. -/
def AgSt.code : AgSt → Nat
  | .free => 0 | .joined => 1 | .leaving => 2 | .lost => 3

/-- The resets of the last second (R439). -/
def Chip.recentResets (c : Chip) : List Nat := c.rcu.resets.filter (fun t => c.esc.now < t + 1250000000)

/-- The fields of a word that state outside the register file gives: place, width, value. -/
def Chip.viewFields (c : Chip) (off : Nat) : List (Nat × Nat × Nat) :=
  if off = 0x104 then
    [(8, 8, offsetByte c.esc.offset), (4, 1, c.esc.ahead.toNat), (3, 1, c.esc.lock.unlockedFlag.toNat), (0, 3, c.esc.lock.code)]
  else if off = 0x108 then [(0, 24, c.esc.master.toNat)]
  else if off = 0x110 then [(0, 32, c.esc.beat.toNat)]
  else if off = 0x114 then [(0, 32, c.esc.beat.toNat / 2 ^ 32)]
  else if off = 0x204 then
    [(28, 4, c.com.stTicket), (16, 8, c.com.detail), (8, 8, c.com.reason), (3, 5, c.com.group), (0, 2, c.com.stState)]
  else if off = 0x208 then [(0, 32, c.com.pend.foldl (fun a p => Nat.lor a p.mask) 0)]
  else if off = 0x218 then [(0, 32, c.com.doneBeat.toNat)]
  else if off = 0x21C then [(0, 32, c.com.doneBeat.toNat / 2 ^ 32)]
  else if off = 0x14 then [(2, 1, c.card.toNat)]
  else if off = 0x10010 then [(8, 4, min c.recentResets.length 15)]
  else if off = 0x20000 then [(0, 3, c.pwrState)]
  else if off = 0x100008 then [(0, 19, c.usedHandles.length)]
  else if off = rRNG_STATUS then [(0, 1, (c.up .rng).toNat), (16, 13, (c.rng.rings.filter (fun r => r.2.st != .disabled)).length)]
  else if off = rRNG_RING0_CFG then [(0, 1, ((c.ring 0).st == .active || (c.ring 0).st == .stopped).toNat)]
  else if off = rRNG_FQ0_CFG then [(0, 1, (c.fq 0).enabled.toNat)]
  else if off = rRNG_EQ0_CFG then [(0, 1, (c.eq 0).enabled.toNat)]
  else if off = 0x300004 then [(0, 1, (c.up .xlt).toNat), (4, 5, c.xlt.walks.length)]
  else if off = 0x300008 then [(0, 13, c.xlt.domains.length)]
  else if off = 0x380004 then [(0, 1, (c.up .mov && c.movBusy = 0).toNat), (1, 6, c.movBusy)]
  else if off = 0x400004 then [(0, 1, (c.up .fld).toNat), (1, 13, countIf (fun (r : Nat × Region) => r.2.st == .armed) c.eng.regions)]
  else if off = 0x400008 then [(0, 16, 32768 - c.eng.pages)]
  else if off = 0x500004 then [(0, 1, (c.up .seq).toNat), (1, 9, countIf (fun (o : Nat × Op) => o.2.seqn != 16) c.eng.ops)]
  else if off = 0x500008 then [(0, 32, if c.up .seq then c.sec.seqVersion.toNat else 0)]
  else if off = 0x700004 then
    [(0, 1, (c.up .coh && c.coh.rel.isEmpty).toNat), (1, 7, countIf (fun (a : Nat × Agent) => a.2.st != .free) c.coh.agents)]
  else if 0x701000 ≤ off && off < 0x701200 then
    let a := lookD c.coh.agents ((off - 0x701000) / 8) {}
    if off % 8 = 0 then [(0, 24, a.node.toNat), (24, 2, a.st.code)] else [(0, 4, a.setsLog2), (4, 7, a.ways), (11, 10, a.tenant)]
  else if off = rRTE_STATUS then
    [(0, 1, (c.up .rte).toNat), (3, 1, c.noTransit.toNat)]
  else if off = 0xB00004 then [(0, 1, (c.up .lcc).toNat)]
  else if off = 0xB00008 then [(0, 22, c.lccValid)]
  else if off = rRED_STATUS then [(4, 1, (!c.red.rebuilding.isEmpty).toNat)]
  else if off = 0x1100048 then
    [(0, 21, c.red.jseq.toNat - (match c.red.header with | some h => h.jseq.toNat | none => 0))]
  else if off = 0x1100060 then [(0, 20, sumOf (c.red.rebuilding.map (fun e => (c.extent e.1).backing + (c.extent e.1).len - e.2 / 4096)))]
  else if 0x1310000 ≤ off && off < 0x1320000 then
    let i := c.get 0x1300108 0 6 * 65536 + (off - 0x1310000)
    [(0, 32, if c.bit 0x50000 0 || c.bit 0x50000 1 then ofBytesLE (slice (lookD c.dbg.buf (i / 32) (zeros 32)) (i % 32) 4) else 0)]
  else if 0x1001000 ≤ off && off < 0x1001400 then
    match look c.int.cat ((off - 0x1001000) / 16) with
    | none => [(0, 32, 0)]
    | some x =>
      match (off - 0x1001000) % 16 with
      | 0 => [(0, 26, x.loc), (30, 1, x.sticky.toNat), (31, 1, 1)]
      | 4 => [(0, 32, x.count)]
      | 8 => [(0, 32, x.first.toNat)]
      | _ => [(0, 32, x.last.toNat)]
  else if 0x31000 ≤ off && off < 0x32000 then
    [(0, 2, (c.slot ((off - 0x31000) / 4)).st.code), (2, 10, (c.slot ((off - 0x31000) / 4)).tenant)]
  else if 0x1200000 ≤ off && off < 0x1200C80 then
    [(0, 32, (lookD c.dbg.cnt ((off - 0x1200000) / 8) 0).toNat / (if off % 8 = 4 then 2 ^ 32 else 1))]
  else if 0x1210000 ≤ off && off < 0x1210C80 then
    [(0, 32, (lookD c.dbg.snap ((off - 0x1210000) / 8) 0).toNat / (if off % 8 = 4 then 2 ^ 32 else 1))]
  else if off = 0x120D008 then [(0, 32, c.dbg.snapBeat.toNat)]
  else if off = 0x120D00C then [(0, 32, c.dbg.snapBeat.toNat / 2 ^ 32)]
  else if 0x1490000 ≤ off && off < 0x1490200 then
    [(0, 32, sumOf ((c.pci.pba.filter (fun e => e.1 == 0 && e.2 / 32 == (off - 0x1490000) / 4)).map (fun e => 2 ^ (e.2 % 32))))]
  else []

/-- The window of an offset (R493). -/
def blkAt (off : Nat) : Option Blk :=
  if off < 0x10000 then some .glb else if off < 0x20000 then some .rcu else if off < 0x30000 then some .pwr
  else if off < 0x40000 then some .sec else if off < 0x50000 then some .mgt else if off < 0x60000 then some .dbg
  else if off < 0x100000 then none else if off < 0x200000 then some .ext else if off < 0x300000 then some .rng
  else if off < 0x380000 then some .xlt else if off < 0x400000 then some .mov else if off < 0x500000 then some .fld
  else if off < 0x600000 then some .seq else if off < 0x700000 then some .kve else if off < 0x800000 then some .coh
  else if off < 0x980000 then some (.lnk ((off - 0x800000) / 0x10000)) else if off < 0xA00000 then none
  else if off < 0xB00000 then some .rte else if off < 0xC00000 then some .lcc
  else if off < 0xE80000 then some (.stk ((off - 0xC00000) / 0x20000)) else if off < 0x1000000 then none
  else if off < 0x1100000 then some .int else if off < 0x1200000 then some .red else if off < 0x1400000 then some .dbg
  else if off < 0x1500000 then some .pci else none

/-- The debug level: 0 LOCKED, 1 NONINVASIVE, 2 INVASIVE (16_observation.md R461). -/
def Chip.dbgLevel (c : Chip) : Nat := if c.bit 0x50000 1 then 2 else if c.bit 0x50000 0 then 1 else 0

/-- Whether a requester reaches an offset (R494): PF 0 and MGT while their own block is out of reset (15_reset_clocks_power.md R444), JTAG as the debug level grants (R461), a VF never. -/
def Chip.reaches (c : Chip) (who : Who) (off : Nat) : Bool :=
  match who with
  | .pf0 => !c.held.contains .pci
  | .mgt => !c.held.contains .mgt
  | .jtag => c.dbgLevel = 2 || (c.dbgLevel = 1 && blkAt off == some .dbg) || (0x34000 ≤ off && off < 0x38000) || off == 0x30020
  | .vf _ => false

/-- Whether the block of an offset is held in reset behind its wrapper (R495). -/
def Chip.shut (c : Chip) (off : Nat) : Bool :=
  match blkAt off with
  | some b => b != .glb && b != .rcu && c.held.contains b
  | none => false

/-- A word of a VF's BAR 0: its MSI-X table, its PBA, 0 elsewhere (17_host_port_management.md R476). -/
def Chip.vfWord (c : Chip) (n off : Nat) : Word :=
  if off < 0x10000 then (look c.pci.vfTable (n * 0x20000 + off)).getD (if off % 16 = 12 then 1 else 0)
  else if off < 0x10200 then
    BitVec.ofNat 32 (sumOf ((c.pci.pba.filter (fun e => e.1 == n && e.2 / 32 == (off - 0x10000) / 4)).map (fun e => 2 ^ (e.2 % 32))))
  else 0

/-- The word a read of the map returns (R7, R9, R51, R494, R495): 0 outside it, for a write-only field, for a window that
is shut or not reached, and for the trace buffer and the global stop below NONINVASIVE (16_observation.md R461). Of the other registers of DBG,
CNT and TRC no table names a level, so every level reads and writes them; their commits need NONINVASIVE (DEDUCED, log 43). -/
def Chip.readWord (c : Chip) (who : Who) (off : Nat) : Word :=
  if !c.reaches who off || c.shut off || (off == 0x50010 && c.dbgLevel == 0) then 0
  else match shadowOf off with
    | some s => c.actWord s
    | none =>
      let stored := (rowsAt off).foldl (fun a r => if r.acc == .wo then withBits a r.lo r.width 0 else a) (c.word off).toNat
      BitVec.ofNat 32 ((c.viewFields off).foldl (fun a f => withBits a f.1 f.2.1 f.2.2) stored)

end Sys2Proof.Machine
end

