-- ==== Sys2Proof/Machine/Registers.lean ====
section
/-! DEFINITION. Accesses to the register map (00_scope.md R6 to R9; 18_register_map.md R494 to R498): the generic write, the
halves of 64-bit registers, reads that clear. -/

namespace Sys2Proof.Machine

/-- Whether a requester's port is out of reset, so that an access comes and its answer leaves (15_reset_clocks_power.md R444). -/
def Chip.speaks (c : Chip) (who : Who) : Bool :=
  match who with
  | .pf0 | .vf _ => !c.held.contains .pci
  | .mgt => !c.held.contains .mgt
  | .jtag => true

/-- An access of a requester whose port is out of reset. -/
def Chip.ask (c : Chip) (who : Who) (f : Chip → Chip) : Chip := if c.speaks who then f c else c

/-- What a read of a requester returns: its function's BAR 0, or the register map. -/
def Chip.seen (c : Chip) (who : Who) (off : Nat) : Word :=
  match who with
  | .vf n => c.vfWord n off
  | _ => c.readWord who off

/-- A requester behind the PCIe port. -/
def whoPcie : Who → Bool
  | .pf0 | .vf _ => true
  | .jtag | .mgt => false

/-- A write of `n` bytes as it arrives, and the value of a 32-bit read as it leaves (16_observation.md R462). -/
def Chip.regIn (c : Chip) (who : Who) (n : Nat) : Chip := if whoPcie who then c.tlpIn n else c
def Chip.regOut (c : Chip) (who : Who) (v : Word) : Chip :=
  if whoPcie who then c.tlpOut 4 (.regRead who (v.setWidth 64)) else c.emit (.regRead who (v.setWidth 64))

/-- The value of a 64-bit read as it leaves. -/
def Chip.regOut64 (c : Chip) (who : Who) (lo hi : Word) : Chip :=
  let v : Quad := BitVec.ofNat 64 (lo.toNat + hi.toNat * 2 ^ 32)
  if whoPcie who then c.tlpOut 8 (.regRead who v) else c.emit (.regRead who v)

/-- The access of a requester discards its latch (R6). -/
def Chip.dropLatch (c : Chip) (who : Who) : Chip := { c with latch := c.latch.filter (fun e => e.1 != who) }
def Chip.latchOf (c : Chip) (who : Who) : Option Latch := (c.latch.find? (fun e => e.1 == who)).map (·.2)
def Chip.setLatch (c : Chip) (who : Who) (l : Latch) : Chip :=
  { c with latch := (c.latch.filter (fun e => e.1 != who)) ++ [(who, l)] }

/-- The bits of a word whose writes have a row of their own in the table of commands, for the value written: REGISTER_WRITE
leaves them as they are (log 9). -/
def Chip.ownRow (c : Chip) (off v : Nat) : Nat :=
  if off = rRNG_RING0_CFG || off = rRNG_FQ0_CFG || off = rRNG_EQ0_CFG then 1
  else if off = 0x600000 then (if bitOf v 0 && !c.bit off 0 then 3 else 0)
  else if off = 0x500010 then (if bitOf v 0 && !c.bit off 0 then 3 else 0)
  else if off = rRTE_CTL || off = rRED_CTL then 1
  else if 0x800000 ≤ off && off < 0x980000 && off % 0x10000 = 0 then 1
  else if off = rINT_FLIP_CTL then (if bitOf v 0 then 1 else 0)
  else if 0x1001000 ≤ off && off < 0x1001400 && off % 16 = 0 then 2 ^ 31
  else if off = 0x10010 then 1
  else 0

/-- Whether a group has a commit pending (R51). -/
def Chip.groupPending (c : Chip) (g : Nat) : Bool := c.com.pend.any (fun p => bitOf p.mask g)

/-- Whether a write to a word is ignored beyond its fields' access types: ring 0 and queue 0 registers while ENABLE is 1 (R123),
the base of the tile-check table while it is enabled (07_operators.md R218), RTE_NODE while RTE is enabled (R321), checker registers outside the card configuration (R33), the entry of a VALID pair
group (R377), mailbox and flash data while BUSY is 1 (R436, R492), PCI_FN but from PF 0 (R477), the global stop below
NONINVASIVE (R461), RCU_CMD and RCU_WDT but from PF 0 and MGT (R459). -/
def Chip.writeBarred (c : Chip) (who : Who) (off : Nat) : Bool :=
  let ring0 := (c.ring 0).st == .active || (c.ring 0).st == .stopped
  if off = 0x10004 || off = 0x10040 || off = 0x10044 then who != .pf0 && who != .mgt
  else if off = rRNG_RING0_CFG || (0x200010 ≤ off && off < 0x200020) then ring0
  else if off = rRNG_FQ0_CFG || off = 0x200030 || off = 0x200034 then (c.fq 0).enabled
  else if off = rRNG_EQ0_CFG || off = 0x200040 || off = 0x200044 then (c.eq 0).enabled
  else if off = 0x500018 || off = 0x50001C then c.bit 0x500010 0
  else if off = rRTE_NODE then c.bit rRTE_CTL 0
  else if off = rINT_FLIP_CTL || off = rINT_FLIP_MASK || off = rINT_FLIP_MASK + 4 then !c.card
  else if rRED_GROUP ≤ off && off < 0x1140000 then c.bit (groupBase off) 31
  else if 0x34000 ≤ off && off < 0x38000 then c.bit 0x30020 1
  else if 0x41000 ≤ off && off < 0x41100 then c.bit 0x40018 0
  else if rPCI_FN ≤ off && off < 0x1402000 then who != .pf0
  else if off = 0x50010 then c.dbgLevel = 0
  else false
where
  /-- The first word of a pair group's entry. -/
  groupBase (off : Nat) : Nat := rRED_GROUP + (off - rRED_GROUP) / 0x20 * 0x20

/-- Whether a write makes a pair group VALID whose window meets that of another VALID group: windows of valid groups never overlap, so it
is ignored (13_redundancy.md R377; DEDUCED, log 22). -/
def Chip.windowClash (c : Chip) (off : Nat) (v : Word) : Bool :=
  rRED_GROUP ≤ off && off < 0x1140000 && off % 0x20 = 0 && bitOf v.toNat 31
  && c.regs.any (fun e => rRED_GROUP ≤ e.1 && e.1 < 0x1140000 && e.1 % 0x20 == 0 && e.1 != off && bitOf e.2.toNat 31
    && c.get (e.1 + 8) 0 20 < c.get (off + 8) 0 20 + c.get (off + 12) 0 20
    && c.get (off + 8) 0 20 < c.get (e.1 + 8) 0 20 + c.get (e.1 + 12) 0 20)

/-- One 32-bit word written through the map (R8, R9, R51, R494, R495): its fields by their access types; a pending group's
shadow is locked; a pair group's entry is journalled (R386); an unmasked MSI-X vector of PF 0 sends its pending message. -/
def Chip.writeReg (c : Chip) (who : Who) (off : Nat) (v : Word) : Chip :=
  if !c.reaches who off || c.shut off || c.writeBarred who off || c.windowClash off v then c
  else match groupOf off with
    | some g => if c.groupPending g then c.setBit 0x204 24 true else c.setWord off (writeWord off (c.word off) v)
    | none =>
      let keep := c.ownRow off v.toNat
      let old := c.word off
      let v' := Nat.lor (Nat.land v.toNat (2 ^ 32 - 1 - keep)) (Nat.land (c.word off).toNat keep)
      let v' := if 0x1001000 ≤ off && off < 0x1001400 || off = 0x10010 then Nat.land v.toNat (2 ^ 32 - 1 - keep) else v'
      let c := c.setWord off (writeWord off (c.word off) (BitVec.ofNat 32 v'))
      let c := if rRED_GROUP ≤ off && off < 0x1140000 && !(rowsAt off).isEmpty then c.journalGroup ((off - rRED_GROUP) / 0x20) else c
      let c := if off = 0x1400000 && !c.bit off 0 then c.pumpHost else c
      let c := if off = 0x50010 && c.stopped && c.bit off 4 != bitOf old.toNat 4 then c.emit (.gstopN (!c.bit off 4)) else c
      if 0x1480000 ≤ off && off < 0x1490000 && off % 16 = 12 then
        let n := (off - 0x1480000) / 16
        if !c.bit off 0 && c.pci.pba.contains (0, n) then
          (c.setPci { c.pci with pba := c.pci.pba.filter (· != (0, n)) }).hostOut 4 (.msix 0 n)
        else c
      else c

/-- A write to the BAR 0 of a VF: its MSI-X table (17_host_port_management.md R476); the rest follows R7. -/
def Chip.writeVf (c : Chip) (n off : Nat) (v : Word) : Chip :=
  if off < 0x10000 then
    let k := n * 0x20000 + off
    let v' := if off % 16 = 12 then v &&& 1 else if off % 16 = 0 then v &&& 0xFFFFFFFC else v
    let c := c.setPci { c.pci with vfTable := put c.pci.vfTable k v' }
    let e := (n, off / 16)
    if off % 16 = 12 && v' = 0 && c.pci.pba.contains e then
      (c.setPci { c.pci with pba := c.pci.pba.filter (· != e) }).hostOut 4 (.msix n (off / 16))
    else c
  else c

/-- A write of the low half of a 64-bit register: held for the requester (R6). -/
def Chip.writeLow (c : Chip) (who : Who) (off : Nat) (v : Word) : Chip := c.setLatch who (.low off v)

/-- A write of the high half: both halves in one access, the held low half or the current one (R6). -/
def Chip.writeHigh (c : Chip) (who : Who) (off : Nat) (v : Word) : Chip :=
  let held := match c.latchOf who with
    | some (.low o x) => if o + 4 = off then some x else none
    | _ => none
  let c := c.dropLatch who
  match held with
  | some lo => (c.writeReg who (off - 4) lo).writeReg who off v
  | none => c.writeReg who off v

/-- Whether an access of `width` bytes is narrower than 32 bits or misaligned (R7), or of a width that no register has. -/
def badAccess (off width : Nat) : Bool := (width != 4 && width != 8) || off % width != 0

/-- Such an access completes as an Unsupported Request and has no effect on a register (R7). Whether it still counts as the requester's next
access to the window (R6) is left open: it does, so it discards what the requester holds (DESIGN CHOICE, log 39). -/
def Chip.unsupported (c : Chip) (who : Who) : Chip := (c.dropLatch who).emit (.unsupported who)

/-- A write of `width` bytes (R6, R7). -/
def Chip.regWrite (c : Chip) (who : Who) (off width : Nat) (val : Quad) : Chip :=
  if badAccess off width then c.unsupported who
  else match who with
    | .vf n =>
      let c := (c.dropLatch who).writeVf n off (val.setWidth 32)
      if width = 8 then c.writeVf n (off + 4) (BitVec.ofNat 32 (val.toNat / 2 ^ 32)) else c
    | _ =>
      if width = 8 then
        ((c.dropLatch who).writeReg who off (val.setWidth 32)).writeReg who (off + 4) (BitVec.ofNat 32 (val.toNat / 2 ^ 32))
      else if isWideLow off then c.writeLow who off (val.setWidth 32)
      else if isWideHigh off then c.writeHigh who off (val.setWidth 32)
      else (c.dropLatch who).writeReg who off (val.setWidth 32)

/-- Whether the fields of a word are cleared by a read. -/
def readClears (off : Nat) : Bool := (rowsAt off).any (fun r => r.acc == .rc)

/-- A count as a read leaves it: cleared where the read returned it, and `inc` increments of the same cycle stay (R9, R496). -/
def Chip.clearRead (c : Chip) (off inc : Nat) (read : Bool) : Chip :=
  if !readClears off then c else if read then (c.setWord off 0).bump off inc else c.bump off inc

/-- A read of `width` bytes: one word, or the eight bytes of a 64-bit register whole, in one access (R6, R7). A count is returned and
cleared; `inc` increments of the same cycle stay for the next read. -/
def Chip.readClear (c : Chip) (who : Who) (off width inc : Nat) : Chip :=
  let open' := c.reaches who off && !c.shut off
  if badAccess off width then (c.unsupported who).clearRead off inc false
  else if width = 8 then
    let d := (c.dropLatch who).regOut64 who (c.seen who off) (c.seen who (off + 4))
    (d.clearRead off inc open').clearRead (off + 4) 0 open'
  else ((c.dropLatch who).regOut who (c.seen who off)).clearRead off inc open'

/-- A read of the low half: returned, and the high half held (R6). -/
def Chip.readLow (c : Chip) (who : Who) (off : Nat) : Chip :=
  if badAccess off 4 then c.unsupported who
  else (c.regOut who (c.seen who off)).setLatch who (.high (off + 4) (c.seen who (off + 4)))

/-- A read of the high half: the held value, or the current one (R6). -/
def Chip.readHigh (c : Chip) (who : Who) (off : Nat) : Chip :=
  if badAccess off 4 then c.unsupported who else
  let v := match c.latchOf who with
    | some (.high o x) => if o = off then x else c.seen who off
    | _ => c.seen who off
  (c.dropLatch who).regOut who v

/-- The effect of a register write that has a row of its own: for a requester that reaches the register, at a block that is
not shut off; the access discards the requester's latch (R6, R494, R495). -/
def Chip.regCmd (c : Chip) (who : Who) (off : Nat) (f : Chip → Chip) : Chip :=
  c.ask who (fun c => if c.reaches who off && !c.shut off then f ((c.regIn who 4).dropLatch who) else (c.regIn who 4).dropLatch who)

/-! ### Meanings -/

def execRegisterWrite (who : Who) (off width : Nat) (val : Quad) (s : State) : Host.Outcome State Fault Refusal :=
  .next { s with chip := s.chip.ask who (fun c => (c.regIn who width).regWrite who off width val) }

def execCounterReadClear (who : Who) (off : Nat) (r : RegRead) (s : State) : Host.Outcome State Fault Refusal :=
  .next { s with chip := s.chip.ask who (fun c => c.readClear who off r.width r.inc) }

def execReg64LowRead (who : Who) (off : Nat) (s : State) : Host.Outcome State Fault Refusal :=
  .next { s with chip := s.chip.ask who (fun c => c.readLow who off) }

def execReg64HighRead (who : Who) (off : Nat) (s : State) : Host.Outcome State Fault Refusal :=
  .next { s with chip := s.chip.ask who (fun c => c.readHigh who off) }

def execReg64LowWrite (who : Who) (off : Nat) (val : Word) (s : State) : Host.Outcome State Fault Refusal :=
  .next { s with chip := s.chip.ask who (fun c => (c.regIn who 4).writeLow who off val) }

def execReg64HighWrite (who : Who) (off : Nat) (val : Word) (s : State) : Host.Outcome State Fault Refusal :=
  .next { s with chip := s.chip.ask who (fun c => (c.regIn who 4).writeHigh who off val) }

end Sys2Proof.Machine
end

