-- ==== Sys2Proof/Machine/Sched.lean ====
section
/-! DEFINITION. The stacks' front ends, queues and schedulers: buffer fill and panic, classes, write drains, rows, refresh and RFM
(11_memory_stacks.md R326 to R335, R339, R341). The queues hold the lines of demand reads and writes; an access of a unit of the
package is made in the step of its command (DESIGN CHOICE, log 24). -/

namespace Sys2Proof.Machine

def stkReg (k off : Nat) : Nat := rSTK + 0x20000 * k + off
def Chip.stkState (c : Chip) (k : Nat) : Nat := c.get (stkReg k 4) 0 3
def stkReady : Nat := 2

/-- Whether a stack takes requests. -/
def Chip.stkServes (c : Chip) (k : Nat) : Bool := c.stkState k = stkReady && c.bit (stkReg k 0) 0

/-! ### Buffer fill and panic (R335) -/

/-- The lines that a stripe operation writes when its group has lost no stack. -/
def StripeOp.lines (o : StripeOp) : Nat := o.chgs.length + 2

/-- A port's buffer fill: its lines at the front ends and in the queues that are not yet issued. -/
def Chip.portFill (c : Chip) (p : Nat) : Nat :=
  sumOf (c.int.reads.map (fun e => if e.2.port = p then countIf (fun (l : LineRd) => l.st == .held || l.st == .issued) e.2.lines else 0))
  + sumOf (c.int.stripes.map (fun e => if e.2.port = p && e.2.locked then e.2.lines else 0))
  + sumOf (c.stk.map (fun e => countIf (fun (w : WrEnt) => w.q.port == p) e.2.wq))

/-- Whether a port's panic is raised. -/
def Chip.panic (c : Chip) (p : Nat) : Bool := c.bit 0xC10400 p

/-- A port's panic after its fill has changed: in PANIC mode raised above PANIC_ON and lowered at PANIC_OFF, in TARGET mode never raised. -/
def Chip.panicAt (c : Chip) (p : Nat) : Chip :=
  let r := rSTK_REG + 16 * p
  let n := c.portFill p
  let up := c.aget r 0 1 = 1 && (decide (c.aget (r + 8) 0 9 < n) || (c.panic p && decide (c.aget (r + 8) 16 9 < n)))
  if 32 ≤ p || up = c.panic p then c else c.setBit 0xC10400 p up

/-- The panic of every port, after lines of several have left. -/
def Chip.panics (c : Chip) : Chip := (upTo 32).foldl (fun c p => c.panicAt p) c

def Chip.putRead (c : Chip) (id : Nat) (r : ReadOp) : Chip := (c.setInt { c.int with reads := put c.int.reads id r }).panicAt r.port

/-- A line of a read in progress replaced. -/
def ReadOp.setLine (r : ReadOp) (line : Nat) (f : LineRd → LineRd) : ReadOp :=
  { r with lines := r.lines.map (fun l => if l.line = line then f l else l) }

/-- What a piece of a unit's access may cost at most: it is made while its port's cap allows that much (R332; DESIGN CHOICE, log 24). -/
def unitCost : Nat := 2 ^ 14
def Chip.mayAccess (c : Chip) (port : Nat) : Bool := unitCost ≤ c.capLeft port

/-! ### Requests in the queues (R326, R333) -/

/-- A request that waits in a queue of a pseudo-channel: its class, its place in the order of arrival, how often it has been overtaken, its
bank and row; the read and line it belongs to, or a write. -/
structure Cand where
  write : Bool
  cls : Nat
  age : Nat
  passed : Nat
  bank : Nat
  row : Nat
  id : Nat
  line : Nat
  deriving DecidableEq, Repr

/-- The class of a request (R333). -/
def Chip.classOf (c : Chip) (port : Nat) (guaranteed : Bool) (urgency : Nat) : Nat :=
  if c.panic port then 2 else if guaranteed then 5 - min urgency 3 else 6

/-- The lines in the read queues of a stack that a test on their location finds. -/
def Chip.reads (c : Chip) (k : Nat) (p : Nat → Bool) : List Cand :=
  c.int.reads.flatMap (fun e => (e.2.lines.filter (fun l =>
    l.st == .issued && (linePlace l.line).1 == k && p (linePlace l.line).2)).map (fun l =>
      ⟨false, c.classOf e.2.port e.2.guaranteed e.2.urgency, e.1, l.passed, bankOf (linePlace l.line).2, rowOf (linePlace l.line).2, e.1, l.line⟩))

/-- The lines in its write queues. -/
def Chip.writes (c : Chip) (k : Nat) (p : Nat → Bool) : List Cand :=
  ((c.stkOf k).wq.filter (fun w => p w.loc)).map (fun w =>
    ⟨true, c.classOf w.q.port w.q.guaranteed w.q.urgency, w.q.age, w.passed, bankOf w.loc, rowOf w.loc, w.q.age, w.loc⟩)

def Chip.queued (c : Chip) (k : Nat) (p : Nat → Bool) : List Cand := c.reads k p ++ c.writes k p

/-- The entries in the queues of a pseudo-channel. -/
def Chip.rqLen (c : Chip) (k pc : Nat) : Nat := (c.reads k (fun l => pcOf l == pc)).length
def Stk.wqLen (s : Stk) (pc : Nat) : Nat := countIf (fun w => pcOf w.loc == pc) s.wq

/-! ### Rows (R330) -/

/-- A bank's row closed by auto-precharge, a refresh, an RFM or its idle time. -/
def Chip.closeRow (c : Chip) (k bank : Nat) : Chip :=
  let s := c.stkOf k
  c.putStk k { s with rows := del s.rows bank, predicted := s.predicted.filter (· != bank) }

/-- The open row of a bank that another row is asked of is closed, once no queued request needs it (R330). -/
def Chip.yieldRow (c : Chip) (k bank : Nat) : Chip :=
  match look (c.stkOf k).rows bank with
  | none => c
  | some r =>
    let l := c.queued k (fun l => bankOf l == bank)
    if l.any (fun x => x.row != r) && l.all (fun x => x.row != r) then c.closeRow k bank else c

/-- A request enters a queue: it may take the row of its bank, or be one for the row that is open. -/
def Chip.arrive (c : Chip) (p : Nat × Nat) : Chip :=
  let s := c.stkOf p.1
  let c := if c.rowOpen p then c.putStk p.1 { s with seen := put s.seen (bankOf p.2) c.esc.now } else c
  c.yieldRow p.1 (bankOf p.2)

/-! ### The scheduler (R328, R329) -/

/-- Whether a bank is held by a refresh or an RFM. -/
def Chip.bankHeld (c : Chip) (k bank : Nat) : Bool := (look (c.stkOf k).holds bank).any (fun h => decide (c.esc.now < h.till))

/-- Whether a candidate can be issued: its bank is not held, and its channel is in no training pause (R343). -/
def Chip.canIssue (c : Chip) (k pc : Nat) (x : Cand) : Bool :=
  !c.bankHeld k x.bank && !((c.stkOf k).pause.running && (c.stkOf k).pause.channel == pc / 2)

/-- The oldest of a list of candidates. -/
def oldest (l : List Cand) : Option Cand :=
  l.foldl (fun a x => match a with
    | none => some x
    | some y => if x.age < y.age then some x else some y) none

/-- The order among requests of one class (R328): the oldest, once row hits have overtaken it 16 times; otherwise row hits, oldest first, then those
that activate another bank group than the last one, oldest first, then the others (DEDUCED, log 24). -/
def Stk.firstReady (s : Stk) (pc : Nat) (l : List Cand) : Option Cand :=
  match oldest l with
  | none => none
  | some o =>
    if 16 ≤ o.passed then some o
    else match oldest (l.filter (fun x => look s.rows x.bank == some x.row)) with
      | some x => some x
      | none => match oldest (l.filter (fun x => look s.bg pc != some (bankGroupOf x.bank))) with
        | some x => some x
        | none => some o

/-- The request that a pseudo-channel issues next: forced writes, then the classes, highest first; in one class reads before writes, and in a
write drain writes before reads below class 2. -/
def Chip.pick (c : Chip) (k pc : Nat) : Option Cand :=
  let s := c.stkOf k
  let rs := (c.reads k (fun l => pcOf l == pc)).filter (c.canIssue k pc)
  let ws := (c.writes k (fun l => pcOf l == pc)).filter (c.canIssue k pc)
  if 0 < lookD s.force pc 0 && !ws.isEmpty then s.firstReady pc ws
  else
    let of (n : Nat) : Option Cand :=
      let r := s.firstReady pc (rs.filter (fun x => x.cls == n))
      let w := s.firstReady pc (ws.filter (fun x => x.cls == n))
      if n != 2 && s.drain.contains pc then w.or r else r.or w
    (((of 2).or (of 3)).or ((of 4).or (of 5))).or (of 6)

/-- The older requests of its kind and class that a row hit overtakes. -/
def Chip.overtake (c : Chip) (k pc : Nat) (x : Cand) : Chip :=
  if !c.rowOpen (k, if x.write then x.line else (linePlace x.line).2) then c
  else if x.write then
    let s := c.stkOf k
    c.putStk k { s with wq := s.wq.map (fun w =>
      if pcOf w.loc == pc && w.q.age < x.age && c.classOf w.q.port w.q.guaranteed w.q.urgency == x.cls then { w with passed := w.passed + 1 } else w) }
  else
    c.setInt { c.int with reads := mapVals c.int.reads (fun id r =>
      if id < x.age && c.classOf r.port r.guaranteed r.urgency == x.cls then
        { r with lines := r.lines.map (fun l =>
          if l.st == .issued && (linePlace l.line).1 == k && pcOf (linePlace l.line).2 == pc then { l with passed := l.passed + 1 } else l) }
      else r) }

/-- The bookkeeping of a column command, after its request has left the queue: the bank has been used since it was last held, and the row
is closed with it where another row of the bank is asked for and no further hit is queued (R330). -/
def Chip.columnDone (c : Chip) (k pc bank : Nat) : Chip :=
  let s := c.stkOf k
  (c.putStk k { s with last := put s.last pc c.esc.now, seen := put s.seen bank c.esc.now,
                       holds := match look s.holds bank with | some h => put s.holds bank { h with used := true } | none => s.holds }).yieldRow k bank

/-- A pseudo-channel's drain starts at 48 entries and ends at 16; a full queue forces 8 writes (R329). -/
def Stk.drainAt (s : Stk) (pc : Nat) : Stk :=
  let n := s.wqLen pc
  { s with drain := if n ≤ 16 then s.drain.filter (· != pc) else if 48 ≤ n && !s.drain.contains pc then s.drain ++ [pc] else s.drain,
           force := if 64 ≤ n then put s.force pc 8 else if n = 0 then del s.force pc else s.force }

/-- A queued write issued to the array. -/
def Chip.issueWrite (c : Chip) (k pc : Nat) (x : Cand) : Chip :=
  let c := c.overtake k pc x
  let s := c.stkOf k
  let port := ((s.wq.find? (fun w => w.loc == x.line && w.q.age == x.age)).map (fun w => w.q.port)).getD 32
  let f := lookD s.force pc 0
  let s := { s with wq := s.wq.filter (fun w => !(w.loc == x.line && w.q.age == x.age)),
                    force := if f ≤ 1 then del s.force pc else put s.force pc (f - 1) }
  (((c.putStk k (s.drainAt pc)).touchWrite (k, x.line)).columnDone k pc x.bank).panicAt port

/-- The writes that a pseudo-channel issues before its next read. -/
def Chip.toRead (k pc : Nat) : Nat → Chip → Chip
  | 0, c => c
  | n + 1, c => match c.pick k pc with
    | some x => if x.write then Chip.toRead k pc n (c.issueWrite k pc x) else c
    | none => c

/-- Whether every sibling of a line has its row open, or no stack. -/
def Chip.siblingsOpen (c : Chip) (line : Nat) : Bool :=
  (upTo 10).all (fun k => c.stackFailed (placeOf (stripeOf line) k).1 || c.rowOpen (placeOf (stripeOf line) k))

/-- A line of the read queues served, with the stack's part of its latency: from the write queue where a queued write holds the line
(cycle 41, R326), otherwise by a column command (`true`) where the scheduler issues it next; none where it does not. -/
def Chip.serveLine (c : Chip) (id line : Nat) : Option (Chip × Nat × Bool) :=
  let p := linePlace line
  let pc := pcOf p.2
  if !(look c.int.reads id).any (fun r => r.lines.any (fun l => l.line == line && l.st == .issued)) then none
  else if (c.stkOf p.1).wq.any (fun w => w.loc == p.2) then some (c.count p.1 64, 41, false)
  else
    let c := Chip.toRead p.1 pc 65 c
    match c.pick p.1 pc with
    | none => none
    | some x =>
      if x.write || x.id != id || x.line != line then none
      else
        some ((c.overtake p.1 pc x).touchRead p, if c.rowOpen p then 86 else 118, true)

/-! ### The front ends (R327, R332, R335) -/

/-- A line of a read that waits goes on: to its front end while its port's fill is below 256, into the read queue of its pseudo-channel
while the stack takes requests (R348) and its port's cap and the queue's 64 entries allow, where it is charged. -/
def Chip.feedLine (c : Chip) (id line : Nat) : Chip :=
  match look c.int.reads id with
  | none => c
  | some r =>
    let p := linePlace line
    let c := if r.lines.any (fun l => l.line == line && l.st == .waiting) && c.portFill r.port < 256 then
        c.putRead id (r.setLine line (fun l => { l with st := .held }))
      else c
    match look c.int.reads id with
    | none => c
    | some r =>
      if r.lines.any (fun l => l.line == line && l.st == .held) && 64 ≤ c.capLeft r.port && c.rqLen p.1 (pcOf p.2) < 64 && c.stkServes p.1 then
        ((c.putRead id { r.setLine line (fun l => { l with st := .issued }) with issued := true }).charge r.port 64).arrive p
      else c

/-- The lines of a read that wait, in order. -/
def Chip.feedRead (c : Chip) (id : Nat) : Chip :=
  match look c.int.reads id with
  | none => c
  | some r => (r.lines.filter (fun l => l.st == .waiting || l.st == .held)).foldl (fun c l => c.feedLine id l.line) c

/-- Those of every read, oldest first. -/
def Chip.feedAll (c : Chip) : Chip := (c.int.reads.map (fun e => e.1)).foldl (fun c id => c.feedRead id) c

/-- Whether every write queue that a stripe operation writes to has room (R327, R357). -/
def Chip.queuesTake (c : Chip) (o : StripeOp) : Bool :=
  (c.stripeWrites o.stripe o.chgs).all (fun j =>
    let p := placeOf o.stripe j
    (c.stkOf p.1).wqLen (pcOf p.2) < 64)

/-- A demand write's stripe update: its lines enter the write queues. -/
def Chip.queueStripe (c : Chip) (o : StripeOp) : Chip × StripeOut :=
  let (c, r) := c.updateStripe (some o.q) o.port o.stripe o.chgs
  let c := (c.stripeWrites o.stripe o.chgs).foldl (fun c j =>
    let p := placeOf o.stripe j
    (c.putStk p.1 ((c.stkOf p.1).drainAt (pcOf p.2))).arrive p) c
  (c.panicAt o.port, r)

/-! ### Refresh and RFM (R339, R341) -/

/-- The refresh interval in CORECLK cycles: 3.9 µs, or 1.95 µs at DOUBLE rate. -/
def Chip.refreshGap (c : Chip) (k : Nat) : Nat := if c.bit (stkReg k 4) 5 then 2438 else 4875

/-- Whether a refresh (`rfm` false) or an RFM of a bank would hold it while it is held, or stand back to back with one of the other kind: no
column command has gone to the bank since, though a request waits for it. -/
def Chip.holdBarred (c : Chip) (k bank : Nat) (rfm : Bool) : Bool :=
  match look (c.stkOf k).holds bank with
  | none => false
  | some h => decide (c.esc.now < h.till)
      || (h.rfm != rfm && !h.used && !(c.queued k (fun l => bankOf l == bank)).isEmpty)

/-- Whether a request of class 2 to 5 waits for a bank: a refresh is then postponed (DEDUCED, log 23). -/
def Chip.bankBusy (c : Chip) (k bank : Nat) : Bool := (c.queued k (fun l => bankOf l == bank)).any (fun x => x.cls ≤ 5)

/-- A bank held for 200 cycles, its row closed. -/
def Chip.holdBank (c : Chip) (k bank : Nat) (rfm : Bool) : Chip :=
  let c := c.closeRow k bank
  let s := c.stkOf k
  c.putStk k { s with holds := put s.holds bank ⟨c.esc.now + 200, rfm, false⟩ }

/-- A REFpb issued with a debt left. -/
def Chip.refreshBank (c : Chip) (k bank left : Nat) : Chip :=
  let s := c.stkOf k
  ((c.putStk k { s with debt := if left = 0 then del s.debt bank else put s.debt bank left }).holdBank k bank false).event (.stk k) k 0x03 1 none

/-- Refreshes owed by a bank: one goes where the bank is free and no request of class 5 or above waits, or the debt is 8. -/
def Chip.payRefresh (c : Chip) (k bank : Nat) : Chip :=
  let d := lookD (c.stkOf k).debt bank 0
  if d = 0 || c.holdBarred k bank false || (d < 8 && c.bankBusy k bank) then c else c.refreshBank k bank (d - 1)

/-- A REFpb falls due, once in an interval: issued where the bank is free; otherwise it is postponed, and counted. At a debt of 8 the next one goes
first, which brings the debt to 7. -/
def Chip.refreshDue (c : Chip) (k bank : Nat) : Chip :=
  let s := c.stkOf k
  if c.stkState k != stkReady || (look s.due bank).any (fun t => decide (c.esc.now < t + c.refreshGap k)) then c
  else
    let d := lookD s.debt bank 0
    let c := c.putStk k { s with due := put s.due bank c.esc.now }
    if !c.bankBusy k bank && !c.holdBarred k bank false then c.refreshBank k bank d
    else
      let c := (c.putStk k { c.stkOf k with debt := put s.debt bank (min (d + 1) 8) }).bump (stkReg k 0x10) 1
      if d + 1 < 8 then c else c.payRefresh k bank

/-- An RFM of a bank whose activations have reached the stack's threshold: they are counted afresh. -/
def Chip.rfmDue (c : Chip) (k bank : Nat) : Chip :=
  let s := c.stkOf k
  if c.stkState k != stkReady || lookD s.acts bank 0 < max 1 s.rfmAt || c.holdBarred k bank true then c
  else ((c.putStk k { s with acts := del s.acts bank }).holdBank k bank true).bump (stkReg k 0x1C) 1

/-! ### The stacks' own work of some cycles -/

/-- The writes that a pseudo-channel issues in `n` cycles, one in 4 (R323), while the scheduler chooses writes. -/
def Chip.drainPc (k pc : Nat) : Nat → Chip → Chip
  | 0, c => c
  | n + 1, c => match c.pick k pc with
    | some x => if x.write then Chip.drainPc k pc n (c.issueWrite k pc x) else c
    | none => c

/-- A stack's own work in `n` cycles: queued writes, and refreshes owed. -/
def Chip.stkFor (c : Chip) (k n : Nat) : Chip :=
  if c.stkState k != stkReady then c
  else
    let s := c.stkOf k
    let c := ((s.wq.map (fun w => pcOf w.loc)).dedup).foldl (fun c pc =>
      let ready := (look s.last pc).all (fun t => decide (t + 4 ≤ c.esc.now))
      Chip.drainPc k pc (if n < 4 then (if ready then 1 else 0) else min (n / 4) 64) c) c
    (s.debt.map (fun e => e.1)).foldl (fun c b => (upTo (if n < 200 then 1 else min (n / 200) 8)).foldl (fun c i =>
      if i = 0 then c.payRefresh k b
      else
        let d := lookD (c.stkOf k).debt b 0
        if d = 0 || c.bankBusy k b then c else c.refreshBank k b (d - 1)) c) c

def Chip.stacksFor (c : Chip) (n : Nat) : Chip := (c.stk.map (fun e => e.1)).foldl (fun c k => c.stkFor k n) c

/-! ### Urgency (R334) -/

/-- T of a port in cycles. -/
def Chip.targetT (c : Chip) (p : Nat) : Nat := ceilDiv (c.aget (rSTK_REG + 16 * p + 4) 0 20 * 5) 4

/-- Whether a request that started in a cycle has waited for a level of urgency: 0.5, 0.75, 0.9 of T, and T itself (level 4). -/
def Chip.urgentBy (c : Chip) (p start level : Nat) : Bool :=
  let t := c.targetT p
  let e := c.esc.now - start
  if level = 1 then t ≤ 2 * e else if level = 2 then 3 * t ≤ 4 * e else if level = 3 then 9 * t ≤ 10 * e else t ≤ e

/-- Whether a read waits at a stack. -/
def ReadOp.waitsAt (r : ReadOp) (k : Nat) : Bool := r.lines.any (fun l => (l.st == .issued || l.st == .held) && (linePlace l.line).1 == k)

/-- Whether a stripe operation waits at a stack's front end. -/
def StripeOp.waitsAt (o : StripeOp) (k : Nat) : Bool := o.locked && o.stripe % 2 == k / 10

end Sys2Proof.Machine
end

