-- ==== Sys2Proof/Machine/Access.lean ====
section
/-! DEFINITION. Demand reads and writes of pool memory from admission to response, mirror writes, and whole accesses of the
internal units (01_architecture.md R19 to R21, R532; 12_integrity.md R355 to R359; 13_redundancy.md R377 to R381). -/

namespace Sys2Proof.Machine

/-! ### Pair groups (R377, R381) -/


/-- The state of a group: 0 PAIRED, 1 SOLO, 2 RESYNC. -/
def Chip.groupPair (c : Chip) (g : Nat) : Nat := c.get (groupWord g 0) 24 2

/-- A change of a group's state: counted, journalled (R386; DEDUCED, log 11), and the RED interrupt raised. -/
def Chip.setGroupPair (c : Chip) (g st : Nat) : Chip :=
  if c.groupPair g = st then c
  else (((c.set (groupWord g 0) 24 2 st).journalGroup g).bump rRED_PAIR_EVENTS 1).pfEvent 2

/-- The partner's PLA of a PPA line of a group's window. -/
def Chip.mirrorPla (c : Chip) (g line : Nat) : Nat :=
  c.get (groupWord g 4) 0 27 * 2 ^ 21 + (line * 64 - c.get (groupWord g 2) 0 20 * 2 ^ 21)

/-- Dirty marks (R382). -/
def Chip.markDirty (c : Chip) (folio : Nat) : Chip :=
  if c.red.dirty.contains folio then c else c.setRed { c.red with dirty := (c.red.dirty ++ [folio]).mergeSort }

def Chip.putWrite (c : Chip) (id : Nat) (w : WriteOp) : Chip := c.setInt { c.int with writes := put c.int.writes id w }

def Chip.putMirror (c : Chip) (id : Nat) (m : Mirror) : Chip := c.setRed { c.red with mirrors := put c.red.mirrors id m }

/-- The WR of a mirror write (R379). -/
def Chip.mirrorMsg (c : Chip) (id : Nat) (m : Mirror) : Msg :=
  { cls := clsReq, opcode := 0x02, dest := BitVec.ofNat 24 (c.get (groupWord m.group 0) 0 24), src := c.srcNode,
    txn := BitVec.ofNat 16 id, ctx := BitVec.ofNat 16 (c.get (groupWord m.group 1) 0 16),
    addr := BitVec.ofNat 64 (c.mirrorPla m.group m.line), len := flitsOf m.data.length,
    bytes := BitVec.ofNat 13 m.data.length, data := m.data }

/-- Whether two mirror writes share a line. -/
def Mirror.overlaps (a b : Mirror) : Bool :=
  a.line < b.line + b.data.length / 64 && b.line < a.line + a.data.length / 64

/-- The waiting mirror writes that no earlier one in flight holds back are sent (R379: at most one per line). -/
def Chip.sendMirrors (c : Chip) : Chip :=
  c.red.mirrors.foldl (fun c e =>
    let m := lookD c.red.mirrors e.1 e.2
    if m.sent || m.retryAt.isSome || c.red.mirrors.any (fun o => o.1 < e.1 && o.2.overlaps m) then c
    else (c.putMirror e.1 { m with sent := true, firstBeat := c.esc.bounds }).emit (.msg (c.mirrorMsg e.1 m) 27)) c

/-- A mirror write of whole stored lines for a write (0 for none), where its group writes at the partner; in a SOLO group
the folio becomes dirty (R381). -/
def Chip.mirror (c : Chip) (g line : Nat) (data : List Byte) (write : Nat) : Chip :=
  if c.groupPair g = 1 || !c.bit rRED_CTL 0 then c.markDirty (line * 64 / 2 ^ 21)
  else
    let (id, c) := c.redTxn
    let c := c.putMirror id ⟨g, line, data, write, c.esc.bounds, false, none⟩
    let c := match look c.int.writes write with
      | some w => c.putWrite write { w with mirrors := w.mirrors ++ [id] }
      | none => c
    c.sendMirrors

/-! ### Responses -/

/-- The answer of a finished write to its requester: WR_ACK to the fabric; a BAR 4 write is posted (R478). The stacks' acknowledgement
of a write answers in cycle 35, and a PAIR write 8 cycles after the later acknowledgement (R379). -/
def Chip.answerWrite (c : Chip) (w : WriteOp) : Chip :=
  match w.who with
  | .fabric _ m => (c.emit (.msg (c.reply m 0x21 w.status) (if w.pair then 8 else 35 + w.extra))).lendDone m
  | .wb m => c.emit (.msg (c.reply m 0x65 w.status) (if w.pair then 8 else 35 + w.extra))
  | .coherent id => c.setCoh { c.coh with done := c.coh.done ++ [(id, w.status, [], 0)] }
  | _ => c

/-- A write whose stripes are taken and whose mirror writes are acknowledged completes and leaves its extent's count. -/
def Chip.settleWrite (c : Chip) (id : Nat) : Chip :=
  match look c.int.writes id with
  | some w =>
    if w.stripes.isEmpty && w.mirrors.isEmpty then
      ((c.setInt { c.int with writes := del c.int.writes id }).answerWrite w).subInflight w.tgt.handle 1
    else c
  | none => c

/-- The answer of a finished read: RD_RSP with the data, or a refusal without; BAR 4 completes with Completer Abort for a
status that is not good, which AER logs (R478). -/
def Chip.answerRead (c : Chip) (r : ReadOp) (st : Status) (data : List Byte) (lat : Nat) : Chip :=
  match r.who with
  | .fabric _ m =>
    let a := c.reply m 0x20 st
    (c.emit (.msg (if st.good then { a with len := flitsOf r.bytes, bytes := BitVec.ofNat 13 r.bytes, data := data } else a)
      lat)).lendDone m
  | .bar4 fn tag =>
    let c := if st.good then c else c.setPci { c.pci with aer := c.pci.aer + 1 }
    c.tlpOut (if st.good then data.length else 0) (.bar4Read fn tag st (if st.good then data else []) lat)
  | .coherent id => c.setCoh { c.coh with done := c.coh.done ++ [(id, st, data, lat)] }
  | _ => c

/-- A read all of whose lines are ready is answered with the worst outcome, in the cycle its slowest line gives (R532). -/
def Chip.settleRead (c : Chip) (id : Nat) : Chip :=
  match look c.int.reads id with
  | some r =>
    if r.lines.all (fun l => match l.st with | .ready _ _ => true | _ => false) then
      let st := r.lines.foldl (fun s l => match l.st with | .ready x _ => s.worse x | _ => s) .ok
      let all := (r.lines.map (fun l => match l.st with | .ready _ d => d | _ => [])).flatten
      let lat := r.lines.foldl (fun a l => max a l.lat) 0 + r.extra
      (((c.setInt { c.int with reads := del c.int.reads id }).panicAt r.port).answerRead r st (slice all (r.tgt.ppa % 64) r.bytes)
        lat).subInflight r.tgt.handle 1
    else c
  | none => c

/-! ### Admitted reads (R19, R20, R84, R359) -/

/-- Whether a PPA line lies in a folio that a REBUILDING extent has not yet rebuilt (R392). -/
def Chip.unrebuilt (c : Chip) (handle line : Nat) : Bool :=
  c.red.rebuilding.any (fun e => e.1 == handle && e.2 / 4096 ≤ line / 32768)

/-- Whether a group's partner is asked for lines lost here (R380, R381). -/
def Chip.pairAsks (c : Chip) (g : Nat) : Bool := c.groupPair g == 0 && c.bit rRED_CTL 0

/-- An RD of one line to the partner (R380). -/
def Chip.askPartner (c : Chip) (g : Nat) (read : Option Nat) (line : Nat) (t : Target) : Chip :=
  let (id, c) := c.redTxn
  let c := c.setRed { c.red with rereads := put c.red.rereads id ⟨read, line, t, c.esc.bounds⟩ }
  c.emit (.msg
    { cls := clsReq, opcode := 0x01, dest := BitVec.ofNat 24 (c.get (groupWord g 0) 0 24), src := c.srcNode,
      txn := BitVec.ofNat 16 id, ctx := BitVec.ofNat 16 (c.get (groupWord g 1) 0 16),
      addr := BitVec.ofNat 64 (c.mirrorPla g line), bytes := 64 } 0)

/-- The state in which a line of a read starts: a hit is ready; a line of a FAILED stack waits for its siblings; any
other goes to the front end of its stack (R327, R332). The latency is that of R20 and R359 with the terms of R84 for an ELB miss. -/
def Chip.startLine (c : Chip) (id line : Nat) (t : Target) (miss strict : Bool) : Chip × LineRd :=
  let add := if miss then (if strict then 12 else 6) else 0
  match c.lccLook line t.tenant with
  | (some d, c) => (c, ⟨line, .ready .ok d, 20 + (if miss then 12 else 0), 0⟩)
  | (none, c) =>
    if c.unrebuilt t.handle line then
      match t.pair with
      | some g =>
        if c.groupPair g = 1 then (c.readReports line t true false false, ⟨line, .ready .dataLost [], 122 + add, 0⟩)
        else (c.askPartner g (some id) line t, ⟨line, .partner, 0, 0⟩)
      | none => (c, ⟨line, .failed, 122 + add, 0⟩)
    else if c.stackFailed (linePlace line).1 then
      (c, ⟨line, .failed, (if c.siblingsOpen line then 90 else 122) + add, 0⟩)
    else (c, ⟨line, .waiting, add, 0⟩)

/-- A demand read admitted: its lines start, and it is answered at once if all of them hit. -/
def Chip.startRead (c : Chip) (who : Requester) (port : Nat) (t : Target) (bytes extra : Nat) (miss strict : Bool) : Chip :=
  let id := c.int.nextId
  let guar := 0 < c.guarLeft port
  let c := (c.addInflight t.handle).setInt { c.int with nextId := id + 1 }
  let (c, ls) := (linesOf t.ppa bytes).foldl (fun (a : Chip × List LineRd) line =>
    let (c, l) := a.1.startLine id line t miss strict
    (c, a.2 ++ [l])) (c, [])
  ((c.putRead id { port := port, who := who, tgt := t, bytes := bytes, lines := ls, extra := extra, urgency := 0, guaranteed := guar, waited := 0,
                   start := c.esc.now, issued := ls.any (fun l => l.st == .partner || l.st == .failed) }).feedRead id).settleRead id

/-- The data of a line arrives from its stack (R20 steps 8 to 12, R350, R412): with no erased byte it is decrypted, cached
and ready; a slot that is not BOUND gives KEY_RETIRED; otherwise the line waits for its siblings. Data comes only for the read that the
scheduler issues next on its pseudo-channel, or that a queued write serves (R326, R328). -/
def Chip.lineData (c : Chip) (id line : Nat) : Chip :=
  match c.serveLine id line with
  | none => c
  | some (c, lat, column) =>
    match look c.int.reads id with
    | none => c
    | some r =>
      let p := linePlace line
      let (c, st, add) :=
        if !c.keyUsable r.tgt.slot then (c, LineSt.ready .keyRetired [], 0)
        else if c.clean line then
          let (c, o) := c.directLine line r.tgt
          (c, .ready o.st o.data, 0)
        else (c, .failed, if c.siblingsOpen line then 64 else 96)
      let c := c.putRead id (r.setLine line (fun l => { l with st := st, lat := l.lat + lat + add }))
      ((if column then c.columnDone p.1 (pcOf p.2) (bankOf p.2) else c).settleRead id).feedAll

/-- Entries of the stripe lock table in use (R356). -/
def Chip.locked (c : Chip) : Nat := countIf (fun (e : Nat × StripeOp) => e.2.locked) c.int.stripes + c.red.fetch.toList.length

/-- Whether an operation holds a stripe's entry: an update, or a rebuild that waits for the partner's lines (13_redundancy.md R392). -/
def Chip.stripeHeld (c : Chip) (s : Nat) : Bool := c.red.fetch == some s || c.int.stripes.any (fun e => e.2.locked && e.2.stripe == s)

/-- Whether the entries of some stripes can be had: while the table is full the operation waits and is counted, and while another operation holds
one it waits behind it (R356). -/
def Chip.mayLock (c : Chip) (stripes : List Nat) : Chip × Bool :=
  if stripes.isEmpty then (c, true)
  else if c.locked ≥ 2048 then ((c.bump rINT_STRIPE_WAITS 1).event .int 0 0x02 1 none, false)
  else (c, stripes.all (fun s => !c.stripeHeld s))

/-- The sibling lines return and the line is rebuilt under its stripe's lock (R352, R353, R356); a line lost in a PAIRED group is asked of the
partner (R380). -/
def Chip.lineRebuilt (c : Chip) (id line : Nat) : Chip :=
  match look c.int.reads id with
  | none => c
  | some r =>
    if r.lines.any (fun l => l.line == line && l.st == .failed) && c.mayAccess 29 then
      let (c, free) := c.mayLock [stripeOf line]
      if !free then c
      else if !c.keyUsable r.tgt.slot then
        (c.putRead id (r.setLine line (fun l => { l with st := .ready .keyRetired [] }))).settleRead id
      else
        let again := match r.tgt.pair with
          | some g => c.pairAsks g
          | none => false
        let (c, o) := c.rebuildLine line r.tgt again
        match o.st, again, r.tgt.pair with
        | .dataLost, true, some g =>
          (c.askPartner g (some id) line r.tgt).putRead id (r.setLine line (fun l => { l with st := .partner }))
        | _, _, _ => (c.putRead id (r.setLine line (fun l => { l with st := .ready o.st o.data }))).settleRead id
    else c

/-- What the partner's answer for a line gives (R380, R392): its stored bytes are decrypted and cached, with OK_CORRECTED and a repair of
the local line unless the folio is not yet rebuilt (OK); any other answer is DATA_LOST. The repair is one of R354, made while REPAIR_EN is 1. -/
def Chip.partnerLine (c : Chip) (t : Target) (line : Nat) (st : Option Status) (data : List Byte) : Chip × Status × List Byte :=
  let rpt (c : Chip) (k : ErrClass) : Chip :=
    c.report { cls := k, blk := .int, addr := t.pla + (line * 64 - t.ppa / 64 * 64), ctx := some t.ctx, tenant := t.tenant }
  match st.map Status.good with
  | some true =>
    let plain := c.decLine t.slot line data
    if c.unrebuilt t.handle line then (c.lccFill line t.tenant plain, .ok, plain)
    else
      let p := linePlace line
      let c := if c.groupState (stripeOf line % 2) ≥ 3 || c.stackFailed p.1 || !c.bit rINT_CTL 1 then c
        else ((c.setMem (c.mem.write (stackAddr p) data (allOn 64))).touchWrite p).charge 29 64
      ((rpt c .readCorrected).lccFill line t.tenant plain, .okCorrected, plain)
  | _ => (rpt c .readLost, .dataLost, [])

/-- The answer for a line of a demand read. -/
def Chip.lineFromPartner (c : Chip) (id line : Nat) (st : Option Status) (data : List Byte) : Chip :=
  match look c.int.reads id with
  | none => c
  | some r =>
    let (c, st, d) := c.partnerLine r.tgt line st data
    (c.putRead id (r.setLine line (fun l => { l with st := .ready st d }))).settleRead id

/-- The partner's answer for a re-read, or its end without one. -/
def Chip.rereadDone (c : Chip) (txn : Nat) (st : Option Status) (data : List Byte) : Chip :=
  match look c.red.rereads txn with
  | none => c
  | some r =>
    let c := c.setRed { c.red with rereads := del c.red.rereads txn }
    match r.read with
    | some id => c.lineFromPartner id r.line st data
    | none =>
      let (c, o, _) := c.partnerLine r.tgt r.line st data
      c.setRed { c.red with asked := if o == .ok then del c.red.asked r.line else put c.red.asked r.line (some (o == .okCorrected)) }

/-! ### Lines asked of the partner for an access that is presented again (R380, R392; DEDUCED, log 22) -/

/-- Whether a line cannot be recovered locally. -/
def Chip.lineLost (c : Chip) (line : Nat) : Bool :=
  !c.clean line && ((decodeStripe (c.stripeViews (stripeOf line))).getD (line % 8) []).any (fun x => x.2 == .lost)

/-- The lines of an access that only the partner holds are asked of it. Whether nothing is awaited. -/
def Chip.askLost (c : Chip) (t : Target) (lines : List Nat) : Chip × Bool :=
  match t.pair with
  | none => (c, true)
  | some g =>
    lines.foldl (fun (a : Chip × Bool) line =>
      let c := a.1
      if ((c.lccSet line).find line t.tenant).isSome then a
      else match look c.red.asked line with
        | some none => (c, false)
        | some (some _) => a
        | none =>
          let away := c.unrebuilt t.handle line
          if (away && c.groupPair g != 1) || (!away && c.pairAsks g && c.keyUsable t.slot && c.lineLost line) then
            let c := c.askPartner g none line t
            (c.setRed { c.red with asked := put c.red.asked line none }, false)
          else a) (c, true)

/-- The status of an access whose lines have been asked for: DATA_LOST where a line is not rebuilt and the partner has not given it,
OK_CORRECTED where it has given one; the answers are forgotten. -/
def Chip.askedStatus (c : Chip) (t : Target) (lines : List Nat) (st : Status) : Chip × Status :=
  if t.pair.isNone then (c, st)
  else
    let gone := lines.any (fun l => c.unrebuilt t.handle l && ((c.lccSet l).find l t.tenant).isNone)
    let fixed := lines.any (fun l => look c.red.asked l == some (some true))
    let c := c.setRed { c.red with asked := delIf c.red.asked (fun l _ => lines.contains l) }
    if gone then (c, st.worse .dataLost) else if fixed then (c, st.worse .okCorrected) else (c, st)

/-- The lines that a write covers in part. -/
def partLines (ppa n : Nat) (be : List Bool) : List Nat :=
  ((linesWr ppa (zeros n) be).filter (fun w => !w.mask.all id)).map (fun w => w.line)

/-! ### Admitted writes (R355 to R358, R379, R441) -/

/-- A demand write admitted: its lines are merged in the line cache and passed to INT as stripe operations; a PAIR write
also sends its mirror. -/
def Chip.startWrite (c : Chip) (who : Requester) (port : Nat) (t : Target) (data : List Byte) (be : List Bool)
    (extra : Nat) : Chip :=
  let id := c.int.nextId
  let guar := 0 < c.guarLeft port
  let c := (c.addInflight t.handle).setInt { c.int with nextId := id + 1 }
  let ls := linesWr t.ppa data be
  let (c, ss) := c.mergeAll t ls
  let n := c.int.nextId
  let ops := ss.zipIdx.map (fun e =>
    (n + e.2, (⟨e.1.1, e.1.2, id, port, false, t.pla + ((firstEnabled ls e.1.1).getD (max (e.1.1 * 512) t.ppa) - t.ppa),
                ⟨port, guar, 0, c.esc.now, 0, n + e.2⟩⟩ : StripeOp)))
  let c := (c.setInt { c.int with nextId := n + ops.length, stripes := ops.foldl (fun m e => put m e.1 e.2) c.int.stripes }).panicAt port
  let c := c.putWrite id ⟨who, t, ops.map (·.1), [], t.pair.isSome, .ok, extra, false⟩
  match t.pair with
  | some g =>
    let stored := (linesOf t.ppa data.length).map (fun line =>
      match (c.lccSet line).find line t.tenant with
      | some (_, x) => c.encLine t.slot line x.data
      | none => (c.view (linePlace line)).bytes)
    c.mirror g (t.ppa / 64) stored.flatten id
  | none => c.settleWrite id

/-- A stripe operation asks for its stripe's entry: it is granted when no earlier operation on the stripe is left and one of
the 2,048 entries is free; while the table is full it waits and is counted. A port whose fill would pass 256 issues nothing (R335). -/
def Chip.lockStripe (c : Chip) (id : Nat) : Chip :=
  match look c.int.stripes id with
  | none => c
  | some o =>
    if o.locked || c.int.stripes.any (fun e => e.1 < id && e.2.stripe == o.stripe) then c
    else
      let (c, free) := c.mayLock [o.stripe]
      if !free || 256 < c.portFill o.port + o.lines then c
      else (c.setInt { c.int with stripes := put c.int.stripes id { o with locked := true } }).panicAt o.port

/-- The writes of a locked stripe operation issued in one cycle (R357), once its port's cap allows its cost (R332) and each write queue that they
go to has room (R327): the stacks acknowledge them as they enter the queues (R326), and the write completes when its last acknowledgement arrives. A keyed line whose slot is not
BOUND is not encrypted (R412), and a LOST group takes nothing (R358). -/
def Chip.issueStripe (c : Chip) (id : Nat) : Chip :=
  match look c.int.stripes id with
  | none => c
  | some o =>
    if !o.locked || c.capLeft o.port < c.stripeCost o.stripe o.chgs || !c.queuesTake o then c else
    let c := c.setInt { c.int with stripes := del c.int.stripes id }
    match look c.int.writes o.write with
    | none => (c.queueStripe o).1.feedAll
    | some w =>
      let w := { w with stripes := w.stripes.filter (· != id), issued := true }
      if !c.keyUsable w.tgt.slot then
        ((c.lccDrop (fun x => x.tenant == w.tgt.tenant && x.line / 8 == o.stripe)).putWrite o.write
          { w with status := w.status.worse .keyRetired }).settleWrite o.write |>.panicAt o.port
      else
        let (c, r) := c.queueStripe o
        let c := if r.st == .dataLost then c.lccDrop (fun x => x.line / 8 == o.stripe) else c
        let first := (c.int.stripes.filter (fun e => w.stripes.contains e.1 && c.groupState (e.2.stripe % 2) ≥ 3)).foldl (fun a e => min a e.2.pla) o.pla
        let c := if r.st == .dataLost && w.status != .dataLost then
            c.report { cls := .writeRefused, blk := .int, addr := first, ctx := some w.tgt.ctx,
                       tenant := w.tgt.tenant }
          else c
        ((c.putWrite o.write { w with status := w.status.worse r.st }).settleWrite o.write).feedAll

/-- A mirror write acknowledged by the partner, or struck: the write it belongs to no longer waits for it. -/
def Chip.mirrorDone (c : Chip) (id : Nat) : Chip :=
  match look c.red.mirrors id with
  | none => c
  | some m =>
    let c := c.setRed { c.red with mirrors := del c.red.mirrors id }
    let c := match look c.int.writes m.write with
      | some w => (c.putWrite m.write { w with mirrors := w.mirrors.filter (· != id) }).settleWrite m.write
      | none => c
    c.sendMirrors

/-- A group becomes SOLO (R381): its outstanding mirror writes are struck, and their folios are dirty. -/
def Chip.soloGroup (c : Chip) (g : Nat) : Chip :=
  if c.groupPair g = 1 then c else
  let c := c.setGroupPair g 1
  let mine := c.red.rebuilding.head?.any (fun e => (c.extent e.1).pairGroup == g)
  let c := c.setRed { c.red with resyncs := c.red.resyncs.filter (fun r => r.group != g), fetch := if mine then none else c.red.fetch }
  (c.red.mirrors.filter (fun e => e.2.group == g)).foldl (fun c e =>
    (c.markDirty (e.2.line * 64 / 2 ^ 21)).mirrorDone e.1) c

/-! ### Whole writes of the internal units -/

/-- A range written whole for a descriptor, a table or a log: every stripe updated at once, in ascending order (R355). A write to a PAIR
extent is in flight until the partner has acknowledged it (R76). The status is DATA_LOST where a stripe's group is LOST, KEY_RETIRED where the slot is not BOUND. -/
def Chip.writeRange (c : Chip) (port : Nat) (t : Target) (data : List Byte) (be : List Bool) : Chip × Status :=
  if !c.keyUsable t.slot then (c, .keyRetired) else
  let ls := linesWr t.ppa data be
  let (c, ss) := c.mergeAll t ls
  let (c, st) := ss.foldl (fun (a : Chip × Status) e =>
    let (c, o) := a.1.writeStripe port e.1 e.2
    let c := if o.st == .dataLost then
        let c := c.lccDrop (fun x => x.line / 8 == e.1)
        if a.2 == .dataLost then c
        else c.report { cls := .writeRefused, blk := .int, addr := t.pla + ((firstEnabled ls e.1).getD (max (e.1 * 512) t.ppa) - t.ppa),
                        ctx := some t.ctx, tenant := t.tenant }
      else c
    (c, a.2.worse o.st)) (c, .ok)
  match t.pair with
  | some g =>
    let stored := (linesOf t.ppa data.length).map (fun line => (c.view (linePlace line)).bytes)
    let id := c.int.nextId
    let c := (c.addInflight t.handle).setInt { c.int with nextId := id + 1 }
    let c := c.putWrite id { who := .none, tgt := t, stripes := [], mirrors := [], pair := true, status := st, extra := 0, issued := true }
    ((c.mirror g (t.ppa / 64) stored.flatten id).settleWrite id, st)
  | none => (c, st)

/-! ### Lent extents (03_extents.md R82) -/

/-- Free bytes, for control data that lies in a lent extent, whose memory is another package's (log 13). -/
def Chip.freeBytes (c : Chip) (n : Nat) : Chip × List Byte :=
  (upTo n).foldl (fun (a : Chip × List Byte) _ =>
    let (v, c) := a.1.free
    (c, a.2 ++ [v.setWidth 8])) (c, [])

/-- A free entry of the 1,024 for outstanding forwards (DEDUCED, log 16). -/
def Chip.lendFree (c : Chip) : Option Nat :=
  (upTo 1024).find? (fun n => !c.ext.lends.any (fun l => l.txn.toNat == n))

/-- The forward to a lender of an admitted access: source and transaction are the requester's, LENT names the home, no gathering coordinate
and no generation is carried (DEDUCED, log 16). It counts in flight until its LEND_DONE. Whether an entry was free. -/
def Chip.lend (c : Chip) (x : ElbE) (m : Msg) (pla lat : Nat) : Chip × Bool :=
  match c.lendFree with
  | none => (c, false)
  | some n =>
    let c := (c.addInflight x.handle).setExt { c.ext with
      lends := c.ext.lends ++ [⟨x.handle, x.e.lender, m.src, BitVec.ofNat 16 n⟩], inflight := (c.addInflight x.handle).ext.inflight }
    let f : Msg := { m with cls := clsFwd, lent := true, fwded := false, genValid := false, gen := 0, dest := x.e.lender, dport := 0,
                            ctx := BitVec.ofNat 16 x.e.lenderCtx, addr := BitVec.ofNat 64 (x.e.place pla) }
    (c.emit (.msg ((((f.withSpec 8 3 0).withSpec 0 3 c.srcNode.toNat).withSpec 3 1 0).withSpec 4 2 n) lat), true)

/-- A REQ-class access of the package's own. -/
def Chip.ownMsg (c : Chip) (op : Byte) (dest : NodeId) (txn ctx addr n : Nat) (data : List Byte) : Msg :=
  { cls := clsReq, opcode := op, dest := dest, src := c.srcNode, txn := BitVec.ofNat 16 txn, ctx := BitVec.ofNat 16 ctx,
    addr := BitVec.ofNat 64 addr, len := flitsOf data.length, bytes := BitVec.ofNat 13 n, data := data }

/-- The next transaction of EXT's own forwards (DESIGN CHOICE, log 12). -/
def Chip.extTxn (c : Chip) : Nat × Chip :=
  (0xC000 + c.pci.nextTxn % 0x4000, c.setPci { c.pci with nextTxn := (c.pci.nextTxn + 1) % 0x4000 })

/-! ### The snoop filter (09_coherence.md R255, R264, R266) -/

def Chip.agent (c : Chip) (n : Nat) : Agent := lookD c.coh.agents n {}
def Chip.putAgent (c : Chip) (n : Nat) (a : Agent) : Chip := c.setCoh { c.coh with agents := put c.coh.agents n a }
def Chip.part (c : Chip) (n : Nat) : List FEnt := lookD c.coh.parts n []
def Chip.putPart (c : Chip) (n : Nat) (l : List FEnt) : Chip := c.setCoh { c.coh with parts := put c.coh.parts n l }

/-- Snoops outstanding, sent or waiting for a slot. -/
def Chip.allSnps (c : Chip) : List Snp := c.coh.snps.map (fun e => e.2) ++ c.coh.queue

/-- An agent's entry for a line, and every agent that holds the line with its state: an entry whose BINV is outstanding counts until the
answer (R266), unless a writeback, a notice or a snoop's answer has given the line up. -/
def Chip.fent (c : Chip) (n line : Nat) : Option FEnt := (c.part n).find? (fun e => e.line == line)
def Chip.holders (c : Chip) (line : Nat) : List (Nat × Bool) :=
  c.coh.parts.filterMap (fun p => (p.2.find? (fun e => e.line == line)).map (fun e => (p.1, e.m)))
  ++ (c.allSnps.filter (fun s => s.op == 0x54 && s.line == line && !s.crossed)).map (fun s => (s.agent, s.m))

/-! ### The tile-check table (07_operators.md R217) -/

/-- A whole read of the table: the order of checks, then every line. The table in a lent extent is read with free bytes (log 13). -/
def Chip.unitRead (c : Chip) (elb port : Nat) (r : Req) : Chip × Status × Nat × List Byte :=
  let (c, v, _, _) := c.checkRead elb port r
  match v with
  | .retry => (c, .busyRetry, 0, [])
  | .refuse n st _ => (c, st, n, [])
  | .granted x =>
    if x.e.lent then
      let (t, c) := c.extTxn
      let (c, d) := ((c.lend x (c.ownMsg 0x01 x.e.lender t 0 0 r.bytes []) r.pla 9).1).freeBytes r.bytes
      (c, .ok, 0, d)
    else
      let (c, st, d) := c.readRange port (x.target r.pla) r.bytes
      (c, st, 0, d)

/-- A whole write of the table. -/
def Chip.unitWrite (c : Chip) (elb port : Nat) (r : Req) (data : List Byte) : Chip × Status × Nat :=
  let (c, v, _) := c.check elb r
  match v with
  | .retry => (c, .busyRetry, 0)
  | .refuse n st _ => (c, st, n)
  | .granted x =>
    if x.e.lent then
      let (t, c) := c.extTxn
      ((c.lend x (c.ownMsg 0x02 x.e.lender t 0 0 r.bytes data) r.pla 9).1, .ok, 0)
    else
      let (c, st) := c.writeRange port (x.target r.pla) data (allOn data.length)
      (c, st, 0)

end Sys2Proof.Machine
end

