-- ==== Sys2Proof/Machine/TileCheck.lean ====
section
/-! DEFINITION. Tile checks: the table, stale bits, verification (07_operators.md R217 to R220). -/

namespace Sys2Proof.Machine

def rTCHK_CTL : Nat := 0x500010
def rTCHK_BASE : Nat := 0x500018
def rTCHK_MISMATCH : Nat := 0x500020
def rTCHK_STALE_READS : Nat := 0x500024
def rTCHK_TABLE_ERRORS : Nat := 0x50002C

/-- TBASE and the generation of the table's extent. -/
def Chip.tbase (c : Chip) : Nat := c.get64 rTCHK_BASE % 2 ^ 48
def Chip.tgen (c : Chip) : Nat := bitsOf (c.get64 rTCHK_BASE) 48 8

/-- The PLA of a tile's check, and of the byte that holds its stale bit. -/
def Chip.checkAt (c : Chip) (tile : Nat) : Nat := c.tbase + tile * 4
def Chip.staleAt (c : Chip) (tile : Nat) : Nat := c.tbase + c.folioCount * 512 * 4 + tile / 8

/-- A checked request to the table under context 0. -/
def Chip.tableReq (c : Chip) (pla n : Nat) (write : Bool) : Req :=
  { ctx := 0, src := .internal, pla := pla, bytes := n, gen := some c.tgen, need := if write then rWrite else rRead,
    write := write, coh := false }

def Chip.tableRead (c : Chip) (port pla n : Nat) : Chip × Option (List Byte) :=
  if !c.bit rTCHK_CTL 2 then (c, none) else
  let (c, st, _, d) := c.unitRead elbSeq port (c.tableReq pla n false)
  (c, if st.good then some d else none)

def Chip.tableWrite (c : Chip) (port pla : Nat) (d : List Byte) : Chip :=
  if !c.bit rTCHK_CTL 2 then c else (c.unitWrite elbSeq port (c.tableReq pla d.length true) d).1

/-- Whether the bytes of the table at a PLA may be written at once: no agent holds a line of them (09_coherence.md R273). -/
def Chip.tableFree (c : Chip) (pla n : Nat) : Bool := c.coh.posts.isEmpty && (linesOf pla n).all (fun l => (c.holders l).isEmpty)

/-- The stale bit of a tile written. -/
def Chip.setStale (c : Chip) (port tile : Nat) (v : Bool) : Chip :=
  match c.tableRead port (c.staleAt tile) 1 with
  | (c, some [b]) =>
    c.tableWrite port (c.staleAt tile) [BitVec.ofNat 8 (withBits b.toNat (tile % 8) 1 (if v then 1 else 0))]
  | (c, _) => c

/-- The check of a whole tile stored and its stale bit cleared (R219). -/
def Chip.storeCheck (c : Chip) (port : Nat) (t : Target) (tile : List Byte) : Chip :=
  if t.tchk = 0 then c
  else (c.tableWrite port (c.checkAt (t.ppa / 4096)) (bytesLE 4 (crc32c tile).toNat)).setStale port (t.ppa / 4096) false

/-- The tiles of a byte range, by PPA. -/
def tilesOf (ppa n : Nat) : List Nat :=
  if n = 0 then [] else (upTo ((ppa + n - 1) / 4096 - ppa / 4096 + 1)).map (fun i => ppa / 4096 + i)

/-- The stale bits of `n` tiles from one set: a single tile's, or those of whole bytes of the table. -/
def Chip.staleTiles (c : Chip) (port k n : Nat) : Chip :=
  if n = 1 then c.setStale port k true else c.tableWrite port (c.staleAt k) (List.replicate (n / 8) 0xFF)

/-- The same where agents may hold lines of the table: kept until those have been snooped (09_coherence.md R273). -/
def Chip.setStales (c : Chip) (port k n : Nat) : Chip :=
  if c.tableFree (c.staleAt k) (ceilDiv n 8) then c.staleTiles port k n else c.setCoh { c.coh with posts := c.coh.posts ++ [(k, n)] }

/-- Every tile of a range that is not written whole by an operator becomes stale (R219). -/
def Chip.markStale (c : Chip) (port : Nat) (t : Target) (n : Nat) : Chip :=
  if t.tchk = 0 || !c.bit rTCHK_CTL 2 then c else (tilesOf t.ppa n).foldl (fun c k => c.setStales port k 1) c

/-- Every tile of an extent becomes stale at its disposition (R219), one folio at a time. -/
def Chip.staleExtent (c : Chip) (e : Extent) : Chip :=
  if e.tchk = 0 || e.lent || !c.bit rTCHK_CTL 2 then c
  else (upTo e.len).foldl (fun c i => c.setStales 27 ((e.backing + i) * 512) 512) c

/-- What a tile's check says of its bytes. -/
inductive Checked
  | equal | different | stale | unreadable
  deriving DecidableEq, Repr

def Chip.compareCheck (c : Chip) (port : Nat) (t : Target) (tile : List Byte) : Chip × Checked :=
  let k := t.ppa / 4096
  match c.tableRead port (c.staleAt k) 1 with
  | (c, some [b]) =>
    if bitOf b.toNat (k % 8) then (c, .stale)
    else match c.tableRead port (c.checkAt k) 4 with
      | (c, some d) => (c, if ofBytesLE d = (crc32c tile).toNat then .equal else .different)
      | (c, none) => (c, .unreadable)
  | (c, _) => (c, .unreadable)

/-- A whole tile read by an operator verified by its extent's mode (R220): whether it may be used. A different check under
ENFORCE is reported as class TILE_CHECK (12_integrity.md R365). -/
def Chip.verifyTile (c : Chip) (port : Nat) (t : Target) (tile : List Byte) : Chip × Bool :=
  if t.tchk = 0 then (c, true)
  else
    match c.compareCheck port t tile with
    | (c, .equal) => (c, true)
    | (c, .stale) => (c.bump rTCHK_STALE_READS 1, true)
    | (c, .different) =>
      if t.tchk = 2 then
        (c.report { cls := .tileCheck, blk := .int, addr := t.pla, ctx := some t.ctx, tenant := t.tenant }, false)
      else (c.bump rTCHK_MISMATCH 1, true)
    | (c, .unreadable) => (c.bump rTCHK_TABLE_ERRORS 1, t.tchk != 2)

end Sys2Proof.Machine
end

