-- ==== Sys2Proof/Machine/Ingress.lean ====
section
/-! DEFINITION. A message at the package's ingress (10_fabric.md R294, R311, R319; R453): discards, resets, forwards to the owner. -/

namespace Sys2Proof.Machine

def rRTE_BAD_MSGS : Nat := 0xA00014

/-- The class of an opcode and the payload its LEN must agree with: none, that of BYTES, or one line. -/
inductive Payload
  | none | bytes | line | bytesIfGood
  deriving DecidableEq, Repr

def opForm (op : Nat) : Option (BitVec 2 × Payload) :=
  match op with
  | 0x01 => some (clsReq, .none) | 0x02 => some (clsReq, .bytes) | 0x03 => some (clsReq, .line)
  | 0x08 => some (clsReq, .none) | 0x09 => some (clsReq, .none) | 0x0A => some (clsReq, .none)
  | 0x10 => some (clsFold, .bytes)
  | 0x20 => some (clsRsp, .bytesIfGood) | 0x21 => some (clsRsp, .none) | 0x22 => some (clsRsp, .none)
  | 0x23 => some (clsRsp, .none) | 0x24 => some (clsRsp, .none)
  | 0x40 => some (clsReq, .none) | 0x41 => some (clsReq, .none) | 0x42 => some (clsReq, .none)
  | 0x43 => some (clsReq, .line) | 0x44 => some (clsReq, .none) | 0x45 => some (clsReq, .none)
  | 0x50 => some (clsFwd, .none) | 0x51 => some (clsFwd, .none) | 0x52 => some (clsFwd, .none)
  | 0x53 => some (clsFwd, .none) | 0x54 => some (clsFwd, .none)
  | 0x60 => some (clsRsp, .line) | 0x61 => some (clsRsp, .line) | 0x62 => some (clsRsp, .none)
  | 0x63 => some (clsRsp, .none) | 0x64 => some (clsRsp, .line) | 0x65 => some (clsRsp, .none)
  | 0x66 => some (clsRsp, .none)
  | _ => none

/-- The class in which an opcode arrives (R293): RD, WR and WR_BE on FWD from a gathering member or a home, a coherence request on FWD from
a gathering member. -/
def msgClass (m : Msg) (cls : BitVec 2) : BitVec 2 :=
  let op := m.opcode.toNat
  if ((op = 1 || op = 2 || op = 3) && (m.fwded || m.lent)) || (0x40 ≤ op && op ≤ 0x45 && m.fwded) then clsFwd else cls

/-- Whether LEN agrees with BYTES and the opcode; a WR_BE names an aligned line (R293). -/
def msgLenOk (m : Msg) (p : Payload) : Bool :=
  (match p with
  | .none => m.len == 0
  | .bytes => m.len == flitsOf m.bytes.toNat
  | .line => m.len == 1
  | .bytesIfGood => if m.status == 0 || m.status == 1 then m.len == flitsOf m.bytes.toNat else m.len == 0)
  && m.bytes.toNat ≤ 4096 && (m.opcode != 3 || m.addr.toNat % 64 == 0)

/-- Whether the destination discards a message (R294). -/
def Chip.badMsg (c : Chip) (m : Msg) : Bool :=
  m.rsvd || m.chan == 3 || (match opForm m.opcode.toNat with
    | none => true
    | some (cls, p) => m.cls != msgClass m cls || !msgLenOk m p)
  || ((m.opcode == 8 || m.opcode == 9 || m.opcode == 0xA || m.opcode == 0x10) && !c.isSelf m.dest)

/-- A discard: counted, and answered with FORMAT_FAULT, or EXTENT_FAULT for a contribution to a gathering coordinate. -/
def Chip.discardMsg (c : Chip) (m : Msg) : Chip :=
  let st := if m.opcode == 0x10 && m.cls == clsFold && !c.isSelf m.dest then Status.extentFault else .formatFault
  (c.bump rRTE_BAD_MSGS 1).sendRefusal m st 0 0

/-- Whether the core is in reset, so that the ingress answers for it (R319). -/
def Chip.coreHeld (c : Chip) : Bool := c.held.contains .spine || c.held.contains .ext

/-- The forward of a gathering member to the owner (R311). -/
def msgForward (m : Msg) (owner : NodeId) : Msg :=
  ({ m with cls := clsFwd, fwded := true, dest := owner }).withSpec 8 3 m.dest.toNat

/-- A request resolved to the package's own PLA (R31, R86), or forwarded, or refused. In QUIESCE it is answered with BUSY_RETRY; a posted one,
which has no answer, is taken (R453; DEDUCED, log 20). `f` serves it at its local PLA. -/
def Chip.request (c : Chip) (m : Msg) (f : Chip → Nat → Chip) : Chip :=
  if c.stopped then c else
  let c := c.wake
  if c.badMsg m then c.discardMsg m
  else if c.coreHeld || (c.quiesced && (answerOf m.opcode.toNat).isSome) then c.sendRefusal m .busyRetry c.beatUs 0
  else if m.lent then f c m.addr.toNat
  else
    match c.owner (if m.fwded then BitVec.ofNat 24 (m.specAt 8 3) else m.dest) m.addr.toNat with
    | .here pla => f c pla
    | .other n => if m.fwded then c.sendRefusal m .busyRetry c.beatUs 0 else c.emit (.msg (msgForward m n) 9)
    | .unknown => c.sendRefusal m .extentFault 0 0

/-- A response, notice or heartbeat: sunk into its reserved space, discarded while the core is in reset (R319) or where it is
malformed. -/
def Chip.response (c : Chip) (m : Msg) (f : Chip → Chip) : Chip :=
  if c.stopped then c else if c.badMsg m then c.bump rRTE_BAD_MSGS 1 else if c.coreHeld then c else f c.wake

/-- The regulator port of a request (R331, R378): its link, or 30 for a write under the IN_CTX of a valid group. -/
def Chip.groupIn (c : Chip) (ctx : Nat) : Option Nat :=
  (c.regs.find? (fun e => rRED_GROUP ≤ e.1 && e.1 < rRED_GROUP + 0x20 * 4096 && e.1 % 0x20 == 4
    && e.2.toNat / 65536 == ctx && c.bit (e.1 - 4) 31)).map (fun e => (e.1 - rRED_GROUP) / 0x20)
def Chip.portOf (c : Chip) (link ctx : Nat) (write : Bool) : Nat := if write && (c.groupIn ctx).isSome then 30 else link

/-- The request that EXT checks for a message. -/
def msgReq (m : Msg) (pla n need : Nat) (write coh : Bool) : Req :=
  { ctx := m.ctx.toNat, src := .fabric m.src, pla := pla, bytes := n, gen := if m.genValid then some m.gen.toNat else none,
    need := need, write := write, coh := coh }

/-- A refusal of the order of checks: its fault record and its answer (04_rings_and_descriptors.md R107). -/
def Chip.refuseMsg (c : Chip) (m : Msg) (r : Req) (step : Nat) (st : Status) (h : Nat) : Chip :=
  (c.faultRequest r 1 r.pla m.src.toNat step st h).sendRefusal m st 0 0

end Sys2Proof.Machine
end

