-- ==== Sys2Proof/Machine/Coherence.lean ====
section
/-! DEFINITION. Coherent extents (09_coherence.md): the snoop filter, snoops, the order at the home, agents and their loss. -/

namespace Sys2Proof.Machine

def rCOH_CTL : Nat := 0x700000
def rCOH_BINV_SENT : Nat := 0x700010
def rCOH_BINV_STALLS : Nat := 0x700014
def rCOH_STALE_WB : Nat := 0x700018
def rCOH_LOST_LINES : Nat := 0x70001C
def rCOH_REVOKE_STRUCK : Nat := 0x700020
def rCOH_ORDER_WAITS : Nat := 0x700024

/-! ### Agents and the filter (R255, R259, R264) -/

/-- An entry removed, or moved to S. -/
def Chip.dropLine (c : Chip) (n line : Nat) : Chip :=
  if (c.fent n line).isNone then c else c.putPart n ((c.part n).filter (fun e => e.line != line))
def Chip.toShared (c : Chip) (n line : Nat) : Chip :=
  c.putPart n ((c.part n).map (fun e => if e.line = line then { e with m := false } else e))

/-! ### Snoops (R256, R257) -/

/-- The message of a snoop; a forwarding snoop names the requester. -/
def Chip.snoopMsg (c : Chip) (slot : Nat) (s : Snp) : Msg :=
  let m : Msg :=
    { cls := clsFwd, opcode := BitVec.ofNat 8 s.op, dest := (c.agent s.agent).node, src := c.srcNode,
      txn := BitVec.ofNat 16 slot, addr := BitVec.ofNat 64 (s.line * 64) }
  match s.why with
  | .txn id =>
    match look c.coh.txns id with
    | some t =>
      match t.who with
      | .fabric _ r => ((m.withSpec 0 3 r.src.toNat).withSpec 3 1 r.sport.toNat).withSpec 4 2 r.txn.toNat
      | _ => m
    | none => m
  | _ => m

/-- A snoop sent through a free slot, or kept until a slot is free. -/
def Chip.snoop (c : Chip) (s : Snp) (lat : Nat) : Chip :=
  match freeKey c.coh.snps 0 8192 with
  | some slot =>
    let s := { s with beat := c.esc.bounds }
    let c := if s.op = 0x54 then (c.bump rCOH_BINV_SENT 1).event .coh 0 0x02 1 none else c.event .coh 0 0x01 1 none
    (c.setCoh { c.coh with snps := put c.coh.snps slot s }).emit (.msg (c.snoopMsg slot s) lat)
  | none => c.setCoh { c.coh with queue := c.coh.queue ++ [s] }

/-- The snoops that waited for a slot, sent in order while slots are free. -/
def Chip.sendSnoops (c : Chip) : Chip :=
  c.coh.queue.foldl (fun c s =>
    if (freeKey c.coh.snps 0 8192).isSome then (c.setCoh { c.coh with queue := c.coh.queue.drop 1 }).snoop s 0 else c) c

/-- Entries in the back-invalidation buffer. -/
def Chip.buffered (c : Chip) : Nat := countIf (fun (s : Snp) => s.why == .evict) c.allSnps

/-! ### Grants (R266) -/

/-- The entry a full set gives up: the least recently granted in S, or in M if every way holds M. -/
def victimOf (l : List FEnt) : Option FEnt :=
  let s := l.filter (fun e => !e.m)
  (if s.isEmpty then l else s).foldl (fun b e => match b with
    | none => some e
    | some x => if e.stamp < x.stamp then some e else some x) none

/-- Whether the grant of a line to an agent needs an eviction, and of what. -/
def Chip.evicts (c : Chip) (n line : Nat) : Option FEnt :=
  let a := c.agent n
  let set := (c.part n).filter (fun e => e.line % 2 ^ a.setsLog2 == line % 2 ^ a.setsLog2)
  if (c.fent n line).isSome || set.length < a.ways then none else victimOf set

/-- A line granted to an agent; the evicted entry moves to the buffer and its BINV goes out. -/
def Chip.grant (c : Chip) (n line : Nat) (m : Bool) (lat : Nat) : Chip :=
  let ev := c.evicts n line
  let c := match ev with
    | some v => (c.dropLine n v.line).snoop { agent := n, line := v.line, op := 0x54, why := .evict, m := v.m } lat
    | none => c
  let stamp := c.coh.stamp + 1
  let c := c.setCoh { c.coh with stamp := stamp }
  c.putPart n ((c.part n).filter (fun e => e.line != line) ++ [⟨line, m, stamp⟩])

/-! ### Writing lines back -/

/-- What the extent of a line gives an access of it. -/
def Chip.lineTarget (c : Chip) (line : Nat) : Option Target :=
  (c.handleAt (line * 64)).map (fun h =>
    let e := c.extent h
    { ({ ctx := e.ownerCtx, handle := h, c := {}, e := e } : ElbE).target (line * 64) with handle := h })

/-- The data of a snoop answer written to memory through the line cache (R272, R219): a partial write for the tile check. -/
def Chip.putBack (c : Chip) (port line : Nat) (data : List Byte) : Chip :=
  match c.lineTarget line with
  | some t => (c.markStale port t 64).startWrite .none port t data (allOn 64) 0
  | none => c

/-! ### Transactions (R268, R271 to R273) -/

def CohTxn.lines (t : CohTxn) : List Nat := (linesOf t.tgt.pla t.bytes)
def CohTxn.overlaps (t u : CohTxn) : Bool :=
  t.tgt.pla / 64 ≤ (u.tgt.pla + (u.bytes - 1)) / 64 && u.tgt.pla / 64 ≤ (t.tgt.pla + (t.bytes - 1)) / 64

def Chip.putTxn (c : Chip) (id : Nat) (t : CohTxn) : Chip := c.setCoh { c.coh with txns := put c.coh.txns id t }

/-- Whether a transaction awaits an answer. -/
def Chip.awaits (c : Chip) (id : Nat) : Bool := c.allSnps.any (fun s => s.why == .txn id)

/-- Whether a request waits behind an earlier one, or behind a BINV to its own agent, for one of its lines (R268, R269). -/
def Chip.blocked (c : Chip) (id : Nat) (t : CohTxn) : Bool :=
  c.coh.txns.any (fun e => e.1 < id && e.2.overlaps t)
  || c.allSnps.any (fun s => s.op == 0x54 && s.agent == t.agent && t.lines.contains s.line)

/-- Lines with a transaction in progress. -/
def Chip.ordering (c : Chip) : Nat := sumOf ((c.coh.txns.filter (fun e => e.2.started)).map (fun e => e.2.lines.length))

/-- Whether COH takes no further request: 4,096 ordering entries or 16,384 waiting requests are held (R268). -/
def Chip.cohFull (c : Chip) : Bool :=
  decide (4096 ≤ c.ordering) || decide (16384 ≤ countIf (fun (e : Nat × CohTxn) => !e.2.started) c.coh.txns)

/-- Whether a transaction writes a whole line (R273). -/
def CohTxn.overwrites (t : CohTxn) (line : Nat) : Bool :=
  t.kind == .write && t.be.all (fun b => b) && t.tgt.pla ≤ line * 64 && line * 64 + 64 ≤ t.tgt.pla + t.bytes

/-- The snoops of a transaction to other agents: op, agents and their states. -/
def Chip.snoopAll (c : Chip) (id line op : Nat) (hs : List (Nat × Bool)) (lat : Nat) : Chip :=
  hs.zipIdx.foldl (fun c h =>
    c.snoop { agent := h.1.1, line := line, op := op, why := .txn id, m := h.1.2 } (lat + h.2)) c

/-- The access of memory of a transaction: a read of its bytes, or the write of a non-coherent one. -/
def Chip.askMemory (c : Chip) (id : Nat) (t : CohTxn) : Chip :=
  let c := c.putTxn id { t with asked := true }
  if t.kind == .write then
    (c.markStale t.port t.tgt t.bytes).startWrite (.coherent id) t.port t.tgt t.data t.be (if t.strict then 4 else 0)
  else c.startRead (.coherent id) t.port t.tgt t.bytes (if t.strict then 4 else 0) t.miss t.strict

/-- A transaction begins (R271 to R273): its snoops leave, the requester's entry is granted, memory is read where the data
comes from it. -/
def Chip.beginTxn (c : Chip) (id : Nat) (t : CohTxn) : Chip :=
  let line := t.tgt.pla / 64
  let lat := if t.strict then 12 else 8
  let t := { t with started := true }
  let others := (c.holders line).filter (fun h => h.1 != t.agent)
  let owner := others.filter (fun h => h.2)
  let own (c : Chip) : Chip :=
    if !owner.isEmpty then
      ((c.putTxn id { t with kind := .own, fwd := true, snooped := true }).snoopAll id line 0x51 owner lat).grant t.agent line true lat
    else
      (((c.putTxn id { t with kind := .own, snooped := !others.isEmpty }).snoopAll id line 0x52 others lat).grant t.agent
        line true lat).askMemory id { t with kind := .own, snooped := !others.isEmpty }
  match t.kind with
  | .shared =>
    if !owner.isEmpty then
      ((c.putTxn id { t with fwd := true, snooped := true }).snoopAll id line 0x50 owner lat).grant t.agent line false lat
    else if (c.fent t.agent line).any (fun e => e.m) then c.askMemory id t
    else (c.grant t.agent line false lat).askMemory id t
  | .own => own c
  | .upgrade =>
    if (c.fent t.agent line).any (fun e => !e.m) then
      ((c.putTxn id { t with snooped := !others.isEmpty }).snoopAll id line 0x52 others lat).grant t.agent line true lat
    else own c
  | .read =>
    t.lines.foldl (fun c l => c.snoopAll id l 0x53 ((c.holders l).filter (fun h => h.2)) lat)
      (c.putTxn id { t with snooped := t.lines.any (fun l => (c.holders l).any (fun h => h.2)) })
  | .write =>
    t.lines.foldl (fun c l => c.snoopAll id l 0x52 (c.holders l) lat)
      (c.putTxn id { t with snooped := t.lines.any (fun l => !(c.holders l).isEmpty) })

/-- The answer of a coherent transaction to its requester. -/
def Chip.cohAnswer (c : Chip) (t : CohTxn) (op : Byte) (st : Status) (grant : Nat) (data : List Byte) (lat : Nat) : Chip :=
  match t.who with
  | .fabric _ m =>
    let a := (c.reply m op st).withSpec 6 1 grant
    c.emit (.msg (if data.isEmpty then a else { a with len := 1, bytes := 64, data := data }) lat)
  | _ => c

/-- A transaction refused at the home: GO, or the answer of its request. -/
def Chip.cohRefuse (c : Chip) (who : Requester) (st : Status) : Chip :=
  match who with
  | .fabric _ m => c.sendRefusal m st (if st == .busyRetry then c.beatUs else 0) 0
  | .bar4 fn tag =>
    if tag = 2 ^ 16 then c
    else (c.setPci { c.pci with aer := c.pci.aer + 1 }).emit (.bar4Read fn tag st [] 0)
  | _ => c

/-- A finished access of memory answered to the requester of a non-coherent transaction. -/
def Chip.plainAnswer (c : Chip) (t : CohTxn) (st : Status) (data : List Byte) (lat : Nat) : Chip :=
  if t.kind == .write then
    c.answerWrite { who := t.who, tgt := t.tgt, stripes := [], mirrors := [], pair := t.tgt.pair.isSome, status := st,
                    extra := if t.strict then 4 else 0 }
  else
    let r : ReadOp :=
      { port := t.port, who := t.who, tgt := t.tgt, bytes := t.bytes, lines := [], extra := 0, urgency := 0, guaranteed := false, waited := 0,
        start := c.esc.now, issued := true }
    c.answerRead r st data lat

/-- Whether a transaction has every answer and datum it needs, and its end: the last answers sent, the entry dropped where the
grant failed. The access of a non-coherent request starts once the holders have answered, and its entry is kept until its answer is sent
(R268, R273). -/
def Chip.endTxn (c : Chip) (id : Nat) (t : CohTxn) : Chip :=
  let line := t.tgt.pla / 64
  let drop (c : Chip) : Chip := (c.setCoh { c.coh with txns := del c.coh.txns id }).subInflight t.tgt.handle 1
  let g := if t.kind == .shared then 1 else 2
  let lat := if t.snooped then 4 else if t.strict then 12 else 8
  if c.awaits id then c
  else match t.kind with
  | .read | .write =>
    if t.lost then (drop c).cohRefuse t.who .extentHeld
    else match t.mem with
    | some (st, d, l) => (drop c).plainAnswer t st d l
    | none => if t.asked then c else c.askMemory id t
  | _ =>
    if t.lost then ((drop c).dropLine t.agent line).cohAnswer t 0x62 .extentHeld 0 [] lat
    else match t.fromWb with
    | some d => (drop c).cohAnswer t 0x60 .ok g d lat
    | none =>
      if t.fwd && !t.clean then (drop c).cohAnswer t 0x62 .ok g [] lat
      else if t.kind == .upgrade then (drop c).cohAnswer t 0x62 .ok 2 [] lat
      else match t.mem with
      | some (st, d, l) =>
        if st.good then (drop c).cohAnswer t 0x60 st g d (if t.snooped then 4 else l)
        else ((drop c).dropLine t.agent line).cohAnswer t 0x62 st 0 [] l
      | none => if t.asked then c else c.askMemory id t

/-- Whether a transaction may begin: nothing blocks it and its ordering entries are free; and whether its grant must wait for the
back-invalidation buffer (R266). -/
def Chip.mayBegin (c : Chip) (id : Nat) (t : CohTxn) : Bool :=
  !c.blocked id t && c.ordering + t.lines.length ≤ 4096

def Chip.stalls (c : Chip) (t : CohTxn) : Bool :=
  match t.kind with
  | .read | .write => false
  | _ => (c.evicts t.agent (t.tgt.pla / 64)).isSome && c.buffered ≥ 1024

/-- An entry granted after the scan of its agent's leave or its extent's revoke is back-invalidated too (R263, R274). -/
def Chip.lateBinv (c : Chip) (t : CohTxn) : Chip :=
  let line := t.tgt.pla / 64
  match c.fent t.agent line with
  | none => c
  | some f =>
    let out (why : SnpWhy) : Chip := (c.dropLine t.agent line).snoop { agent := t.agent, line := line, op := 0x54, why := why, m := f.m } 0
    match look c.ext.revokes t.tgt.handle with
    | some rv => (out (.revoke t.tgt.handle rv.scrub)).addInflight t.tgt.handle
    | none =>
      if (c.agent t.agent).st == .leaving then
        (out .leave).putAgent t.agent { (out .leave).agent t.agent with binvs := (c.agent t.agent).binvs + 1 }
      else c

/-- One transaction moved on as far as it can. That of an internal unit ends when the unit makes its access. -/
def Chip.pumpTxn (c : Chip) (id : Nat) : Chip :=
  match look c.coh.txns id with
  | none => c
  | some t =>
    if t.started then (if t.who == .none then c else c.endTxn id t)
    else if !c.mayBegin id t then c
    else if c.stalls t then
      if t.stalled then c else (c.putTxn id { t with stalled := true }).bump rCOH_BINV_STALLS 1
    else
      let c := (c.beginTxn id t).lateBinv t
      match look c.coh.txns id with
      | some u => if u.who == .none then c else c.endTxn id u
      | none => c

/-- A request takes its place in the ordering stage. -/
def Chip.enter (c : Chip) (t : CohTxn) : Chip :=
  let id := c.coh.nextId
  let c := if c.coh.txns.any (fun e => e.2.overlaps t) then c.bump rCOH_ORDER_WAITS 1 else c
  (c.setCoh { c.coh with nextId := id + 1 }).putTxn id t

/-- The requests that waited under their credits enter, in order, while there is room (R268). -/
def Chip.takeFront (c : Chip) : Chip :=
  c.coh.front.foldl (fun c t => if c.cohFull then c else (c.setCoh { c.coh with front := c.coh.front.drop 1 }).enter t) c

/-- The ordering entry of an internal unit's access that covers a range: for a read, that of a read or a write. -/
def CohTxn.serves (t : CohTxn) (pla n : Nat) (write : Bool) : Bool :=
  t.who == .none && t.tgt.pla ≤ pla && pla + n ≤ t.tgt.pla + t.bytes && (!write || t.kind == .write)
def Chip.cleared (c : Chip) (pla n : Nat) (write : Bool) : Bool :=
  c.coh.txns.any (fun e => e.2.serves pla n write && e.2.started && !c.awaits e.1)

/-- An internal unit's access takes an ordering entry (R273), unless it has one; `whole`: it covers whole lines. -/
def Chip.enterUnit (c : Chip) (port : Nat) (x : ElbE) (pla n : Nat) (write whole : Bool) : Chip :=
  if c.cohFull || c.coh.txns.any (fun e => e.2.serves pla n write) then c
  else c.enter { kind := if write then .write else .read, who := .none, agent := 64, port := port, tgt := x.target pla, bytes := n, data := [],
                 be := [whole], miss := false, strict := false, beat := c.esc.bounds }

/-- Its access is made: the entry is free. -/
def Chip.leaveUnit (c : Chip) (pla n : Nat) (write : Bool) : Chip :=
  c.setCoh { c.coh with txns := delIf c.coh.txns (fun _ t => t.who == .none && t.tgt.pla == pla && t.bytes == n && (t.kind == .write) == write) }

/-- The oldest stale bits that wait for lines of the tile-check table: written once its holders are snooped. -/
def Chip.takePost (c : Chip) : Chip :=
  match c.coh.posts with
  | [] => c
  | (k, n) :: rest =>
    let a := c.staleAt k
    let b := ceilDiv n 8
    match c.check elbSeq (c.tableReq a b true) with
    | (c, .granted x, _) =>
      if c.cleared a b true then ((c.setCoh { c.coh with posts := rest }).staleTiles 26 k n).leaveUnit a b true
      else c.enterUnit 26 x a b true false
    | (c, _, _) => c.setCoh { c.coh with posts := rest }

/-- Finished accesses of memory handed to their transactions. -/
def Chip.takeReads (c : Chip) : Chip :=
  let ds := c.coh.done
  ds.foldl (fun c d =>
    match look c.coh.txns d.1 with
    | some t => c.putTxn d.1 { t with mem := some d.2 }
    | none => c) (c.setCoh { c.coh with done := [] })

/-- COH moved on until nothing more can happen without an event: every transaction, as often as a transaction can free
another. -/
def Chip.cohPump (c : Chip) : Chip :=
  if c.stopped || c.held.contains .coh then c
  else
    let once (c : Chip) : Chip :=
      let c := c.takeReads.sendSnoops.takeFront.takePost
      (c.coh.txns.map (fun e => e.1)).foldl (fun c id => c.takeReads.pumpTxn id) c
    (upTo (c.coh.txns.length + c.coh.front.length + 2 * c.coh.posts.length + 1)).foldl (fun c _ => once c) c

/-- An admitted request for a COH extent (R268): it enters the ordering stage; while that is full it waits under its credits, and a forward
is answered with BUSY_RETRY (R311). -/
def Chip.order (c : Chip) (t : CohTxn) (fwded : Bool) : Chip :=
  if !c.cohFull && c.coh.front.isEmpty then ((c.addInflight t.tgt.handle).enter t).cohPump
  else if fwded then c.cohRefuse t.who .busyRetry
  else ((c.addInflight t.tgt.handle).setCoh { c.coh with front := c.coh.front ++ [t] }).cohPump

/-! ### Coherent requests (R262, R271, R279) -/

/-- The tests of R262 on the context of an admitted request. -/
def Chip.agentOk (c : Chip) (x : CtxE) (m : Msg) : Bool :=
  x.agentValid && (c.agent x.agent).st == .joined && (c.agent x.agent).node == m.src && (c.agent x.agent).tenant == x.tenant

def Chip.cohRequest (c : Chip) (link : Nat) (m : Msg) (kind : CohKind) : Chip :=
  c.request m (fun c pla =>
    let need := rRead + rMapCoh + (if kind == .shared then 0 else rWrite)
    let r := msgReq m pla 64 need (kind != .shared) true
    let (c, v, miss, late) := if kind == .upgrade then
        (match c.check (elbLink link) r with | (c, v, miss) => (c, v, miss, match v with | .granted x => c.strict x | _ => true))
      else c.checkRead (elbLink link) link r
    match v with
    | .retry => c.sendRefusal m .busyRetry c.beatUs 0
    | .refuse n st h => c.refuseMsg m r n st h
    | .granted x =>
      let strict := late
      if x.e.coh = 2 then
        -- SHARED_RO: answered with DATA in S, without a filter entry
        let t : CohTxn := { kind := .shared, who := .fabric link m, agent := 64, port := link, tgt := x.target (pla / 64 * 64),
                            bytes := 64, data := [], be := [], miss := miss, strict := strict, started := true }
        let id := c.coh.nextId
        (((c.addInflight t.tgt.handle).setCoh { c.coh with nextId := id + 1 }).askMemory id t).cohPump
      else if c.held.contains .coh then c.sendRefusal m .blockReset 0 0
      else if !c.bit rCOH_CTL 0 then c.sendRefusal m .busyRetry c.beatUs 0
      else if !c.agentOk x.c m then
        (c.faultRequest r 1 pla m.src.toNat 0x76 .rightsFault x.handle).sendRefusal m .rightsFault 0 0
      else
        c.order { kind := kind, who := .fabric link m, agent := x.c.agent, port := link, tgt := x.target (pla / 64 * 64),
                  bytes := 64, data := [], be := [], miss := miss, strict := strict } m.fwded)

/-- A non-coherent access of an admitted request to a COH extent (R273). -/
def Chip.orderAccess (c : Chip) (who : Requester) (port : Nat) (x : ElbE) (pla bytes : Nat) (write : Bool) (data : List Byte)
    (be : List Bool) (miss fwded : Bool) : Chip :=
  c.order { kind := if write then .write else .read, who := who, agent := 64, port := port, tgt := x.target pla,
            bytes := bytes, data := data, be := be, miss := miss, strict := c.strict x } fwded

/-! ### Writebacks and notices (R269, R270, R279) -/

inductive Notice
  | data | clean | evict
  deriving DecidableEq, Repr

/-- Steps 1, 2, 3 and 8 of R72 for a writeback. -/
def Chip.noticeCheck (c : Chip) (elb : Nat) (r : Req) : Chip × Verdict :=
  let (c, f, _) := c.lookup elb r.ctx r.pla
  match f with
  | .noMajority _ => (c, .retry)
  | .nothing => (c, match stepFailed r (c.ctx r.ctx) none false with
      | some (n, st) => .refuse n st 0
      | none => .refuse 3 .extentFault 0)
  | .entry x =>
    match stepFailed { r with need := 0 } x.c (some { x.e with st := .live, coh := 1, gen := BitVec.ofNat 8 (r.gen.getD 0) })
        (!x.e.keyValid || c.slotBound x.e.keySlot) with
    | some (n, st) => (c, .refuse n st (if n > 3 then x.handle else 0))
    | none => (c, .granted x)

/-- Whether an agent has been sent a snoop for a line that is outstanding and that nothing has crossed. -/
def Snp.open' (s : Snp) (n line : Nat) : Bool := s.agent == n && s.line == line && !s.crossed

/-- Every outstanding snoop to an agent for a line marked as crossed by its writeback or notice. -/
def Chip.cross (c : Chip) (n line : Nat) (data : Option (List Byte)) : Chip :=
  let f (s : Snp) : Snp := if s.open' n line then { s with crossed := true, wb := data } else s
  c.setCoh { c.coh with snps := mapVals c.coh.snps (fun _ s => f s), queue := c.coh.queue.map f }

def Chip.notice (c : Chip) (link : Nat) (m : Msg) (k : Notice) : Chip :=
  c.request m (fun c pla =>
    let r := msgReq m pla 64 (if k == .evict then 0 else rWrite) false true
    let (c, v) := if c.extOpen then c.noticeCheck (elbLink link) r else (c, .retry)
    match v with
    | .retry => c.sendRefusal m .busyRetry c.beatUs 0
    | .refuse n st h => c.refuseMsg m r n st h
    | .granted x =>
      let line := pla / 64
      let n := x.c.agent
      let a := c.agent n
      let known := x.c.agentValid && a.node == m.src && (a.st == .joined || a.st == .leaving)
      let ack (c : Chip) (st : Status) : Chip := c.emit (.msg (c.reply m 0x65 st) 0)
      if x.e.coh = 2 then (if k == .evict then ack c .ok else c.refuseMsg m r 7 .rightsFault x.handle)
      else if c.held.contains .coh then c.sendRefusal m .blockReset 0 0
      else if !c.bit rCOH_CTL 0 then c.sendRefusal m .busyRetry c.beatUs 0
      else
        let snooped := c.allSnps.filter (fun s => s.open' n line)
        let holdsM := (c.fent n line).any (fun e => e.m)
        match k with
        | .evict =>
          if known && ((c.fent n line).any (fun e => !e.m) || snooped.any (fun s => s.op == 0x54 && !s.m)) then
            ack ((c.dropLine n line).cross n line none).cohPump .ok
          else ack c .ok
        | _ =>
          if known && (holdsM || !snooped.isEmpty) then
            let discard := snooped.any (fun s => match s.why with
              | .revoke _ d => d
              | .txn id => (look c.coh.txns id).any (fun t => t.overwrites line)
              | _ => false)
            let data := if k == .data then some m.data else none
            let c := (c.dropLine n line).cross n line data
            if k == .data && !discard then
              let t := x.target (line * 64)
              ((c.markStale link t 64).startWrite (.wb m) link t m.data (allOn 64) 0).cohPump
            else (ack c .ok).cohPump
          else ack (c.bump rCOH_STALE_WB 1) .rightsFault)

/-! ### Snoop answers (R256, R272) -/

/-- A snoop answered for a line of which the agent has a BINV outstanding: the BINV's entry is gone, or in S. -/
def Chip.fadeBinv (c : Chip) (n line : Nat) (gone : Bool) : Chip :=
  let f (s : Snp) : Snp := if s.op = 0x54 && s.open' n line then (if gone then { s with crossed := true } else { s with m := false }) else s
  c.setCoh { c.coh with snps := mapVals c.coh.snps (fun _ s => f s), queue := c.coh.queue.map f }

/-- What the answer of one snoop does beside its data: the entry goes or moves to S. The data of a BINV's answer stands for that of every
snoop sent to the agent after it, which the agent answers without data (R256, R266, R269). -/
def Chip.snoopDone (c : Chip) (s : Snp) (data : Option (List Byte)) : Chip :=
  let c := if s.op = 0x54 && !s.crossed then c.cross s.agent s.line data else c
  let c := if s.op = 0x54 && (data.isSome || s.wb.isSome) then c.setCoh { c.coh with rel := c.coh.rel.filter (fun e => e.2 != s.line) } else c
  match s.why with
  | .txn id =>
    let gone := s.op = 0x51 || s.op = 0x52 || (data.isNone && s.op = 0x53)
    let c := if s.crossed then c
      else (if gone then c.dropLine s.agent s.line else c.toShared s.agent s.line).fadeBinv s.agent s.line gone
    match look c.coh.txns id with
    | some t => c.putTxn id (if t.fwd then { t with fromWb := s.wb, clean := s.crossed && s.wb.isNone } else t)
    | none => c
  | .revoke h _ => c.subInflight h 1
  | .leave | .release | .evict => c

/-- Whether the data of an answer is written to memory: not after a discarding revoke or for a write that covers the line. -/
def Chip.keepsData (c : Chip) (s : Snp) : Bool :=
  !s.crossed && (match s.why with
  | .revoke _ d => !d
  | .txn id => (look c.coh.txns id).any (fun t => !t.overwrites s.line)
  | _ => true)

/-- SNP_ACK and SNP_ACK_DATA: matched to the slot that the answer's TXN names, from the agent that was snooped; any other answer
is discarded. -/
def Chip.snoopAnswer (c : Chip) (link : Nat) (m : Msg) (withData : Bool) : Chip :=
  c.response m (fun c =>
    if c.held.contains .coh then c
    else match look c.coh.snps m.txn.toNat with
    | none => c
    | some s =>
      if (c.agent s.agent).node != m.src then c
      else
        let keep := withData && c.keepsData s
        let port := match s.why with
          | .txn id => (match look c.coh.txns id with | some t => t.port | none => link)
          | _ => link
        let c := c.setCoh { c.coh with snps := del c.coh.snps m.txn.toNat }
        let c := if keep then c.putBack port s.line m.data else c
        (c.snoopDone s (if withData then some m.data else none)).cohPump)

/-! ### Back-invalidation of ranges (R263, R274) -/

/-- The lines of a test's entries back-invalidated for a reason; the entries of a scan are removed. -/
def Chip.binvAll (c : Chip) (why : SnpWhy) (p : Nat → FEnt → Bool) : Chip :=
  let hits := c.coh.parts.flatMap (fun e => (e.2.filter (p e.1)).map (fun f => (e.1, f)))
  let c := c.setCoh { c.coh with parts := mapVals c.coh.parts (fun n l => l.filter (fun f => !p n f)) }
  hits.foldl (fun c h => c.snoop { agent := h.1, line := h.2.line, op := 0x54, why := why, m := h.2.m } 0) c

def Extent.hasLine (e : Extent) (line : Nat) : Bool := e.plaBase ≤ line / 32768 && line / 32768 < e.plaBase + e.len

/-- The scan of a revoked COH extent: each BINV outstanding, those of the buffer, of a leave and of a release too, counts as in flight. -/
def Chip.cohRevoke (c : Chip) (h : Nat) (discard : Bool) : Chip :=
  let e := c.extent h
  if e.coh != 1 then c
  else
    let f (s : Snp) : Snp := if s.op = 0x54 && e.hasLine s.line then { s with why := .revoke h discard } else s
    let c := c.setCoh { c.coh with snps := mapVals c.coh.snps (fun _ s => f s), queue := c.coh.queue.map f }
    let c := c.binvAll (.revoke h discard) (fun _ x => e.hasLine x.line)
    let n := countIf (fun (s : Snp) => s.why == .revoke h discard) c.allSnps
    (upTo n).foldl (fun c _ => c.addInflight h) c

/-- The BINVs of a revoke struck at its drain bound: counted, one error record. -/
def Chip.cohStrike (c : Chip) (h : Nat) : Chip :=
  let mine (s : Snp) : Bool := match s.why with | .revoke k _ => k == h | _ => false
  let n := countIf mine c.allSnps
  if n = 0 then c
  else
    let c := c.setCoh { c.coh with snps := delIf c.coh.snps (fun _ s => mine s), queue := c.coh.queue.filter (fun s => !mine s) }
    ((c.subInflight h n).bump rCOH_REVOKE_STRUCK n).report
      { cls := .coh, blk := .coh, addr := (c.extent h).plaBase * 2 ^ 21, count := n }

/-! ### Internal accesses (R273) -/

/-- Whether an internal unit may access lines of a COH extent now. The access takes an ordering entry like any other and sends the snoops it
needs; it is presented again once they are answered. -/
def Chip.probe (c : Chip) (port : Nat) (x : ElbE) (pla n : Nat) (write whole : Bool) : Chip × Bool :=
  if x.e.coh != 1 then (c, true)
  else
    let c := (c.enterUnit port x pla n write whole).cohPump
    (c, c.cleared pla n write)

/-- The access has been made. -/
def Chip.probed (c : Chip) (x : ElbE) (pla n : Nat) (write : Bool) : Chip :=
  if x.e.coh != 1 then c else (c.leaveUnit pla n write).cohPump

/-- The entries of internal accesses that their units have not made for a whole beat are free (DESIGN CHOICE, log 41). -/
def Chip.dropUnits (c : Chip) : Chip :=
  if c.coh.txns.any (fun e => e.2.who == .none && e.2.beat.toNat + 2 ≤ c.esc.bounds.toNat && e.2.started && !c.awaits e.1) then
    (c.setCoh { c.coh with txns := c.coh.txns.filter (fun e =>
      !(e.2.who == .none && e.2.beat.toNat + 2 ≤ c.esc.bounds.toNat && e.2.started && !c.awaits e.1)) }).cohPump
  else c

/-! ### Joining and leaving (R260, R261, R263) -/

/-- The caller of a descriptor. -/
def Chip.caller (c : Chip) (d : Desc) : CtxE := c.ctx d.ctx

def Chip.adminOf (c : Chip) (d : Desc) (tenant : Nat) : Bool :=
  (c.caller d).mgmt || ((c.caller d).admin && (c.caller d).tenant == tenant)

def Chip.agentJoin (c : Chip) (d : Desc) : Chip :=
  let n := d.bitsAt 16 0 6
  let sl := d.bitsAt 17 0 4
  let ways := d.bitsAt 18 0 7
  let tenant := d.bitsAt 24 0 10
  let rsvd := d.zero 16 6 2 && d.zero 17 4 4 && d.zero 18 7 1 && d.zero 19 0 8 && d.zero 20 24 8 && d.zero 24 10 6
    && d.zero 26 0 304
  match firstFail [
    (c.unbinding tenant, .busyRetry, 0),
    (!c.bit rCOH_CTL 0, .busyRetry, 0x70),
    (!c.adminOf d tenant, .rightsFault, 0x71),
    (!rsvd || ways = 0 || 64 < ways || 2 ^ sl * ways > 32768, .formatFault, 0x72),
    ((c.agent n).st != .free, .formatFault, 0x73),
    (c.card, .unsupported, 0x75)] with
  | some (st, detail) => c.refuse bufCoh d st detail
  | none =>
    ((c.putAgent n { st := .joined, node := BitVec.ofNat 24 (d.bitsAt 20 0 24), setsLog2 := sl, ways := ways, tenant := tenant,
                     beat := c.esc.bounds }).putPart n []).okay bufCoh d 0

def Chip.agentLeave (c : Chip) (d : Desc) : Chip :=
  let n := d.bitsAt 16 0 6
  let a := c.agent n
  let own := (c.caller d).agentValid && (c.caller d).agent == n
  match firstFail [
    (!c.bit rCOH_CTL 0, .busyRetry, 0x70),
    (!c.adminOf d a.tenant && !own, .rightsFault, 0x71),
    (!d.zero 16 6 2 || !d.zero 17 0 376, .formatFault, 0x72),
    (a.st == .free, .formatFault, 0x73),
    (a.st == .leaving, .busyRetry, 0x74),
    (c.card, .unsupported, 0x75)] with
  | some (st, detail) => c.refuse bufCoh d st detail
  | none =>
    if a.st == .lost then (c.putAgent n {}).okay bufCoh d 0
    else
      let c := c.putAgent n { a with st := .leaving, leave := some d, binvs := (c.part n).length }
      c.binvAll .leave (fun k _ => k == n)

/-- The last BINV of a leaving agent is answered, and no request of it that was admitted before the leave is left: FREE, and the leave completes with the lines back-invalidated. -/
def Chip.agentLeft (c : Chip) (n : Nat) : Chip :=
  let a := c.agent n
  if a.st != .leaving || c.allSnps.any (fun s => s.agent == n) || c.coh.txns.any (fun e => e.2.agent == n)
      || c.coh.front.any (fun t => t.agent == n) then c
  else
    let c := (c.putAgent n {}).putPart n []
    match a.leave with
    | some d => c.okay bufCoh d a.binvs
    | none => c

/-! ### Losing an agent (R276, R277, R278) -/

/-- An extent moved to HELD by a loss (R80): without waiting for its record; its ELB entries are invalidated. -/
def Chip.holdExtent (c : Chip) (h : Nat) : Chip :=
  let e := c.extent h
  if e.st == .live then (c.writeExt h { e with st := .held }).dropElb (fun x => x.handle == h) else c

/-- Lines in maximal runs of consecutive lines, each of at most 16,383. -/
def runsOf (ls : List Nat) : List (Nat × Nat) :=
  (ls.mergeSort.dedup.foldl (fun acc l =>
    match acc with
    | (s, n) :: r => if l = s + n && n < 16383 then (s, n + 1) :: r else (l, 1) :: acc
    | [] => [(l, 1)]) []).reverse

/-- Lost lines: counted, their LIVE extents HELD, one fault record per run. -/
def Chip.loseLines (c : Chip) (node : NodeId) (ls : List Nat) : Chip :=
  let c := c.bump rCOH_LOST_LINES ls.length
  let hs := (ls.filterMap (fun l => c.handleAt (l * 64))).dedup
  let c := hs.foldl (fun c h => c.holdExtent h) c
  (hs.flatMap (fun h => (runsOf (ls.filter (fun l => (c.extent h).hasLine l))).map (fun r => (h, r)))).mergeSort
    (fun a b => a.2.1 ≤ b.2.1) |>.foldl (fun c x =>
      (c.fault { status := .extentHeld, ctx := (c.extent x.1).ownerCtx, kind := 4, addr := x.2.1 * 64, node := node.toNat,
                 handle := x.1, count := x.2.2 }).1) c

/-- Whether a bound of `n` beats that began at a count of boundaries has expired (02_beat_and_commit.md R47). -/
def Chip.expired (c : Chip) (start : Quad) (n : Nat) : Bool := start.toNat + n + 1 ≤ c.esc.bounds.toNat

/-- The heartbeat limit of the TMO group. -/
def Chip.heartbeatLimit (c : Chip) : Nat := c.aget rGLB_TMO 8 8

/-- Whether a cause of loss holds of an agent, as the package's own state shows it. -/
def Chip.lossHolds (c : Chip) (n : Nat) (why : LossCause) : Bool :=
  match why with
  | .noRoute => !c.hasRoute (c.agent n).node
  | .heartbeat => c.expired (c.agent n).beat c.heartbeatLimit
  | .unanswered => c.coh.snps.any (fun e => e.2.agent == n && c.expired e.2.beat c.heartbeatLimit)

def Chip.agentLost (c : Chip) (n : Nat) (why : LossCause) : Chip :=
  let a := c.agent n
  if (a.st != .joined && a.st != .leaving) || !c.lossHolds n why then c
  else
    let mine := c.allSnps.filter (fun s => s.agent == n)
    let lost := (mine.filter (fun s => s.m && !s.crossed)).map (fun s => s.line)
      ++ ((c.part n).filter (fun e => e.m)).map (fun e => e.line)
    let c := mine.foldl (fun c s => match s.why with
      | .txn id => (match look c.coh.txns id with
        | some t => c.putTxn id (if s.m && !s.crossed then { t with lost := true }
            else if t.fwd then { t with fromWb := s.wb, clean := s.wb.isNone } else t)
        | none => c)
      | .revoke h _ => c.subInflight h 1
      | _ => c) c
    let c := c.setCoh { c.coh with snps := delIf c.coh.snps (fun _ s => s.agent == n),
                                   queue := c.coh.queue.filter (fun s => s.agent != n), parts := put c.coh.parts n [] }
    let c := (c.putAgent n { a with st := .lost, leave := none }).loseLines a.node lost.dedup
    let c := match a.leave with
      | some d => c.refuse bufCoh d .timeout 0
      | none => c
    c.cohPump

/-- COH cleared by C reset (R278): the agents and the partitions stay; the lines whose data is to be asked for at release are kept:
those with a transaction in progress, or a BINV outstanding, whose entry showed M, at every agent that the filter names and, last, at the
requester. -/
def Chip.cohResetC (c : Chip) : Chip :=
  let busy := (c.coh.txns.filter (fun e => e.2.started)).flatMap (fun e => e.2.lines.map (fun l => (l, e.2.agent)))
  let fromTxn := busy.flatMap (fun x =>
    if (c.holders x.1).any (fun h => h.2) then
      (((c.holders x.1).map (fun h => h.1)).filter (· != x.2) ++ (if x.2 < 64 then [x.2] else [])).dedup.map (fun n => (n, x.1)) else [])
  let fromBuf := (c.allSnps.filter (fun s => s.op == 0x54 && s.m && !s.crossed)).map (fun s => (s.agent, s.line))
  c.setCoh { c.coh with snps := [], queue := [], txns := [], done := [], front := [], posts := [], rel := (fromTxn ++ fromBuf).dedup,
                        relBeat := c.esc.bounds,
                        agents := mapVals c.coh.agents (fun _ a => if a.st == .leaving then { a with leave := none } else a) }

/-- The BINVs of the release (R278). -/
def Chip.cohRelease (c : Chip) : Chip :=
  let c := c.setCoh { c.coh with relBeat := c.esc.bounds, agents := mapVals c.coh.agents (fun _ a => { a with beat := c.esc.bounds }) }
  c.coh.rel.foldl (fun c e =>
    let m := (c.fent e.1 e.2).any (fun f => f.m)
    (c.dropLine e.1 e.2).snoop { agent := e.1, line := e.2, op := 0x54, why := .release, m := m } 0) c

/-- The lines whose data has not come within the heartbeat limit after the release are lost (R278), each at the agent whose entry showed
M. -/
def Chip.relExpire (c : Chip) : Chip :=
  if c.coh.rel.isEmpty || !c.expired c.coh.relBeat c.heartbeatLimit then c
  else
    let firsts := c.coh.rel.foldl (fun (a : List (Nat × Nat)) e => if a.any (fun x => x.2 == e.2) then a else a ++ [e]) []
    let c := c.setCoh { c.coh with rel := [], snps := delIf c.coh.snps (fun _ s => s.why == .release),
                                   queue := c.coh.queue.filter (fun s => s.why != .release) }
    ((firsts.map (fun e => e.1)).dedup).foldl (fun c n =>
      c.loseLines (c.agent n).node ((firsts.filter (fun e => e.1 == n)).map (fun e => e.2))) c

/-! ### Meanings -/

def execRdShared (link : Nat) (m : Msg) (s : State) : Host.Outcome State Fault Refusal :=
  .next { s with chip := s.chip.cohRequest link m .shared }

def execRdOwn (link : Nat) (m : Msg) (s : State) : Host.Outcome State Fault Refusal :=
  .next { s with chip := s.chip.cohRequest link m .own }

def execUpgrade (link : Nat) (m : Msg) (s : State) : Host.Outcome State Fault Refusal :=
  .next { s with chip := s.chip.cohRequest link m .upgrade }

def execWbData (link : Nat) (m : Msg) (s : State) : Host.Outcome State Fault Refusal :=
  .next { s with chip := s.chip.notice link m .data }

def execWbClean (link : Nat) (m : Msg) (s : State) : Host.Outcome State Fault Refusal :=
  .next { s with chip := s.chip.notice link m .clean }

def execEvictS (link : Nat) (m : Msg) (s : State) : Host.Outcome State Fault Refusal :=
  .next { s with chip := s.chip.notice link m .evict }

def execSnpAck (link : Nat) (m : Msg) (s : State) : Host.Outcome State Fault Refusal :=
  .next { s with chip := s.chip.snoopAnswer link m false }

def execSnpAckData (link : Nat) (m : Msg) (s : State) : Host.Outcome State Fault Refusal :=
  .next { s with chip := s.chip.snoopAnswer link m true }

def execAgentJoin (d : Desc) (s : State) : Host.Outcome State Fault Refusal :=
  .next { s with chip := s.chip.live .coh (fun c => c.agentJoin d) }

def execAgentLeave (d : Desc) (s : State) : Host.Outcome State Fault Refusal :=
  .next { s with chip := s.chip.live .coh (fun c => c.agentLeave d) }

def execAgentLeaveDone (agent : Nat) (s : State) : Host.Outcome State Fault Refusal :=
  .next { s with chip := s.chip.live .coh (fun c => c.agentLeft agent) }

def execAgentLoss (agent : Nat) (why : LossCause) (s : State) : Host.Outcome State Fault Refusal :=
  .next { s with chip := s.chip.live .coh (fun c => c.agentLost agent why) }

end Sys2Proof.Machine
end

