-- ==== Sys2Proof/Machine/Units.lean ====
section
/-! DEFINITION. Accesses of the internal units to pool memory: the order of checks, the snoops of R273, whole reads and writes. -/

namespace Sys2Proof.Machine

/-- The outcome of a unit's access: it waits for snoop answers and is presented again, or it ended with a status, the failing
step of R72 (0 for none), the entry it was admitted under, and the data of a read. -/
inductive Got
  | wait
  | got (st : Status) (step : Nat) (x : Option ElbE) (data : List Byte)
  deriving DecidableEq, Repr

/-- A request of a unit under a descriptor's context. -/
def unitReq (ctx pla n : Nat) (gen : Option Nat) (need : Nat) (write : Bool) : Req :=
  { ctx := ctx, src := .internal, pla := pla, bytes := n, gen := gen, need := need, write := write, coh := false }

/-! ### Lent extents (R82) -/

/-- Whether an access to a lent extent is the one that a unit's request makes. -/
def UnitLend.of (u : UnitLend) (r : Req) : Bool := u.ctx == r.ctx && u.pla == r.pla && u.bytes == r.bytes && u.write == r.write

/-- A unit's access to a lent extent is forwarded, unless it has been; whether the lender has answered. Without a free entry it waits. -/
def Chip.askLender (c : Chip) (x : ElbE) (r : Req) (data : List Byte) : Chip × Bool :=
  match c.ext.units.find? (fun u => u.of r) with
  | some u => (c, u.ans.isSome)
  | none =>
    let (t, c') := c.extTxn
    match c'.lend x (c'.ownMsg (if r.write then 0x02 else 0x01) x.e.lender t 0 0 r.bytes data) r.pla 9 with
    | (c', true) =>
      (c'.setExt { c'.ext with units := c'.ext.units ++ [⟨r.ctx, r.pla, r.bytes, r.write, t, c.esc.bounds, none⟩] }, false)
    | (_, false) => (c, false)

/-- The lender's answer taken. -/
def Chip.takeLent (c : Chip) (r : Req) : Chip × Status × List Byte :=
  match c.ext.units.find? (fun u => u.of r) with
  | some u =>
    let (st, d) := u.ans.getD (.timeout, [])
    (c.setExt { c.ext with units := c.ext.units.filter (fun y => !y.of r) }, st, d)
  | none => (c, .timeout, [])

/-- The answer of a lender to a unit's access, by its transaction. -/
def Chip.unitAnswer (c : Chip) (txn : Nat) (st : Status) (data : List Byte) : Chip :=
  c.setExt { c.ext with units := c.ext.units.map (fun u => if u.txn = txn && u.ans.isNone then { u with ans := some (st, data) } else u) }

/-! ### Accesses cut at 4 KiB boundaries (R59) -/

/-- The pieces of an access: none crosses a 4 KiB boundary. -/
def Req.pieces (r : Req) : List Req :=
  if r.bytes = 0 then [r]
  else (tilesOf r.pla r.bytes).map (fun k =>
    let a := max r.pla (k * 4096)
    { r with pla := a, bytes := min (r.pla + r.bytes) (k * 4096 + 4096) - a })

/-- Every piece checked in order; the first that is refused ends it with its status and step. -/
def Chip.admitPieces (c : Chip) (elb port : Nat) (r : Req) : Chip × Sum (Status × Nat) (List (Req × ElbE)) :=
  r.pieces.foldl (fun (a : Chip × Sum (Status × Nat) (List (Req × ElbE))) p =>
    match a with
    | (c, .inl e) => (c, .inl e)
    | (c, .inr l) =>
      let (c, v) := if r.write then (match c.check elb p with | (c, v, _) => (c, v)) else (match c.checkRead elb port p with | (c, v, _, _) => (c, v))
      match v with
      | .retry => (c, .inl (.busyRetry, 0))
      | .refuse n st _ => (c, .inl (st, n))
      | .granted x => (c, .inr (l ++ [(p, x)]))) (c, .inr [])

/-- Whether a tile lies wholly within a range. -/
def tileWithin (pla n tile : Nat) : Bool := pla ≤ tile * 4096 && tile * 4096 + 4096 ≤ pla + n

/-- The snoops that the table's lines for a tile need where the table lies in a COH extent (R273); whether none is outstanding. -/
def Chip.tableReady (c : Chip) (x : ElbE) (pla : Nat) : Chip × Bool :=
  if x.e.tchk = 0 || x.e.lent || !c.bit rTCHK_CTL 2 then (c, true)
  else if !c.coh.posts.isEmpty then (c.cohPump, false)
  else
    let k := (x.target pla).ppa / 4096
    [(c.staleAt k, 1), (c.checkAt k, 4)].foldl (fun (a : Chip × Bool) e =>
      match a.1.check elbSeq (a.1.tableReq e.1 e.2 true) with
      | (c, .granted y, _) =>
        let (c, ok) := c.probe 26 y e.1 e.2 true false
        (c, a.2 && ok)
      | (c, _, _) => (c, a.2)) (c, true)

/-- The table's lines for a tile have been accessed. -/
def Chip.tableDone (c : Chip) (x : ElbE) (pla : Nat) : Chip :=
  if x.e.tchk = 0 || x.e.lent then c
  else
    let k := (x.target pla).ppa / 4096
    ((c.leaveUnit (c.staleAt k) 1 true).leaveUnit (c.checkAt k) 4 true).cohPump

/-- Whether a piece of a read can be made now: nothing that it needs of a snoop, the partner or a lender is outstanding, no stripe that must be
rebuilt is held (12_integrity.md R356), and its port's cap allows it. -/
def Chip.readyRead (c : Chip) (port : Nat) (x : ElbE) (r : Req) : Chip × Bool :=
  if x.e.lent then c.askLender x r []
  else
    let t := x.target r.pla
    let (c, clear) := c.probe port x r.pla r.bytes false false
    let (c, have') := c.askLost t (linesOf t.ppa r.bytes)
    let (c, table) := c.tableReady x r.pla
    let (c, free) := c.mayLock (((linesOf t.ppa r.bytes).filter (fun l => !c.clean l)).map stripeOf)
    (c, clear && have' && table && free && c.mayAccess port)

/-- A piece of a read made: a whole tile of a tile-checked extent is verified where `verify` says so (R220); its status, data and whether it
may be used. -/
def Chip.takeRead (c : Chip) (port : Nat) (verify : Bool) (x : ElbE) (r : Req) : Chip × Status × List Byte × Bool :=
  if x.e.lent then
    let (c, st, d) := c.takeLent r
    (c, st, d, true)
  else
    let t := x.target r.pla
    let (c, lost) := c.askedStatus t (linesOf t.ppa r.bytes) .ok
    let (c, st, d) := c.readRange port t r.bytes
    let st := st.worse lost
    let c := c.probed x r.pla r.bytes false
    if verify && st.good && x.e.tchk != 0 && tileWithin r.pla r.bytes (r.pla / 4096) then
      let (c, ok) := c.verifyTile port t d
      (c.tableDone x r.pla, st, d, ok)
    else (c, st, d, true)

/-- A read of pool memory, piece by piece: nothing is read while a piece must wait. -/
def Chip.readPool (c : Chip) (elb port : Nat) (verify : Bool) (r : Req) : Chip × Got :=
  match c.admitPieces elb port r with
  | (c, .inl (st, n)) => (c, .got st n none [])
  | (c, .inr l) =>
    let (c, ready) := l.foldl (fun (a : Chip × Bool) e =>
      let (c, ok) := a.1.readyRead port e.2 e.1
      (c, a.2 && ok)) (c, true)
    if !ready then (c, .wait)
    else
      let (c, st, d, ok) := l.foldl (fun (a : Chip × Status × List Byte × Bool) e =>
        let (c, st, d, ok) := a.1.takeRead port verify e.2 e.1
        (c, a.2.1.worse st, a.2.2.1 ++ d, a.2.2.2 && ok)) (c, .ok, [], true)
      let x := l.head?.map (fun e => e.2)
      if st.good && !ok then (c, .got .checkFail 0 x []) else (c, .got st 0 x (if st.good then d else []))

/-- A read of pool memory. -/
def Chip.poolRead (c : Chip) (elb port : Nat) (r : Req) : Chip × Got := c.readPool elb port false r

/-- A range read by an operator: whole tiles of a tile-checked extent are verified (R220). -/
def Chip.readTiles (c : Chip) (elb port : Nat) (r : Req) : Chip × Got := c.readPool elb port true r

/-- Whether a write covers whole lines. -/
def Req.wholeLines (r : Req) : Bool := r.pla % 64 = 0 && r.bytes % 64 = 0

/-- Whether a piece of a write can be made now. -/
def Chip.readyWrite (c : Chip) (port : Nat) (x : ElbE) (r : Req) (data : List Byte) : Chip × Bool :=
  if x.e.lent then c.askLender x r data
  else
    let t := x.target r.pla
    let (c, clear) := c.probe port x r.pla r.bytes true r.wholeLines
    let (c, have') := c.askLost t (partLines t.ppa r.bytes (allOn r.bytes))
    let (c, table) := c.tableReady x r.pla
    let (c, free) := c.mayLock ((linesOf t.ppa r.bytes).map stripeOf)
    (c, clear && have' && table && free && c.mayAccess port)

/-- A piece of a write made. A tile that it covers in part becomes stale, and one that it covers whole gets its check (R219); data that
a snoop of a wholly covered line returns is discarded. -/
def Chip.takeWrite (c : Chip) (port : Nat) (x : ElbE) (r : Req) (data : List Byte) : Chip × Status :=
  if x.e.lent then
    let (c, st, _) := c.takeLent r
    (c, st)
  else
    let t := x.target r.pla
    let whole := tileWithin r.pla r.bytes (r.pla / 4096)
    let (c, _) := c.askedStatus t (partLines t.ppa r.bytes (allOn r.bytes)) .ok
    let c := if whole then c else c.markStale port t r.bytes
    let (c, st) := c.writeRange port t data (allOn data.length)
    (((if st.good && whole then c.storeCheck port t data else c).probed x r.pla r.bytes true).tableDone x r.pla, st)

/-- A write of pool memory, piece by piece: nothing is written while a piece must wait. -/
def Chip.poolWrite (c : Chip) (elb port : Nat) (r : Req) (data : List Byte) : Chip × Got :=
  let part (p : Req) : List Byte := slice data (p.pla - r.pla) p.bytes
  match c.admitPieces elb port { r with write := true } with
  | (c, .inl (st, n)) => (c, .got st n none [])
  | (c, .inr l) =>
    let (c, ready) := l.foldl (fun (a : Chip × Bool) e =>
      let (c, ok) := a.1.readyWrite port e.2 e.1 (part e.1)
      (c, a.2 && ok)) (c, true)
    if !ready then (c, .wait)
    else
      let (c, st) := l.foldl (fun (a : Chip × Status) e =>
        let (c, st) := a.1.takeWrite port e.2 e.1 (part e.1)
        (c, a.2.worse st)) (c, .ok)
      (c, .got st 0 (l.head?.map (fun e => e.2)) [])

/-- What a list of accesses needs of snoops, the partner and lenders, each with the data of a write (none: a write to a lender is made when
its data is known); whether nothing is outstanding. An access refused by the order of checks needs nothing. -/
def Chip.clearFor (c : Chip) (elb port : Nat) (rs : List (Req × List Byte)) : Chip × Bool :=
  (rs.flatMap (fun e => e.1.pieces.map (fun p => (p, slice e.2 (p.pla - e.1.pla) p.bytes)))).foldl (fun (a : Chip × Bool) e =>
    match a.1.check elb e.1 with
    | (c, .granted x, _) =>
      let (c, ok) := if x.e.lent && e.2.isEmpty then (c, true) else if e.1.write then c.readyWrite port x e.1 e.2 else c.readyRead port x e.1
      (c, a.2 && ok)
    | (c, _, _) => (c, a.2)) (c, true)

/-- Whether a request would be admitted over its whole span, with the failing status and step. -/
def Chip.wouldAdmit (c : Chip) (elb : Nat) (r : Req) : Chip × Option (Status × Nat) × Option ElbE :=
  let (c, v, _) := c.check elb r
  match v with
  | .retry => (c, some (.busyRetry, 0), none)
  | .refuse n st _ => (c, some (st, n), none)
  | .granted x => (c, none, some x)

/-- The same for a read, whose lines a missing directory walk reads (R34). -/
def Chip.wouldRead (c : Chip) (elb port : Nat) (r : Req) : Chip × Option (Status × Nat) × Option ElbE :=
  let (c, v, _, _) := c.checkRead elb port r
  match v with
  | .retry => (c, some (.busyRetry, 0), none)
  | .refuse n st _ => (c, some (st, n), none)
  | .granted x => (c, none, some x)

end Sys2Proof.Machine
end

