-- ==== Sys2Proof/Machine/Debug.lean ====
section
/-! DEFINITION. Observation (16_observation.md): the global stop, the trace, the tensor watch. -/

namespace Sys2Proof.Machine

/-! ### Global stop (R471, R472) -/

/-- Causes of a stop. -/
def causeReg : Nat := 1
def causeWatch : Nat := 2
def causeTrace : Nat := 3
def causePin : Nat := 4
def causeJtag : Nat := 5

/-- A global stop: the blocks hold their state, CAUSE names it, and GSTOP_N falls with PIN_OUT_EN. Below NONINVASIVE, and in
a package already stopped, it does nothing. -/
def Chip.stopAll (c : Chip) (cause : Nat) : Chip :=
  if c.dbgLevel = 0 || c.stopped then c
  else
    let c := (c.setBit 0x50010 8 true).set 0x50010 12 4 cause
    if c.bit 0x50010 4 then c.emit (.gstopN false) else c

/-- Whether an operator's slice has not finished: a tile of it is in a unit, or has not been issued to one (R46). Operators that arm regions have
no slices (07_operators.md R194). -/
def Op.unfinished (o : Op) : Bool :=
  o.seqn < 16 && o.slot.isNone && (o.busy != 0 || (o.issue < o.next && o.stop.isNone && !o.timedOut))

/-- The slices still running are counted as overruns, once each (02_beat_and_commit.md R46). -/
def Chip.overruns (c : Chip) : Chip :=
  c.eng.ops.foldl (fun c e =>
    if !e.2.unfinished || e.2.late then c
    else ((c.setEng { c.eng with ops := put c.eng.ops e.1 { e.2 with late := true } }).bump 0x500028 1).event .seq e.2.seqn 0x02 1
      (c.carries e.2.d.ctx e.2.d.tensorTag)) c

/-- RESUME restarts every block; it is ignored while SCAN_DIRTY is 1. GSTOP_N is released. A slice that spans the stop is an overrun. -/
def Chip.resume (c : Chip) : Chip :=
  if c.dbgLevel = 0 || !c.stopped || c.bit 0x50010 9 then c
  else
    let c := (c.setBit 0x50010 8 false).overruns
    if c.bit 0x50010 4 then c.emit (.gstopN true) else c

/-! ### Trace (R467 to R470) -/

def rTRC_STATUS : Nat := 0x1300104
def rTRC_WRITE_PTR : Nat := 0x1300110
def rTRC_TRIG_PTR : Nat := 0x1300118
def rTRC_DROPPED : Nat := 0x1300120

/-- TRC_CTL's fields, from the active copy. -/
def Chip.trcMode (c : Chip) : Nat := c.aget 0x1300000 0 2
def Chip.trcSpill (c : Chip) : Bool := c.aget 0x1300000 9 1 == 1

/-- The capacity C of R469: the buffer, or the spill region. -/
def Chip.trcCap (c : Chip) : Nat := if c.trcSpill then c.aget 0x1300020 0 13 * 32768 else 131072

def Chip.capturing (c : Chip) : Bool := c.bit rTRC_STATUS 0
def Chip.triggered (c : Chip) : Bool := c.bit rTRC_STATUS 1

/-- The 32 bytes of an entry (R467): ADDRESS bits [20:0] and TAG are 0 for a keyed extent. -/
def traceBytes (cyc beat : Nat) (e : TraceEntry) : List Byte :=
  bytesLE 8 (cyc % 2 ^ 18 + beat % 2 ^ 46 * 2 ^ 18) ++ [e.kind, e.block, e.inst, e.code]
  ++ bytesLE 2 e.ctx.toNat ++ bytesLE 2 e.unit.toNat
  ++ bytesLE 8 (if e.keyed then e.addr.toNat / 2 ^ 21 * 2 ^ 21 else e.addr.toNat)
  ++ bytesLE 4 (if e.keyed then 0 else e.tag.toNat) ++ bytesLE 4 e.aux.toNat

/-- An entry of DBG's own: a GAP or a TRIGGER. -/
def Chip.ownEntry (c : Chip) (kind code : Byte) (aux : Nat) : List Byte :=
  traceBytes c.esc.cyc c.esc.beat.toNat
    { kind := kind, block := 0x15, inst := 0, code := code, ctx := 0, unit := 0, addr := 0, tag := 0, aux := BitVec.ofNat 32 aux }

/-- The end of a capture (R469): DONE, and a global stop if STOP_ON_DONE is 1. -/
def Chip.endCapture (c : Chip) : Chip :=
  let c := (c.setBit rTRC_STATUS 0 false).setBit rTRC_STATUS 2 true
  if c.aget 0x1300000 10 1 == 1 then c.stopAll causeTrace else c

/-- One entry written into the buffer: the write pointer, the entries that follow the TRIGGER, and the capture's end. -/
def Chip.putEntry (c : Chip) (e : List Byte) : Chip :=
  let n := c.dbg.written
  let isTrig := (e.getD 8 0) == 0x0C
  let c := c.setDbg { c.dbg with buf := put c.dbg.buf (n % 131072) e, written := n + 1 }
  let c := c.set64 rTRC_WRITE_PTR (n + 1)
  let c := if c.trcMode = 1 && n ≥ c.trcCap then c.setBit rTRC_STATUS 3 true else c
  let c := if isTrig then (c.set64 rTRC_TRIG_PTR n).setDbg
      { c.dbg with post := if c.trcMode = 2 then some (c.trcCap * c.aget 0x1300000 2 7 / 100) else none }
    else c.setDbg { c.dbg with post := c.dbg.post.map (· - 1) }
  if c.trcMode = 0 && n + 1 ≥ c.trcCap then c.endCapture
  else if c.dbg.post == some 0 then c.endCapture else c

/-- Whether the buffer is full: it keeps one entry for a GAP while it waits for its spill (R468). -/
def Chip.trcFull (c : Chip) : Bool := c.trcSpill && c.dbg.written - c.dbg.spilled ≥ 131071

/-- The oldest waiting entry written, after the GAP of the drops before it (R468). -/
def Chip.writeTrace (c : Chip) : Chip :=
  match c.dbg.fifo with
  | [] => c
  | e :: rest =>
    let c := c.setDbg { c.dbg with fifo := rest, wrCount := c.dbg.wrCount + 1 }
    if !c.capturing then c
    else
      let gap := c.dbg.run
      let c := if gap > 0 then (c.setDbg { c.dbg with run := 0 }).putEntry (c.ownEntry 0xFF 0 (min gap (2 ^ 32 - 1))) else c
      if c.capturing then c.putEntry e else c

/-- The entries that DBG can write in this DBGCLK cycle: two per cycle of 2.5 CORECLK cycles, while the buffer has room. -/
def Chip.drainTrace (c : Chip) : Chip :=
  let k := c.esc.now * 2 / 5
  let c := if c.dbg.wrCyc = k then c else c.setDbg { c.dbg with wrCyc := k, wrCount := 0 }
  (upTo 2).foldl (fun c _ => if c.dbg.wrCount < 2 && !c.trcFull then c.writeTrace else c) c

/-- An entry dropped: counted, and one more in the run (R468). -/
def Chip.dropTrace (c : Chip) : Chip :=
  (c.set64 rTRC_DROPPED (c.get64 rTRC_DROPPED + 1)).setDbg { c.dbg with run := c.dbg.run + 1 }

/-- The trigger (R469): it happens once in a capture, and its entry is never dropped: it displaces the oldest waiting entry of
a full FIFO. The manual gives no code for its source: a free value (log 2). -/
def Chip.trigger (c : Chip) : Chip :=
  if !c.capturing || c.triggered then c
  else
    let (v, c) := (c.setBit rTRC_STATUS 1 true).free
    let c := if c.dbg.fifo.length ≥ 256 then (c.setDbg { c.dbg with fifo := c.dbg.fifo.drop 1 }).dropTrace else c
    (c.setDbg { c.dbg with fifo := c.dbg.fifo ++ [c.ownEntry 0x0C (v.setWidth 8) c.dbg.hits] }).drainTrace

/-- Whether an entry matches TRC_TRIG and TRC_TRIG_CTX. -/
def Chip.trigMatch (c : Chip) (e : TraceEntry) : Bool :=
  c.aget 0x1300008 0 8 == e.kind.toNat
  && (c.aget 0x1300008 8 8 == 0xFF || c.aget 0x1300008 8 8 == e.block.toNat)
  && (c.aget 0x1300008 24 1 == 1 || c.aget 0x1300008 16 8 == e.code.toNat)
  && (c.aget 0x130000C 16 1 == 1 || c.aget 0x130000C 0 16 == e.ctx.toNat)

/-- Whether the mask takes a kind: GAP, TRIGGER and STOP always. -/
def Chip.kindTaken (c : Chip) (k : Nat) : Bool :=
  k == 0xFF || k == 0x0C || k == 0x0D || (k < 32 && bitOf (c.actWord 0x1300004).toNat k)

/-- An entry from a block (R468, R469): excluded by the mask, dropped where the FIFO or the buffer is full, or taken; the
TRIG_COUNT-th match triggers the capture. -/
def Chip.traceIn (c : Chip) (e : TraceEntry) : Chip :=
  if !c.capturing || !c.kindTaken e.kind.toNat then c
  else
    let c := c.drainTrace
    let c := if c.dbg.fifo.length ≥ 256 || c.trcFull then c.dropTrace
      else (c.setDbg { c.dbg with fifo := c.dbg.fifo ++ [traceBytes c.esc.cyc c.esc.beat.toNat e] }).drainTrace
    if c.trigMatch e then
      let c := c.setDbg { c.dbg with hits := c.dbg.hits + 1 }
      if c.dbg.hits = c.aget 0x1300010 0 16 then c.trigger else c
    else c

/-- ARM (R469): a new capture. -/
def Chip.armTrace (c : Chip) : Chip :=
  if c.dbgLevel = 0 || c.capturing then c
  else
    let c := c.setDbg { c.dbg with fifo := [], buf := [], written := 0, spilled := 0, run := 0, hits := 0, post := none }
    let c := ((c.set64 rTRC_WRITE_PTR 0).set64 rTRC_TRIG_PTR 0).set64 rTRC_DROPPED 0
    c.set rTRC_STATUS 0 4 1

/-- The next 4 KiB tile of the buffer spilled under context 0 (R470), and at the end of a capture what is left; it waits for
its budget, and while the package is stopped or the spine in reset. -/
def Chip.spillTile (c : Chip) : Chip :=
  let avail := c.dbg.written - c.dbg.spilled
  let n := if avail ≥ 128 then 128 else if c.capturing then 0 else avail
  if !c.trcSpill || n = 0 || !c.mayAccess 31 || c.held.contains .spine then c
  else
    let data := ((upTo n).map (fun i => lookD c.dbg.buf ((c.dbg.spilled + i) % 131072) (zeros 32))).flatten
    let base := (c.actWord 0x1300018).toNat + c.aget 0x130001C 0 16 * 2 ^ 32
    let r : Req :=
      { ctx := 0, src := .internal, pla := base + c.dbg.spilled * 32 % (c.aget 0x1300020 0 13 * 2 ^ 20),
        bytes := data.length, gen := some (c.aget 0x130001C 16 8), need := rWrite, write := true, coh := false }
    match c.poolWrite elbInt 31 r data with
    | (c, .wait) => c
    | (c, .got .busyRetry _ _ _) => c
    | (c, .got _ _ _ _) => (c.setDbg { c.dbg with spilled := c.dbg.spilled + n }).drainTrace

/-! ### Tensor watch (R465, R466) -/

/-- A tile as FLD has encoded it: its descriptor's tensor tag and step, format, PLA, and each element's value with whether its
encoding was counted. -/
structure Watched where
  tag : Nat
  step : Nat
  fmt : Nat
  pla : Nat
  elems : List (Num × Bool)
  deriving DecidableEq, Repr

/-- Whether entry `n` applies to a tile. -/
def Chip.watchApplies (c : Chip) (n : Nat) (w : Watched) : Bool :=
  let o := 0x50100 + 0x20 * n
  c.aget (o + 12) 0 1 == 1 && (c.actWord o).toNat == w.tag && (c.actWord (o + 4)).toNat ≤ w.step
  && w.step ≤ (c.actWord (o + 8)).toNat && c.aget (o + 12) 1 4 == w.fmt

/-- Whether an element matches a COND bit of entry `n`: NAN, INF, ABOVE, SAT. -/
def Chip.watchMatch (c : Chip) (n : Nat) (e : Num × Bool) : Bool :=
  let o := 0x50100 + 0x20 * n
  (c.aget (o + 12) 5 1 == 1 && e.1.isNan) || (c.aget (o + 12) 6 1 == 1 && e.1.isInf)
  || (c.aget (o + 12) 7 1 == 1 && e.1.finite && (fp32.dec (c.actWord (o + 16)).toNat).abs.lt e.1.abs)
  || (c.aget (o + 12) 8 1 == 1 && e.2)

/-- An entry's count and first match recorded. -/
def Chip.watchHit (c : Chip) (n : Nat) (w : Watched) (matches' : List Nat) : Chip :=
  let o := 0x51000 + 0x20 * n
  let c := c.bump o matches'.length
  if c.bit (o + 12) 31 then c
  else
    let c := ((c.setWord (o + 8) (BitVec.ofNat 32 w.pla)).set (o + 12) 0 16 (w.pla / 2 ^ 32)).setBit (o + 12) 31 true
    let c := (c.setWord (o + 16) (BitVec.ofNat 32 w.step)).set (o + 20) 0 13 (matches'.headD 0)
    c.setWord (o + 24) (c.esc.beat.setWidth 32)

/-- A tile watched by every entry that applies: the counts, and the strongest action: 0, 1 TRIGGER or 2 STOP. -/
def Chip.watch (c : Chip) (w : Watched) : Chip × Nat :=
  let (c, act) := (upTo 32).foldl (fun (a : Chip × Nat) n =>
    if a.1.watchApplies n w then
      let ms := (w.elems.zipIdx.filter (fun e => a.1.watchMatch n e.1)).map (fun e => e.2)
      if ms.isEmpty then a
      else
        let k := a.1.aget (0x5010C + 0x20 * n) 9 2
        (a.1.watchHit n w ms, max a.2 (if k = 3 then 0 else k))
    else a) (c, 0)
  if act = 1 && c.aget 0x1300008 25 1 == 1 then (c.trigger, act)
  else if act = 2 then (c.stopAll causeWatch, act)
  else (c, act)

/-! ### Meanings -/

def execDbgStop (who : Who) (s : State) : Host.Outcome State Fault Refusal :=
  .next { s with chip := s.chip.regCmd who 0x50010 (fun c => c.stopAll causeReg) }

def execDbgResume (who : Who) (s : State) : Host.Outcome State Fault Refusal :=
  .next { s with chip := s.chip.regCmd who 0x50010 (fun c => c.resume) }

/-- A falling edge on GSTOP_N, with PIN_IN_EN. -/
def execGstopNFall (s : State) : Host.Outcome State Fault Refusal :=
  .next { s with chip := if s.chip.bit 0x50010 3 then s.chip.stopAll causePin else s.chip }

def execJtagStop (s : State) : Host.Outcome State Fault Refusal := .next { s with chip := s.chip.stopAll causeJtag }

/-- Scan-out needs the INVASIVE level and a stopped package (R472); the state it reads is destroyed, so the package stays
stopped until a reset. -/
def execScanOut (s : State) : Host.Outcome State Fault Refusal :=
  .next { s with chip := if s.chip.dbgLevel = 2 && s.chip.stopped then s.chip.setBit 0x50010 9 true else s.chip }

def execTrcArm (who : Who) (s : State) : Host.Outcome State Fault Refusal :=
  .next { s with chip := s.chip.regCmd who 0x1300100 (fun c => c.armTrace) }

def execTrcForceTrig (who : Who) (s : State) : Host.Outcome State Fault Refusal :=
  .next { s with chip := s.chip.regCmd who 0x1300100 (fun c => if c.dbgLevel = 0 then c else c.trigger) }

def execTraceEntry (e : TraceEntry) (s : State) : Host.Outcome State Fault Refusal :=
  .next { s with chip := s.chip.traceIn e }

def execTraceSpill (s : State) : Host.Outcome State Fault Refusal :=
  .next { s with chip := if s.chip.stopped then s.chip else s.chip.spillTile }

end Sys2Proof.Machine
end

