-- ==== Sys2Proof/Machine/Optim.lean ====
section
/-! DEFINITION. The arithmetic of the optimiser steps and complications (07_operators.md R209 to R216), on values. -/

namespace Sys2Proof.Machine

/-! ### Optimiser steps -/

/-- The constants of a descriptor (R209, R210): algorithm, arithmetic format, the record's values and those the sequencer
computes, each rounded to the arithmetic format. -/
structure OptC where
  algo : Nat
  fmt : FF
  lr : Num
  b1 : Num
  b2 : Num
  eps : Num
  wd : Num
  scale : Num
  a1 : Num
  a2 : Num
  k : Num
  c1 : Num
  c2 : Num
  t : Nat
  seed : Nat
  deriving DecidableEq, Repr

/-- An exact power with a positive exponent. -/
def Num.pow (x : Num) (t : Nat) : Num :=
  match x with
  | .nan => .nan
  | .inf s => .inf (s && t % 2 = 1)
  | .fin s m e => .fin (s && t % 2 = 1) (m ^ t) (e * t)

/-- beta ^ t in FP64: one operation of R210's formulas, so rounded once (DEDUCED, log 15). -/
def betaPow (beta t : Nat) : Num := if t = 0 then .one else fp64.rnd ((fp32.dec beta).pow t)

/-- The constants from the 64 bytes of the record. -/
def optConst (algo : Nat) (f : FF) (r : List Byte) : OptC :=
  let w (i : Nat) : Nat := ofBytesLE (slice r (4 * i) 4)
  let v (i : Nat) : Num := fp32.dec (w i)
  let d (x : Num) : Num := fp64.rnd x
  let t := w 7
  let one := Num.one
  let lr := v 0
  let a1 := if algo = 2 then d (one.add (v 2).neg) else d (one.add (v 1).neg)
  { algo := algo, fmt := f, lr := f.rnd lr, b1 := f.rnd (v 1), b2 := f.rnd (v 2), eps := f.rnd (v 3), wd := f.rnd (v 4),
    scale := f.rnd (v 5), a1 := f.rnd a1, a2 := f.rnd (d (one.add (v 2).neg)),
    k := f.rnd (d (one.add (d (lr.mul (v 4))).neg)),
    c1 := f.rnd (d (lr.div (d (one.add (betaPow (w 1) t).neg)))),
    c2 := f.rnd (d (one.div (d (one.add (betaPow (w 2) t).neg)))), t := t, seed := w 6 }

/-- sign(x) of R211; of NaN it is a free value (log 15). -/
def numSign (x : Num) : Num :=
  if x.isNan then fp32.dec Config.signOfNan.toNat else if x.isZero then .zero else if x.isNeg then Num.one.neg else .one

/-- One element updated (R211): the new w, m and v. -/
def optElem (o : OptC) (w m v gsrc : Num) : Num × Num × Num :=
  let mul (a b : Num) : Num := o.fmt.rnd (a.mul b)
  let add (a b : Num) : Num := o.fmt.rnd (a.add b)
  let fma (a b c : Num) : Num := o.fmt.rnd ((a.mul b).add c)
  let div (a b : Num) : Num := o.fmt.rnd (a.div b)
  if o.algo = 0 then
    let g := mul o.scale gsrc
    let m := fma o.b1 m (mul o.a1 g)
    let v := fma o.b2 v (mul o.a2 (mul g g))
    let d := add (o.fmt.rnd (mul v o.c2).sqrt) o.eps
    (fma o.k w (div (mul m o.c1) d).neg, m, v)
  else if o.algo = 1 then
    let g := mul o.scale gsrc
    let c := fma o.b1 m (mul o.a1 g)
    (fma o.k w (mul o.lr (numSign c)).neg, fma o.b2 m (mul o.a2 g), v)
  else
    let g := fma o.wd w (mul o.scale gsrc)
    let m := if o.t = 1 then g else fma o.b1 m (mul o.a1 g)
    (fma o.lr.neg m w, m, v)

/-! ### Complications (R213 to R216) -/

/-- The fields of a step word. -/
def stepOp (x : Nat) : Nat := bitsOf x 0 4
def stepD (x : Nat) : Nat := bitsOf x 4 3
def stepA (x : Nat) : Nat := bitsOf x 7 3
def stepB (x : Nat) : Nat := bitsOf x 10 4

/-- Two units in the last place of FP32 at a positive value. -/
def twoUlps (v : Num) : Num :=
  let b := (fp32.enc .rtz false v).1 % 2 ^ 31
  ((fp32.dec (b + 1)).add (fp32.dec b).neg).mul (.fin false 2 0)

/-- Whether |y| differs from 1 / |x| by at most 2 units; from 1 / sqrt x. The comparisons are exact. -/
def nearRcp (x y : Num) : Bool :=
  let u := twoUlps (Num.one.div x.abs)
  y.finite && u.finite && y.isNeg == x.isNeg
  && !(u.mul x.abs).lt (((y.abs.mul x.abs).add Num.one.neg).abs)
def nearRsqrt (x y : Num) : Bool :=
  let u := twoUlps (Num.one.div x.sqrt)
  let lo := y.add u.neg
  let hi := y.add u
  y.finite && u.finite && !y.isNeg && (lo.isNeg || !Num.one.lt ((lo.mul lo).mul x)) && !((hi.mul hi).mul x).lt Num.one

/-- RCP and RSQRT (R216): the exact cases, and otherwise a free function of the operand's bits within 2 units in the last place; where the free
function lies outside them, or the exact value beyond FP32, the correctly rounded value (log 5). -/
def rcpOf (x : Num) : Num :=
  if x.isNan then .nan
  else if x.isInf then .fin x.isNeg 0 0
  else if x.isZero then .inf x.isNeg
  else
    let y := fp32.dec (Config.rcp (BitVec.ofNat 32 (fp32.enc .rne false x).1)).toNat
    if nearRcp x y then y else fp32.rnd (Num.one.div x)
def rsqrtOf (x : Num) : Num :=
  if x.isNan then .nan
  else if x.isZero then .inf x.isNeg
  else if x.isNeg then .nan
  else if x.isInf then .zero
  else
    let y := fp32.dec (Config.rsqrt (BitVec.ofNat 32 (fp32.enc .rne false x).1)).toNat
    if nearRsqrt x y then y else fp32.rnd (Num.one.div x.sqrt)

/-- One step over the eight registers: the register written, and whether a LOAD was a special event. -/
def compStep (consts regs : List Num) (a b : Num) (x : Nat) : List Num × Bool :=
  let xa := regs.getD (stepA x) .zero
  let bv := if stepB x < 8 then regs.getD (stepB x) .zero else consts.getD (stepB x - 8) .zero
  let ck := consts.getD (stepB x - 8) .zero
  let ck1 := consts.getD (stepB x - 7) .zero
  let w (v : Num) : List Num := setAt regs (stepD x) (fun _ => fp32.rnd v)
  match stepOp x with
  | 1 =>
    let (bits, s) := fp32.enc .rne false (if stepA x = 0 then a else b)
    (setAt regs (stepD x) (fun _ => fp32.dec bits), s)
  | 2 => (w ((xa.mul ck).add ck1), false)
  | 3 => (w (xa.add bv), false)
  | 4 => (w (xa.mul bv), false)
  | 5 => (w ((xa.mul bv).add (regs.getD (stepD x) .zero)), false)
  | 6 => (w ((xa.maximum ck).minimum ck1), false)
  | 7 => (w xa.abs, false)
  | 8 => (w (xa.maximum bv), false)
  | 9 => (w (xa.minimum bv), false)
  | 10 => (w (rcpOf xa), false)
  | 11 => (w (rsqrtOf xa), false)
  | _ => (regs, false)

/-- The steps up to the first NOP. -/
def compSteps (words : List Nat) : List Nat := words.takeWhile (fun x => stepOp x != 0)

/-- An element through the chain: the output register's value, and the special events of its LOADs. -/
def compElem (consts : List Num) (words : List Nat) (outReg : Nat) (a b : Num) : Num × Nat :=
  let (regs, n) := (compSteps words).foldl (fun (r : List Num × Nat) x =>
    let (regs, s) := compStep consts r.1 a b x
    (regs, r.2 + s.toNat)) (List.replicate 8 Num.zero, 0)
  (regs.getD outReg .zero, n)

end Sys2Proof.Machine
end

