-- ==== Sys2Proof/Machine/Xlt.lean ====
section
/-! DEFINITION. Host translation (05_host_translation.md): domains, the mirror's walk, the TLB, invalidation. -/

namespace Sys2Proof.Machine

def rXLT_CTL : Nat := 0x300000
def rXLT_TLB_MISSES : Nat := 0x300010
def rXLT_WALK_WAITS : Nat := 0x300014
def rXLT_STALE_REDONE : Nat := 0x300018

/-- A context's map entry (R135). -/
def Chip.mapOf (c : Chip) (ctx : Nat) : MapE := lookD c.xlt.maps ctx (if ctx = 0 then ⟨0, true, true⟩ else {})
def Chip.setMap (c : Chip) (ctx : Nat) (m : MapE) : Chip := c.setXlt { c.xlt with maps := put c.xlt.maps ctx m }

/-! ### The TLB (R137, R138) -/

/-- log2 of a page size; the group of an address, and its page within the group. -/
def pageLog (size : Nat) : Nat := 12 + 9 * size
def groupNo (size va : Nat) : Nat := va / 2 ^ (pageLog size + 6)
def pageIn (size va : Nat) : Nat := va / 2 ^ pageLog size % 64

def Chip.tlbSet (c : Chip) (n : Nat) : TlbSet := lookD c.xlt.tlb n ⟨0, []⟩
/-- The set of a group: the manual gives no function (DESIGN CHOICE, log 14). -/
def tlbSetOf (group : Nat) : Nat := group % 512

def TlbE.maps (e : TlbE) (domain va : Nat) : Bool :=
  e.domain == domain && e.group == groupNo e.size va && bitOf e.mask (pageIn e.size va)

/-- The output address of a host address under an entry. -/
def TlbE.out (e : TlbE) (va : Nat) : Nat :=
  (e.base + pageIn e.size va * 2 ^ pageLog e.size + va % 2 ^ pageLog e.size) % 2 ^ 64

/-- A lookup in the three page sizes: the entry that maps the address. -/
def Chip.tlbLook (c : Chip) (domain va : Nat) : Chip × Option TlbE :=
  let hit := [0, 1, 2].findSome? (fun size =>
    let n := tlbSetOf (groupNo size va)
    ((c.tlbSet n).ways.find? (fun w => w.2.size == size && w.2.maps domain va)).map (fun w => (n, w.1, w.2)))
  match hit with
  | some (n, way, e) =>
    let s := c.tlbSet n
    ((c.setXlt { c.xlt with tlb := put c.xlt.tlb n { s with tree := plruTouch s.tree way } }).event .xlt 0 0x01 1 none, some e)
  | none => (c, none)

def Chip.tlbFill (c : Chip) (e : TlbE) : Chip :=
  let n := tlbSetOf e.group
  let s := c.tlbSet n
  let way := (freeKey s.ways 0 16).getD (plruVictim s.tree)
  c.setXlt { c.xlt with tlb := put c.xlt.tlb n { tree := plruTouch s.tree way, ways := put s.ways way e } }

/-! ### Walks (R128 to R131, R138, R139) -/

/-- The outcome of a walk. -/
inductive Walked
  | wait | mapped (e : TlbE) | fault (detail : Nat)
  deriving DecidableEq, Repr

/-- Whether a mirror entry that is VALID is malformed at a level (R129). -/
def mirrorBad (x level : Nat) : Bool :=
  bitsOf x 3 9 != 0
  || (bitOf x 1 && (level > 2 || bitsOf x 12 (9 * level) != 0))
  || (!bitOf x 1 && (level = 0 || bitsOf x 48 16 != 0))

/-- A read of the mirror under MIRROR_CTX (R130). -/
def Chip.mirrorRead (c : Chip) (d : Domain) (pla n : Nat) : Chip × Got :=
  c.poolRead elbMov 25 (unitReq d.ctx pla n none rRead false)

/-- The entry made from a group of 64 leaves (R138): `x` the missed page's entry. -/
def groupEntry (domain size va x : Nat) (group : List Byte) : TlbE :=
  let w := pageIn size va
  let sz := 2 ^ pageLog size
  let addr := x / 4096 * 4096
  let base := (addr + 2 ^ 64 - w * sz % 2 ^ 64) % 2 ^ 64
  let one (i : Nat) : Bool :=
    let y := ofBytesLE (slice group (8 * i) 8)
    bitOf y 0 && bitOf y 1 && bitOf y 2 == bitOf x 2 && y / 4096 * 4096 == (base + i * sz) % 2 ^ 64
  { domain := domain, size := size, group := groupNo size va, base := base, write := bitOf x 2,
    mask := (upTo 64).foldl (fun a i => if one i || i == w then a + 2 ^ i else a) 0 }

/-- The group read of a leaf at a level whose node is at `node`. Of an entry that is not VALID the other bits are not looked at (DESIGN CHOICE,
log 14: R129 gives no order between its two details). -/
def Chip.readGroup (c : Chip) (dn : Nat) (d : Domain) (va level node : Nat) : Chip × Walked :=
  let ix := va / 2 ^ pageLog level % 512
  match c.mirrorRead d (node + ix / 64 * 512) 512 with
  | (c, .wait) => (c, .wait)
  | (c, .got st _ _ g) =>
    if !st.good then (c, .fault 0x35)
    else
      let x := ofBytesLE (slice g (8 * (ix % 64)) 8)
      if !bitOf x 0 then (c, .fault 0x32)
      else if !bitOf x 1 || mirrorBad x level then (c, .fault 0x34)
      else
        let e := groupEntry dn level va x g
        (c.tlbFill e, .mapped e)

/-- The walk from a level's node down to the group read; each pointer read enters the walk cache, where the oldest entry makes room
(DESIGN CHOICE, log 14: R139 names no replacement). -/
def Chip.walkDown (c : Chip) (dn : Nat) (d : Domain) (va : Nat) : Nat → Nat → Chip × Walked
  | 0, node => c.readGroup dn d va 0 node
  | level + 1, node =>
    let ix := va / 2 ^ pageLog (level + 1) % 512
    match c.mirrorRead d (node + ix * 8) 8 with
    | (c, .wait) => (c, .wait)
    | (c, .got st _ _ b) =>
      let x := ofBytesLE b
      if !st.good then (c, .fault 0x35)
      else if !bitOf x 0 then (c, .fault 0x32)
      else if mirrorBad x (level + 1) then (c, .fault 0x34)
      else if bitOf x 1 then c.readGroup dn d va (level + 1) node
      else
        let next := x / 4096 * 4096
        let w : WcE := { domain := dn, level := level + 1, pfx := va / 2 ^ pageLog (level + 1), node := next }
        (c.setXlt { c.xlt with wc := (w :: c.xlt.wc.filter (· != w)).take 1024 }).walkDown dn d va level next

/-- The lowest level whose pointer the walk cache holds, and its node. -/
def Chip.walkStart (c : Chip) (dn : Nat) (d : Domain) (va : Nat) : Nat × Nat :=
  let top := if d.wide then 4 else 3
  match ((upTo top).filterMap (fun i => c.xlt.wc.find? (fun w => w.domain == dn && w.level == i + 1
      && w.pfx == va / 2 ^ pageLog (i + 1)))).head? with
  | some w => (w.level - 1, w.node)
  | none => (top, d.root)

def Chip.walkMirror (c : Chip) (dn va : Nat) : Chip × Walked :=
  match look c.xlt.domains dn with
  | none => (c, .fault 0x30)
  | some d =>
    let (level, node) := c.walkStart dn d va
    (c.event .xlt 0 0x02 1 none).walkDown dn d va level node

/-- A miss (R139): it shares a walk of its group, starts one, or waits for a walker. -/
def Chip.miss (c : Chip) (dn va : Nat) : Chip :=
  let same (w : Walk) : Bool := w.domain == dn && w.va / 2 ^ 18 == va / 2 ^ 18
  let c := c.bump rXLT_TLB_MISSES 1
  if c.xlt.walks.any same || c.xlt.waits.any same then c
  else if c.xlt.walks.length < 16 then c.setXlt { c.xlt with walks := c.xlt.walks ++ [⟨dn, va⟩] }
  else (c.setXlt { c.xlt with waits := c.xlt.waits ++ [⟨dn, va⟩] }).bump rXLT_WALK_WAITS 1

/-- A lookup of a TRANSLATED address: an entry, a fault, or a miss that walks. -/
def Chip.translate (c : Chip) (dn va : Nat) : Chip × Walked :=
  match look c.xlt.domains dn with
  | none => (c, .fault 0x30)
  | some d =>
    if !d.wide && va ≥ 2 ^ 48 then (c, .fault 0x31)
    else match c.tlbLook dn va with
    | (c, some e) => (c, .mapped e)
    | (c, none) => (c.miss dn va, .wait)

/-! ### Pretranslation (R141, R143) -/

/-- The host operand words of a descriptor (07_operators.md R198; 08_kv_store.md R236): offset, and whether it is written. -/
def hostWords (d : Desc) : List (Nat × Bool) :=
  let on (b : Bool) (w : Nat × Bool) : List (Nat × Bool) := if b then [w] else []
  if d.opcode = 0x20 then on (d.bitsAt 40 0 1 == 1) (16, false) ++ on (d.bitsAt 40 1 1 == 1) (24, true)
  else if d.opcode = 0x21 then on (d.bitsAt 40 0 1 == 1) (16, true)
  else if d.opcode = 0x30 then on (d.bitsAt 22 0 1 == 1) (24, false)
  else if d.opcode = 0x31 then on (d.bitsAt 31 0 1 == 1) (32, true)
  else []

/-- The fields of a host operand word (R124). -/
def hostMode (d : Desc) (off : Nat) : Nat := d.bitsAt off 62 2
def hostAddr (d : Desc) (off : Nat) : Nat := d.bitsAt off 0 57
def hostBad (d : Desc) (off : Nat) : Bool := hostMode d off == 3 || d.bitsAt off 57 5 != 0

/-- One pretranslation looked up. -/
def Chip.pretranslate (c : Chip) (p : Pre) : Chip × Pre :=
  match c.translate p.domain p.va with
  | (c, .mapped e) => (c, { p with st := .supplied, stale := false, entry := some e })
  | (c, .fault n) => (c, { p with st := .fault n, stale := false, entry := none })
  | (c, .wait) => (c, { p with st := .waiting, stale := false, entry := none })

/-- The pretranslations of a fetched descriptor. -/
def Chip.pretranslateAll (c : Chip) (d : Desc) (loc : Nat) : Chip × List Pre :=
  if !c.bit rXLT_CTL 0 || loc = 2 then (c, [])
  else
    ((hostWords d).filter (fun w => hostMode d w.1 == 0 && !hostBad d w.1)).foldl (fun (a : Chip × List Pre) w =>
      let dn := (a.1.mapOf d.ctx).domain
      if dn = 0 then a
      else
        let (c, p) := a.1.pretranslate { off := w.1, domain := dn, va := hostAddr d w.1, st := .waiting, stale := false }
        (c, a.2 ++ [p])) (c, [])

/-- Every pretranslation changed. -/
def Chip.mapPre (c : Chip) (f : Chip → Pre → Chip × Pre) : Chip :=
  c.rng.rings.foldl (fun c r =>
    let x := c.ring r.1
    if x.descs.all (fun q => q.pre.isEmpty) then c
    else
      let (c, ds) := x.descs.foldl (fun (a : Chip × List Fetched) q =>
        let (c, ps) := q.pre.foldl (fun (b : Chip × List Pre) p =>
          let (c, p) := f b.1 p
          (c, b.2 ++ [p])) (a.1, [])
        (c, a.2 ++ [{ q with pre := ps }])) (c, [])
      c.putRing r.1 { c.ring r.1 with descs := ds }) c

def Chip.unit (c : Chip) (n : Nat) : EngUnit := lookD c.eng.units n { queue := [], run := none }
def Chip.putUnit (c : Chip) (n : Nat) (u : EngUnit) : Chip := c.setEng { c.eng with units := put c.eng.units n u }

/-- The end of a walk in flight (R139, R140): its translation enters the TLB, or it faults; those who waited for the group look up
again, and those who waited for the page take its fault. The group is that of the page size the walk found: other walks of the same group
have shared it. -/
def Chip.runWalk (c : Chip) (dn va : Nat) : Chip :=
  match c.xlt.walks.find? (fun w => w.domain == dn && w.va / 2 ^ 18 == va / 2 ^ 18) with
  | none => c
  | some w =>
    match c.walkMirror dn w.va with
    | (c, .wait) => c
    | (c, r) =>
      let size := match r with | .mapped e => e.size | _ => 0
      let mine (d v : Nat) : Bool := d == dn && groupNo size v == groupNo size w.va
      let left := (c.xlt.walks ++ c.xlt.waits).filter (fun x => !mine x.domain x.va)
      let c := c.setXlt { c.xlt with walks := left.take 16, waits := left.drop 16 }
      let c := c.mapPre (fun c p =>
        if p.st != .waiting || !mine p.domain p.va then (c, p)
        else match r with
          | .fault n => if p.va / 4096 = w.va / 4096 then (c, { p with st := .fault n }) else c.pretranslate p
          | _ => c.pretranslate p)
      c.eng.units.foldl (fun c u =>
        match (c.unit u.1).run with
        | some x =>
          match x.st, r with
          | .walk d v, .fault n =>
            if mine d v then c.putUnit u.1 { c.unit u.1 with run := some { x with st := if v / 4096 = w.va / 4096 then .fault n else .ready } }
            else c
          | .walk d v, _ => if mine d v then c.putUnit u.1 { c.unit u.1 with run := some { x with st := .ready } } else c
          | _, _ => c
        | none => c) c

/-! ### Invalidation (R144 to R146) -/

/-- The scan of a range (or of the whole domain): the entries changed. Pretranslations and movers that used one become stale; what a mover
has looked up for its next burst is looked up again. -/
def Chip.scan (c : Chip) (dn lo hi : Nat) : Chip × Nat :=
  let narrow (e : TlbE) : Nat := (upTo 64).foldl (fun m i =>
    let a := (e.group * 64 + i) * 2 ^ pageLog e.size
    if bitOf m i && a < hi && lo < a + 2 ^ pageLog e.size then m - 2 ^ i else m) e.mask
  let hit (e : TlbE) : Bool := e.domain == dn && narrow e != e.mask
  let changed := c.xlt.tlb.flatMap (fun s => (s.2.ways.map (fun w => w.2)).filter hit)
  let c := c.setXlt { c.xlt with
    tlb := mapVals c.xlt.tlb (fun _ s => { s with
      ways := (s.ways.map (fun w => (w.1, if hit w.2 then { w.2 with mask := narrow w.2 } else w.2))).filter (fun w => w.2.mask != 0) }),
    wc := c.xlt.wc.filter (fun w => !(w.domain == dn && w.pfx * 2 ^ pageLog w.level < hi
      && lo < (w.pfx + 1) * 2 ^ pageLog w.level)) }
  let used (d va : Nat) : Bool := changed.any (fun e => e.maps d va)
  let c := c.mapPre (fun c p => (c, if p.st == .supplied && p.entry.any changed.contains then { p with stale := true } else p))
  let c := c.setEng { c.eng with units := mapVals c.eng.units (fun _ u => { u with
    run := u.run.map (fun x => { x with held := x.held.map (fun h => if used h.domain h.va then { h with stale := true } else h) }),
    next := u.next.filter (fun y => !y.held.any (fun h => used h.domain h.va)) }) }
  (c, changed.length)

/-- Whether a mover holds a translation that a scan changed. -/
def Chip.staleHeld (c : Chip) : Bool :=
  c.eng.units.any (fun u => match u.2.run with | some x => x.held.any (fun h => h.stale) | none => false)

/-- A domain cleared, with the map entries that name it (R134, R135). -/
def Chip.clearDomain (c : Chip) (dn : Nat) : Chip :=
  c.setXlt { c.xlt with domains := del c.xlt.domains dn,
                        maps := mapVals c.xlt.maps (fun _ m => if m.domain = dn then { m with domain := 0 } else m) }

/-- EXT has cleared a context (R135). -/
def Chip.xltCtxCleared (c : Chip) (ctx : Nat) : Chip :=
  let c := c.setXlt { c.xlt with maps := if ctx = 0 then put c.xlt.maps 0 ⟨0, false, false⟩ else del c.xlt.maps ctx }
  (c.xlt.domains.filter (fun e => e.2.ctx == ctx)).foldl (fun c e => ((c.scan e.1 0 (2 ^ 57)).1).clearDomain e.1) c

/-! ### Descriptors (R133, R134, R136) -/

/-- Whether the caller of a descriptor is an ADMIN context of the tenant, or a MGMT context. -/
def Chip.admins (c : Chip) (d : Desc) (tenant : Option Nat) : Bool :=
  (c.caller d).mgmt || ((c.caller d).admin && (match tenant with
    | some t => (c.caller d).tenant == t
    | none => false))

def Chip.domTenant (c : Chip) (n : Nat) : Option Nat := (look c.xlt.domains n).map (fun x => x.tenant)
def Chip.ctxTenant (c : Chip) (n : Nat) : Option Nat := if (c.ctx n).valid then some (c.ctx n).tenant else none

/-- An XLT descriptor waits while another is being carried out. -/
def Chip.xltTake (c : Chip) (d : Desc) (f : Chip → Chip) : Chip :=
  if c.xlt.inval.isSome then c.setXlt { c.xlt with queue := c.xlt.queue ++ [d] }
  else if !c.bit rXLT_CTL 0 then c.refuse bufXlt d .busyRetry 0
  else f c

/-- An invalidation begun for a descriptor: XLT_INVAL_DONE completes it. -/
def Chip.beginInval (c : Chip) (d : Desc) (dn lo hi : Nat) : Chip :=
  let (c, n) := c.scan dn lo hi
  c.setXlt { c.xlt with inval := some (d, n) }

/-- The fields of XLT_TABLE_SET. -/
def tsDomain (d : Desc) : Nat := d.bitsAt 18 0 12
def tsCtx (d : Desc) : Nat := d.field 20 2
def tsTarget (d : Desc) : Nat := d.field 22 2
def tsRoot (d : Desc) : Nat := d.bitsAt 24 0 48

/-- Reserved encodings common to the actions. -/
def tsRsvd (d : Desc) : Bool :=
  d.bitsAt 16 0 2 = 3 || !(d.zero 16 2 6 && d.zero 17 3 5 && d.zero 18 12 4 && d.zero 24 48 16 && d.zero 32 0 256)

def Chip.domainSet (c : Chip) (d : Desc) : Chip :=
  let dn := tsDomain d
  let mc := tsCtx d
  let isSet := (look c.xlt.domains dn).isSome
  match firstFail [
    ((c.ctxTenant mc).any c.unbinding, .busyRetry, 0),
    (!c.admins d (c.ctxTenant mc) || (isSet && !c.admins d (c.domTenant dn)), .rightsFault, 0x20),
    (!(c.ctx mc).valid, .contextFault, 0x21),
    (tsRsvd d || d.bitsAt 17 1 2 != 0 || tsTarget d != 0 || dn = 0 || tsRoot d % 4096 != 0, .formatFault, 0x22)] with
  | some (st, n) => c.refuse bufXlt d st n
  | none =>
    let new : Domain := { root := tsRoot d, wide := d.bitsAt 17 0 1 == 1, ctx := mc, tenant := (c.ctx mc).tenant }
    if isSet then
      let c := c.beginInval d dn 0 (2 ^ 57)
      c.setXlt { c.xlt with domains := put c.xlt.domains dn new, inval := c.xlt.inval.map (fun i => (i.1, 0)) }
    else (c.setXlt { c.xlt with domains := put c.xlt.domains dn new }).okay bufXlt d 0

def Chip.domainClear (c : Chip) (d : Desc) : Chip :=
  let dn := tsDomain d
  match firstFail [
    ((c.domTenant dn).any c.unbinding, .busyRetry, 0),
    (!c.admins d (c.domTenant dn), .rightsFault, 0x20),
    (tsRsvd d || d.bitsAt 17 0 3 != 0 || tsCtx d != 0 || tsTarget d != 0 || tsRoot d != 0 || dn = 0, .formatFault, 0x22),
    ((look c.xlt.domains dn).isNone, .formatFault, 0x23)] with
  | some (st, n) => c.refuse bufXlt d st n
  | none =>
    let c := (c.beginInval d dn 0 (2 ^ 57)).clearDomain dn
    c.setXlt { c.xlt with inval := c.xlt.inval.map (fun i => (i.1, 0)) }

def Chip.attachCtx (c : Chip) (d : Desc) : Chip :=
  let dn := tsDomain d
  let t := tsTarget d
  match firstFail [
    ((c.ctxTenant t).any c.unbinding, .busyRetry, 0),
    (!c.admins d (c.ctxTenant t), .rightsFault, 0x20),
    (!(c.ctx t).valid, .contextFault, 0x21),
    (tsRsvd d || d.bitsAt 17 0 1 != 0 || tsCtx d != 0 || tsRoot d != 0, .formatFault, 0x22),
    (dn != 0 && (look c.xlt.domains dn).isNone, .formatFault, 0x23),
    ((dn != 0 && c.domTenant dn != some (c.ctx t).tenant) || (t = 0 && d.bitsAt 17 1 1 = 0), .rightsFault, 0x24)] with
  | some (st, n) => c.refuse bufXlt d st n
  | none => (c.setMap t ⟨dn, d.bitsAt 17 1 1 == 1, d.bitsAt 17 2 1 == 1⟩).okay bufXlt d 0

/-- XLT_INVAL (R144). PAGES and ADDR mean something with scope RANGE only: with DOMAIN they are not looked at (DEDUCED, log 14). -/
def Chip.xltInval (c : Chip) (d : Desc) : Chip :=
  let dn := d.bitsAt 16 0 12
  let scope := d.bitsAt 18 0 2
  let pages := d.field 20 4
  let a := d.bitsAt 24 0 57
  let attached := dn != 0 && (c.mapOf d.ctx).domain == dn
  match firstFail [
    (!c.admins d (c.domTenant dn) && !attached, .rightsFault, 0x20),
    (!d.zero 16 12 4 || scope ≥ 2 || !d.zero 18 2 6 || !d.zero 19 0 8 || !d.zero 24 57 7 || !d.zero 32 0 256 || dn = 0
      || (scope = 0 && (a % 4096 != 0 || pages = 0)), .formatFault, 0x22),
    ((look c.xlt.domains dn).isNone, .formatFault, 0x23)] with
  | some (st, n) => c.refuse bufXlt d st n
  | none => if scope = 0 then c.beginInval d dn a (a + pages * 4096) else c.beginInval d dn 0 (2 ^ 57)

/-- One XLT descriptor carried out by its opcode and ACTION (R133: ACTION 3 is reserved). -/
def Chip.xltRun (c : Chip) (d : Desc) : Chip :=
  if !c.bit rXLT_CTL 0 then c.refuse bufXlt d .busyRetry 0
  else if d.opcode = 0x18 then c.xltInval d
  else match d.bitsAt 16 0 2 with
    | 0 => c.domainSet d
    | 1 => c.domainClear d
    | 2 => c.attachCtx d
    | _ => c.refuse bufXlt d .formatFault 0x22

/-- The descriptors that waited, one after another until one begins an invalidation. -/
def Chip.xltNext (c : Chip) : Chip :=
  c.xlt.queue.foldl (fun c d =>
    if c.xlt.inval.isSome then c else (c.setXlt { c.xlt with queue := c.xlt.queue.drop 1 }).xltRun d) c

/-- The completion of the invalidation in progress once no mover holds an affected translation (R145 step 5). -/
def Chip.invalDone (c : Chip) : Chip :=
  match c.xlt.inval with
  | none => c
  | some (d, n) =>
    if c.staleHeld then c
    else ((c.setXlt { c.xlt with inval := none }).okay bufXlt d (min n 0xFFFFFF)).xltNext

/-! ### Meanings -/

def execDomainSet (d : Desc) (s : State) : Host.Outcome State Fault Refusal :=
  .next { s with chip := s.chip.live .xlt (fun c => c.xltTake d (fun c => c.domainSet d)) }

def execDomainClear (d : Desc) (s : State) : Host.Outcome State Fault Refusal :=
  .next { s with chip := s.chip.live .xlt (fun c => c.xltTake d (fun c => c.domainClear d)) }

def execAttach (d : Desc) (s : State) : Host.Outcome State Fault Refusal :=
  .next { s with chip := s.chip.live .xlt (fun c => c.xltTake d (fun c => c.attachCtx d)) }

def execXltInval (d : Desc) (s : State) : Host.Outcome State Fault Refusal :=
  .next { s with chip := s.chip.live .xlt (fun c => c.xltTake d (fun c => c.xltInval d)) }

def execXltInvalDone (s : State) : Host.Outcome State Fault Refusal :=
  .next { s with chip := s.chip.live .xlt (fun c => c.invalDone) }

def execXltWalk (domain va : Nat) (s : State) : Host.Outcome State Fault Refusal :=
  .next { s with chip := s.chip.live .xlt (fun c => c.runWalk domain va) }

end Sys2Proof.Machine
end

