-- ==== Sys2Proof/Machine/Folds.lean ====
section
/-! DEFINITION. Fold regions: arming, contributions, conversion of finished tiles, closing (06_fold_arithmetic.md R165 to R180;
07_operators.md R205, R212). -/

namespace Sys2Proof.Machine

def rFLD_CTL : Nat := 0x400000
def rFLD_DUP : Nat := 0x400010
def rFLD_LATE : Nat := 0x400014
def rFLD_NOT_ARMED : Nat := 0x400018
def rFLD_SPECIALS : Nat := 0x40001C
def rFLD_INT_SAT : Nat := 0x400020

/-! ### Operators and regions -/

def Chip.opOf (c : Chip) (n : Nat) : Option Op := look c.eng.ops n
def Chip.putOp (c : Chip) (n : Nat) (o : Op) : Chip := c.setEng { c.eng with ops := put c.eng.ops n o }
def Chip.region (c : Chip) (n : Nat) : Option Region := look c.eng.regions n
def Chip.putRegion (c : Chip) (n : Nat) (r : Region) : Chip := c.setEng { c.eng with regions := put c.eng.regions n r }

/-- A descriptor's slot modulo 32, which places its tiles (R191) and its completion buffer. -/
def Chip.slot32 (c : Chip) (d : Desc) : Nat := (c.ring d.ring).slotOf d.index % 32

/-- The timeout in beats of a descriptor: its own, its context's, or the default (R60, R165). -/
def Chip.beatsFor (c : Chip) (ctx own : Nat) : Nat :=
  if own != 0 then own else if (c.ctx ctx).timeout != 0 then (c.ctx ctx).timeout else c.aget rGLB_TMO 0 8

/-- Mirror writes that a step has started. -/
def newMirrors (before after : Chip) : List Nat :=
  (after.red.mirrors.map (fun e => e.1)).filter (fun i => (look before.red.mirrors i).isNone)

/-- Whether mirror writes are all acknowledged. -/
def Chip.mirrored (c : Chip) (ids : List Nat) : Bool := ids.all (fun i => (look c.red.mirrors i).isNone)

/-- One more affected tile: the first one's PLA and the count (R196). -/
def affect (x : Option (Nat × Nat)) (pla : Nat) : Option (Nat × Nat) :=
  match x with
  | none => some (pla, 1)
  | some (p, n) => some (p, n + 1)
def affectAll (x y : Option (Nat × Nat)) : Option (Nat × Nat) :=
  match x, y with
  | some (p, n), some (_, m) => some (p, n + m)
  | some z, none => some z
  | none, z => z

/-- An operator's place updated if it is still held. -/
def Chip.modOp (c : Chip) (n : Option Nat) (f : Op → Op) : Chip :=
  match n.bind c.opOf with
  | some o => c.putOp (n.getD 0) (f o)
  | none => c

/-! ### Geometry (R155, R167, R169) -/

/-- The elements of a part, and its payload's bytes. -/
def partElems (outFmt parts : Nat) : Nat := fmtE outFmt / parts
def Region.partN (r : Region) : Nat := partElems r.outFmt r.parts
def partBytes (inFmt outFmt parts : Nat) : Nat := fmtBytes inFmt (partElems outFmt parts)

/-- R167. -/
def partsOk (inFmt outFmt parts : Nat) : Bool :=
  (!isMx inFmt || partElems outFmt parts % 32 = 0) && partBytes inFmt outFmt parts ≤ 4096

/-- The pages of an arming. -/
def regionPages (tiles outFmt acc parts contributors : Nat) : Nat :=
  ceilDiv (tiles * fmtE outFmt * accBytes acc) 4096 + ceilDiv (tiles * parts * contributors) 32768

/-- Whether a region covers a PLA. -/
def Region.covers (r : Region) (pla : Nat) : Bool := r.pla ≤ pla && pla < r.pla + r.tiles * 4096
def rangesMeet (a n b m : Nat) : Bool := a < b + m && b < a + n

/-- Whether a region updates weights (R212), and whether its tiles read memory. -/
def Region.isOpt (r : Region) : Bool := r.d.opcode == 0x2B
def Region.reads (r : Region) : Bool := r.init || r.isOpt

/-! ### Arming (R165, R168 to R170) -/

/-- The region that a FOLD_WRITE body names (R165). -/
def Chip.fwRegion (c : Chip) (d : Desc) (op : Option Nat) : Region :=
  { st := .arming, d := d, op := op, pla := d.bitsAt 16 0 48, gen := d.bitsAt 16 48 8, tiles := d.field 24 2,
    seq := d.field 32 2, contributors := d.bitsAt 26 0 13, parts := 2 ^ d.bitsAt 29 5 3, inFmt := d.bitsAt 28 0 4,
    outFmt := d.bitsAt 28 4 4, acc := d.bitsAt 29 0 2, red := d.bitsAt 29 2 3, round := d.bitsAt 30 0 2,
    sat := d.bitsAt 30 2 1 == 1, init := d.bitsAt 30 3 1 == 1, part' := d.bitsAt 30 4 1 == 1,
    limit := c.beatsFor d.ctx (d.field 31 1), seed := d.field 36 4, listPla := d.bitsAt 40 0 48, listGen := d.bitsAt 40 48 8,
    handle := 0, tenant := 0, pages := 0 }

/-- Reserved encodings and ranges of the bytes 16 to 47 of a FOLD_WRITE body; R167. -/
def fwBad (d : Desc) (r : Region) : Bool :=
  !(d.zero 16 56 8 && d.zero 26 13 3 && d.zero 30 5 3 && d.zero 34 0 16 && d.zero 40 56 8)
  || !fmtOk r.inFmt || !fmtOk r.outFmt || r.acc == 3 || 4 < r.red || d.bitsAt 29 5 3 > 5 || r.round == 3
  || r.tiles == 0 || 16384 < r.tiles || r.contributors == 0 || 4096 < r.contributors
  || r.pla % 4096 != 0 || r.listPla % 4 != 0 || !partsOk r.inFmt r.outFmt r.parts

/-- The requests that arming checks: the target over all its tiles, and the list. -/
def Region.targetReq (r : Region) : Req := unitReq r.d.ctx r.pla (r.tiles * 4096) (some r.gen) (rWrite + rOperate) true
def Region.listReq (r : Region) : Req := unitReq r.d.ctx r.listPla (r.contributors * 4) (some r.listGen) rRead false

/-- The slot that an arming takes: one never used, or the lowest closed one (log 17). -/
def Chip.regionSlot (c : Chip) : Option Nat :=
  match freeKey c.eng.regions 0 4096 with
  | some n => some n
  | none => (c.eng.regions.find? (fun e => e.2.st == .closed)).map (fun e => e.1)

/-- Steps 6 to 8 of R168: the slot reserved, or the refusal. A region that is being armed counts as armed in step 6 (DESIGN CHOICE, log 17: two
armings of one target would else both pass it). -/
def Chip.reserveRegion (c : Chip) (r : Region) : Sum (Status × Nat) (Chip × Nat) :=
  let pages := regionPages r.tiles r.outFmt r.acc r.parts r.contributors
  if c.eng.regions.any (fun e => e.2.st != .closed && rangesMeet e.2.pla (e.2.tiles * 4096) r.pla (r.tiles * 4096)) then
    .inl (.busyRetry, 0x45)
  else match c.regionSlot with
    | none => .inl (.queueFull, 0x46)
    | some n =>
      if c.eng.pages + pages > 32768 then .inl (.queueFull, 0x47)
      else
        let prev := (c.region n).map (fun o => (o.pla, o.tiles, o.seq))
        .inr ((c.putRegion n { r with pages := pages, prev := prev }).setEng
          { (c.putRegion n { r with pages := pages, prev := prev }).eng with arming := c.eng.arming ++ [n], pages := c.eng.pages + pages }, n)

/-- A FOLD_WRITE taken by FLD: steps 1 to 8. -/
def Chip.foldWrite (c : Chip) (d : Desc) : Chip :=
  let buf := bufFld (c.slot32 d)
  let r := c.fwRegion d none
  let no (c : Chip) (st : Status) (n pla gen : Nat) : Chip := c.finish buf d st n 0
    (if n = 0x43 || n = 0x44 then c.operandFault d.ctx st pla gen else { status := st, addr := pla, gen := gen })
  if !c.bit rFLD_CTL 0 then no c .busyRetry 0x40 0 0
  else if fwBad d r || !d.zero 48 0 128 then no c .formatFault 0x41 0 0
  else if !accPairs r.acc r.inFmt r.red then no c .formatFault 0x42 0 0
  else
    match c.wouldAdmit elbSeq r.targetReq with
    | (c, some (st, _), _) => no c st 0x43 r.pla r.gen
    | (c, none, x) =>
      match c.wouldAdmit elbSeq r.listReq with
      | (c, some (st, _), _) => no c st 0x44 r.listPla r.listGen
      | (c, none, _) =>
        match c.reserveRegion { r with handle := (x.map (fun y => y.handle)).getD 0, tenant := (x.map (fun y => y.e.tenant)).getD 0 } with
        | .inl (st, n) => no c st n 0 0
        | .inr (c, _) => c

/-- An arming that did not come to be gives back its slot and pages. -/
def Chip.unarm (c : Chip) (n : Nat) (r : Region) : Chip :=
  let c := match r.prev with
    | some (pla, tiles, seq) =>
      c.putRegion n { r with st := .closed, pla := pla, tiles := tiles, seq := seq, list := [], work := [], pages := 0, op := none }
    | none => c.setEng { c.eng with regions := del c.eng.regions n }
  c.setEng { c.eng with arming := c.eng.arming.filter (· != n), pages := c.eng.pages - r.pages }

/-- The refusal of an arming: posted by FLD, or by the sequencer whose operator armed. -/
def Chip.armRefused (c : Chip) (n : Nat) (r : Region) (st : Status) (detail pla gen : Nat) : Chip :=
  let c := c.unarm n r
  let f : FaultRec := { status := st, addr := pla, gen := gen, handle := r.handle }
  match r.op.bind c.opOf with
  | some o => (c.setEng { c.eng with ops := del c.eng.ops (r.op.getD 0) }).finish (bufSeq o.seqn) r.d st detail 0 f
  | none => c.finish (bufFld (c.slot32 r.d)) r.d st detail 0 f

/-! ### Contributions (R171 to R174) -/

/-- Serial order modulo 2^16 (RFC 1982): a distance of exactly 2^15, which has no order, counts as older (log 17). -/
def seqOlder (a b : Nat) : Bool := a != b && (a + 65536 - b) % 65536 ≥ 32768

/-- What FST finds for a contribution. -/
inductive FoldCase
  | accept (slot tile : Nat)
  | duplicate (slot : Nat)
  | mismatch
  | late
  | notArmed
  deriving DecidableEq, Repr

/-- The PLA ranges and arming numbers of the closed regions. -/
def Chip.closedRanges (c : Chip) : List (Nat × Nat × Nat) :=
  c.eng.regions.filterMap (fun e => if e.2.st == .closed || e.2.late then some (e.2.pla, e.2.tiles, e.2.seq)
    else if e.2.st == .arming then e.2.prev else none)

/-- The contributors that have sent a part of a tile. -/
def RTile.heard (t : RTile) (part : Nat) : List Nat := lookD t.got part []

/-- CONTRIB and PART of a contribution (10_fabric.md R292). -/
def foldContribOf (m : Msg) : Nat := m.specAt 2 2 % 4096
def foldPartOf (m : Msg) : Nat := m.specAt 4 1 % 32

/-- The table of R172. A payload that is not as long as the region's parts fails the third row, as a part index outside the geometry does
(DESIGN CHOICE, log 17: no row names it). -/
def Chip.foldCase (c : Chip) (m : Msg) (pla : Nat) : FoldCase :=
  let seq := m.specAt 0 2
  let k := foldContribOf m
  let part := foldPartOf m
  match c.eng.regions.find? (fun e => e.2.st == .armed && !e.2.late && e.2.covers pla) with
  | some (slot, r) =>
    if seq = r.seq then
      let tile := (pla - r.pla) / 4096
      let node := r.list.getD k 0
      if pla % 4096 = 0 && k < r.contributors && part < r.parts && (m.src == node || (c.isSelf m.src && c.isSelf node))
          && m.data.length = partBytes r.inFmt r.outFmt r.parts then
        if ((lookD r.work tile {}).heard part).contains k then .duplicate slot else .accept slot tile
      else .mismatch
    else if seqOlder seq r.seq then .late
    else if c.closedRanges.any (fun x => x.1 ≤ pla && pla < x.1 + x.2.1 * 4096 && (seq = x.2.2 || seqOlder seq x.2.2)) then .late
    else .notArmed
  | none =>
    if c.closedRanges.any (fun x => x.1 ≤ pla && pla < x.1 + x.2.1 * 4096 && (seq = x.2.2 || seqOlder seq x.2.2)) then .late
    else .notArmed

/-- A list of inputs added into a part's accumulators (R163, R174), with the saturations. -/
def addInputs (acc red : Nat) (old : Option (List Nat)) (vs : List Num) : List Nat × Nat :=
  let rs := vs.zipIdx.map (fun e => accStep acc red (old.map (fun l => l.getD e.2 0)) e.1)
  (rs.map (fun e => e.1), countIf (fun (e : Nat × Bool) => e.2) rs)

/-- Inputs brought into the accumulator's format, with the special events (R162, R176). -/
def bringAll (acc : Nat) (vs : List Num) : List Num × Nat :=
  let rs := vs.map (toAcc acc)
  (rs.map (fun e => e.1), countIf (fun (e : Num × Bool) => e.2) rs)

/-- Elements counted: decoded from a format, accumulated by a reduction, in the engine's tile (16_observation.md R462, R463). -/
def Chip.countIn (c : Chip) (d : Desc) (unit fmt red n : Nat) : Chip :=
  (((c.count (168 + fmt) n).count (192 + red) n).count (288 + unit) n).event .fld unit 0x01 n (c.carries d.ctx d.tensorTag)
def Chip.countOut (c : Chip) (unit fmt n : Nat) : Chip := (c.count (180 + fmt) n).count (288 + unit) n

/-- An accepted contribution: its received bit is set and its payload added. -/
def Chip.accumulate (c : Chip) (slot tile part k : Nat) (payload : List Byte) : Chip :=
  match c.region slot with
  | none => c
  | some r =>
    let t := lookD r.work tile {}
    let (vs, sp) := bringAll r.acc (partDec r.inFmt payload r.partN)
    let (acc, sat) := addInputs r.acc r.red (look t.acc part) vs
    let t := { t with got := put t.got part (t.heard part ++ [k]), acc := put t.acc part acc,
                      init := if t.init = 0 && r.reads then 1 else t.init }
    let c := c.putRegion slot { r with work := put r.work tile t }
    (((c.bump rFLD_SPECIALS sp).bump rFLD_INT_SAT sat).count 200 1).countIn r.d ((slot + tile) % 32) r.inFmt r.red r.partN

/-- The acknowledgement of a contribution: 14 cycles, or 26 after an ELB miss (R22, R84). -/
def Chip.ackFold (c : Chip) (m : Msg) (st : Status) (miss : Bool) : Chip :=
  c.sendRefusal m st c.beatUs (if miss then 26 else 14)

/-- A FOLD_CONTRIB at a link: the order of checks with the FOLD right over its tile, then FST. One answered with BUSY_RETRY because ENABLE is 0
meets no row of R172: FLD_NOT_ARMED does not count it (DESIGN CHOICE, log 17). -/
def Chip.foldContrib (c : Chip) (link : Nat) (m : Msg) : Chip :=
  c.request m (fun c pla =>
    let r := msgReq m (pla / 4096 * 4096) 4096 rFold false false
    let (c, v, miss) := c.check (elbLink link) r
    match v with
    | .retry => c.sendRefusal m .busyRetry c.beatUs 0
    | .refuse n st h => c.refuseMsg m r n st h
    | .granted x =>
      if !c.bit rFLD_CTL 0 then c.ackFold m .busyRetry miss
      else match c.foldCase m pla with
        | .accept slot tile => (c.accumulate slot tile (foldPartOf m) (foldContribOf m) m.data).ackFold m .ok miss
        | .duplicate slot =>
          let c := match c.region slot with
            | some r => c.putRegion slot { r with dups := r.dups + 1 }
            | none => c
          ((c.bump rFLD_DUP 1).event .fld 0 0x02 1 (c.carries m.ctx.toNat noTag)).ackFold m .ok miss
        | .mismatch => (c.faultRequest r 1 pla m.src.toNat 0 .rightsFault x.handle).ackFold m .rightsFault miss
        | .late => (c.bump rFLD_LATE 1).ackFold m .ok miss
        | .notArmed => (c.bump rFLD_NOT_ARMED 1).ackFold m .busyRetry miss)

/-! ### Reads of target tiles (R176, R212) -/

/-- The pool operand words of an OPT_STEP: W, M, V, G (R208). -/
def optPla (d : Desc) (k : Nat) : Nat := d.bitsAt (16 + 8 * k) 0 48
def optGen (d : Desc) (k : Nat) : Nat := d.bitsAt (16 + 8 * k) 48 8
def optFmt (d : Desc) (k : Nat) : Nat := d.bitsAt (16 + 8 * k) 56 4
def optAlgo (d : Desc) : Nat := d.bitsAt 58 0 2

/-- The tensors that an OPT_STEP holds: W, M and, for AdamW, V. -/
def optKeeps (d : Desc) : List Nat := if optAlgo d = 0 then [0, 1, 2] else [0, 1]

/-- The arithmetic format (R210). -/
def optF (d : Desc) : FF := if (optKeeps d).any (fun k => optFmt d k == 0) then fp64 else fp32

/-- The bytes of tensor `k` that hold the elements of W tile `i`. -/
def optSpan (d : Desc) (k i : Nat) : Nat × Nat :=
  let e := fmtE (optFmt d 0)
  (optPla d k + i * e * (fmtBits (optFmt d k) / 8), e * (fmtBits (optFmt d k) / 8))
def optReq (d : Desc) (k i : Nat) (write : Bool) : Req :=
  let (a, n) := optSpan d k i
  unitReq d.ctx a n (some (optGen d k)) ((if write then rWrite else rRead) + rOperate) write

/-- W, M and V of a W tile read: nothing yet, the first failure, or the FP64 bits of the elements and whether a byte was
corrected. -/
inductive OptRead
  | wait
  | fail (st : Status) (step pla : Nat)
  | have' (vs : List (List Nat)) (corrected : Bool)
  deriving DecidableEq, Repr

def Chip.optRead (c : Chip) (d : Desc) (tensors : List Nat) (i : Nat) : Chip × OptRead :=
  tensors.foldl (fun (a : Chip × OptRead) k =>
    match a.2 with
    | .have' vs cor =>
      let r := optReq d k i false
      match a.1.readTiles elbSeq 26 r with
      | (c, .wait) => (c, .wait)
      | (c, .got st n _ b) =>
        if st.good then
          let xs := partDec (optFmt d k) b (fmtE (optFmt d 0))
          (c, .have' (vs ++ [xs.map (fun v => (fp64.enc .rne false v).1)]) (cor || st == .okCorrected))
        else (c, .fail st n r.pla)
    | x => (a.1, x)) (c, .have' [] false)

/-- The read of a target tile whose first contribution has been accepted: it is added as one more input, or kept for the update of
a fused OPT_STEP. A read refused by the order of checks leaves the tile waiting (R179). As the one input of a part that no contribution reached,
the previous value is taken by R163, so SUMSQ squares it (DEDUCED, log 17: R177 names the previous value as the part's one input). -/
def Chip.foldInitRead (c : Chip) (slot tile : Nat) : Chip :=
  match c.region slot with
  | none => c
  | some r =>
    let t := lookD r.work tile {}
    if r.st != .armed || t.init != 1 then c
    else
      let bad (c : Chip) (st : Status) : Chip :=
        let r := { r with work := put r.work tile { t with init := 3 } }
        let pla := r.pla + tile * 4096
        c.putRegion slot (if st == .checkFail then { r with failed := affect r.failed pla } else { r with lost := affect r.lost pla })
      if r.isOpt then
        match c.optRead r.d (optKeeps r.d) tile with
        | (c, .wait) => c
        | (c, .fail st n _) => if n != 0 || st == .busyRetry then c else bad c st
        | (c, .have' vs cor) =>
          c.putRegion slot { r with work := put r.work tile { t with init := 2, wmv := vs }, corrected := r.corrected || cor }
      else
        match c.readTiles elbSeq 26 (unitReq r.d.ctx (r.pla + tile * 4096) 4096 (some r.gen) (rRead + rOperate) false) with
        | (c, .wait) => c
        | (c, .got st n _ b) =>
          if n != 0 || st == .busyRetry then c
          else if !st.good then bad c st
          else
            let (vs, sp) := bringAll r.acc (tileDec r.outFmt b (fmtE r.outFmt))
            let (acc, sat) := (upTo r.parts).foldl (fun (a : NMap (List Nat) × Nat) p =>
              let (x, s) := addInputs r.acc r.red (look t.acc p) (slice vs (p * r.partN) r.partN)
              (put a.1 p x, a.2 + s)) (t.acc, 0)
            let c := c.putRegion slot { r with work := put r.work tile { t with init := 2, acc := acc },
                                               corrected := r.corrected || st == .okCorrected }
            ((c.bump rFLD_SPECIALS sp).bump rFLD_INT_SAT sat).countIn r.d ((slot + tile) % 32) r.outFmt r.red (fmtE r.outFmt)

/-! ### Outputs of the fold engines -/

/-- An encoded run of elements from a PLA: counted, watched tile by tile (16_observation.md R465). The second part is the
strongest action. -/
def Chip.fldOut (c : Chip) (unit : Nat) (d : Desc) (fmt pla : Nat) (x : Encoded) : Chip × Nat :=
  let c := (c.bump rFLD_SPECIALS x.specials).countOut unit fmt x.codes.length
  let es := (upTo x.codes.length).map (fun i => (x.value fmt i, x.special.getD i false))
  if isMx fmt || pla % 4096 = 0 && x.codes.length ≤ fmtE fmt then c.watch ⟨d.tensorTag, d.step, fmt, pla / 4096 * 4096, es⟩
  else
    let sz := fmtBits fmt / 8
    (tilesOf pla (x.codes.length * sz)).foldl (fun (a : Chip × Nat) k =>
      let first := (max pla (k * 4096) - pla) / sz
      let pad := (max pla (k * 4096) - k * 4096) / sz
      let n := (min (pla + x.codes.length * sz) (k * 4096 + 4096) - max pla (k * 4096)) / sz
      let (c, act) := a.1.watch ⟨d.tensorTag, d.step, fmt, k * 4096, List.replicate pad (Num.zero, false) ++ slice es first n⟩
      (c, max a.2 act)) (c, 0)

/-- The values of a tensor encoded by ROUND, SAT and SEED with positions from `first`. -/
def encFrom (fmt round : Nat) (sat : Bool) (seed first : Nat) (vs : List Num) : Encoded :=
  encAll fmt sat (vs.zipIdx.map (fun e => (e.1, rndOf round seed (first + e.2))))

/-- A W tile updated (R211): the elements of W, M and V from their values and the gradients, with the non-finite new w. -/
def optTile (o : OptC) (wmv : List (List Nat)) (g : List Num) : List (List Num) × Nat :=
  let at' (k i : Nat) : Num := o.fmt.rnd (fp64.dec ((wmv.getD k []).getD i 0))
  let rs := g.zipIdx.map (fun e => optElem o (at' 0 e.2) (at' 1 e.2) (at' 2 e.2) e.1)
  ([rs.map (fun e => e.1), rs.map (fun e => e.2.1), rs.map (fun e => e.2.2)], countIf (fun (e : Num × Num × Num) => !e.1.finite) rs)

/-- W, M and V of a W tile encoded: the tensor, its PLA, its encoding, its bytes. -/
def optOut (d : Desc) (o : OptC) (i : Nat) (vs : List (List Num)) : List (Nat × Nat × Encoded × List Byte) :=
  (optKeeps d).map (fun k =>
    let f := optFmt d k
    let x := encFrom f (d.bitsAt 58 3 2) (d.bitsAt 58 5 1 == 1) (o.seed + k) (i * fmtE (optFmt d 0)) (vs.getD k [])
    (k, (optSpan d k i).1, x, packBits (fmtBits f) (fmtGroup f) x.codes))

/-! ### Converting a tile (R175, R177, R178) -/

/-- Whether every part of a tile has come from every contributor; whether any has. -/
def Region.complete (r : Region) (t : RTile) : Bool := (upTo r.parts).all (fun p => (t.heard p).length == r.contributors)
def RTile.some' (t : RTile) : Bool := t.got.any (fun e => !e.2.isEmpty)

/-- Whether a tile is to be written, once its reads are in. -/
def Region.due (r : Region) (t : RTile) : Bool := !t.written && (if r.late then r.part' && t.some' else r.complete t)

/-- Whether nothing is left to do for a tile: written, failed by its read, or left out at a timeout. -/
def Region.finished (r : Region) (t : RTile) : Bool :=
  t.written || (if r.late then !(r.part' && t.some') || t.init == 3 else r.complete t && t.init == 3)

/-- The output values of a tile's accumulators: MEAN divides by the contributions of the part; a part without input holds the
identity. -/
def Region.values (r : Region) (t : RTile) : List Num :=
  (upTo r.parts).flatMap (fun p =>
    match look t.acc p with
    | some xs => xs.map (fun x => accOut r.acc r.red (accDec r.acc x) (t.heard p).length)
    | none => List.replicate r.partN (accIdentity r.acc r.red))

/-- The target extent of a region as its writes use it: they are not checked again (R177 counts the region in flight). -/
def Chip.regionEntry (c : Chip) (r : Region) : ElbE :=
  { ctx := r.d.ctx, handle := r.handle, c := c.ctx r.d.ctx, e := c.extent r.handle }

/-- A finished tile issued as eight full stripes (R175), with its check; none while snoops are outstanding. -/
def Chip.issueTile (c : Chip) (x : ElbE) (pla : Nat) (data : List Byte) : Chip × Option Status :=
  let (c, clear) := c.probe 26 x pla 4096 true true
  let (c, table) := c.tableReady x pla
  if !(clear && table) then (c, none)
  else
    let t := x.target pla
    let (c, st) := c.writeRange 26 t data (allOn 4096)
    (((if st.good then c.storeCheck 26 t data else c).probed x pla 4096 true).tableDone x pla, some st)

/-- The tile is done: written, or refused by a LOST group. -/
def Chip.tileDone (c : Chip) (before : Chip) (slot tile : Nat) (r : Region) (t : RTile) (st : Status) : Chip :=
  let pla := r.pla + tile * 4096
  let c := c.event .fld ((slot + tile) % 32) 0x03 1 (c.carries r.d.ctx r.d.tensorTag)
  let t' : RTile := { got := t.got, init := t.init, written := true }
  c.putRegion slot { r with work := put r.work tile t', done := r.done + 1, mirrors := r.mirrors ++ newMirrors before c,
                            lost := if st.good then r.lost else affect r.lost pla, corrected := r.corrected || st == .okCorrected }

/-- The unit that writes a collective's tile to its peers. -/
def Chip.moverOf (c : Chip) (d : Desc) (tile : Nat) : Nat := 32 + (c.slot32 d + tile) % 32

/-- A tile of FOLD_WRITE, REDUCE_SCATTER or ALL_REDUCE converted and issued; a collective hands it to a mover. -/
def Chip.convertSum (c : Chip) (slot tile : Nat) (r : Region) (t : RTile) : Chip :=
  let unit := (slot + tile) % 32
  let pla := r.pla + tile * 4096
  let x := encFrom r.outFmt r.round r.sat r.seed (tile * fmtE r.outFmt) (r.values t)
  let data := tileEnc r.outFmt x (zeros 4096)
  let mv := c.moverOf r.d tile
  if r.op.isSome && (c.unit mv).queue.length ≥ 64 then c
  else
    let (c', clear) := c.probe 26 (c.regionEntry r) pla 4096 true true
    let (c', table) := c'.tableReady (c.regionEntry r) pla
    if !(clear && table) then c'
    else
      let (c, act) := c'.fldOut unit r.d r.outFmt pla x
      if act = 2 && c.stopped then c
      else
        match c.issueTile (c.regionEntry r) pla data with
        | (c, none) => c
        | (c, some st) =>
          let c := c.tileDone c' slot tile r t st
          match r.op with
          | none => c
          | some o =>
            (c.putUnit mv { c.unit mv with queue := (c.unit mv).queue ++ [⟨o, tile, data⟩] }).modOp (some o) (fun o => { o with busy := o.busy + 1 })

/-- A tile of a fused OPT_STEP updated and written (R212). M and V are written through the order of checks; a failure ends the
operator under R195. -/
def Chip.convertOpt (c : Chip) (slot tile : Nat) (r : Region) (t : RTile) : Chip :=
  match r.op.bind c.opOf with
  | none => c
  | some op =>
    let oc := optConst (optAlgo r.d) (optF r.d) op.rcd
    let (vs, bad) := optTile oc t.wmv (r.values t)
    let outs := optOut r.d oc tile vs
    let unit := (slot + tile) % 32
    let (c', clear) := c.clearFor elbSeq 26 ((outs.filter (fun o => o.1 != 0)).map (fun o => (optReq r.d o.1 tile true, o.2.2.2)))
    let (c', target) := c'.probe 26 (c'.regionEntry r) (r.pla + tile * 4096) 4096 true true
    let (c', table) := c'.tableReady (c'.regionEntry r) (r.pla + tile * 4096)
    if !(clear && target && table) then c'
    else
      let (c, act) := outs.foldl (fun (a : Chip × Nat) o =>
        let (c, k) := a.1.fldOut unit r.d (optFmt r.d o.1) o.2.1 o.2.2.1
        (c, max a.2 k)) (c', 0)
      if act = 2 && c.stopped then c
      else
        let (c, st, step, at') := outs.foldl (fun (a : Chip × Status × Nat × Nat) o =>
          if o.1 = 0 || !a.2.1.good then a
          else match a.1.poolWrite elbSeq 26 (optReq r.d o.1 tile true) o.2.2.2 with
            | (c, .got st n _ _) => (c, a.2.1.worse st, if st.good then a.2.2.1 else n, if st.good then a.2.2.2 else o.2.1)
            | (c, .wait) => (c, a.2)) (c, .ok, 0, 0)
        if !st.good && step != 0 then
          let c := c.modOp r.op (fun o => { o with stop := if o.stop.isSome then o.stop else some (st, 0x58, at', 0) })
          c.putRegion slot { r with work := put r.work tile { got := t.got, init := t.init, written := true }, done := r.done + 1 }
        else
          match c.issueTile (c.regionEntry r) (r.pla + tile * 4096) ((outs.find? (fun o => o.1 == 0)).map (fun o => o.2.2.2)).get! with
          | (c, none) => c
          | (c, some st') => (c.tileDone c' slot tile r t (st'.worse st)).modOp r.op (fun o => { o with info := o.info + bad })

/-- A tile that has every part, and the reads it needs, converted and issued. -/
def Chip.foldTileConvert (c : Chip) (slot tile : Nat) : Chip :=
  match c.region slot with
  | none => c
  | some r =>
    let t := lookD r.work tile {}
    if r.st != .armed || !r.due t || (r.reads && t.init != 2) then c
    else if r.isOpt then c.convertOpt slot tile r t
    else c.convertSum slot tile r t

/-! ### Closing (R177 to R179) -/

/-- The parts that a contributor has not sent, and the contributors with any. -/
def Region.missingOf (r : Region) (k : Nat) : Nat :=
  sumOf ((upTo r.tiles).map (fun i => countIf (fun p => !((lookD r.work i {}).heard p).contains k) (upTo r.parts)))
def Region.missing (r : Region) : List (Nat × Nat) :=
  ((upTo r.contributors).map (fun k => (k, r.missingOf k))).filter (fun e => e.2 != 0)

/-- A region closed: its staging released, its slot kept as a closed region, its one completion posted, or its outcome left with
the operator that armed it. -/
def Chip.closeRegion (c : Chip) (slot : Nat) (r : Region) (aborted : Bool) : Chip :=
  let info := if r.late then r.missing.length else min r.dups 0xFFFFFF
  let c := c.putRegion slot { r with st := .closed, work := [], list := [], pages := 0, op := none, mirrors := [] }
  let c := ((c.setEng { c.eng with pages := c.eng.pages - r.pages }).subInflight r.handle 1).count 201 1
  match r.op.bind c.opOf with
  | some _ => c.modOp r.op (fun o => { o with
      closed := true, aborted := o.aborted || aborted, timedOut := o.timedOut || r.late, lost := affectAll o.lost r.lost,
      failed := affectAll o.failed r.failed, corrected := o.corrected || r.corrected, mirrors := o.mirrors ++ r.mirrors,
      info := if r.isOpt then o.info else info })
  | none =>
    let post (st : Status) (x : Option (Nat × Nat)) : Chip :=
      c.finish (bufFld (c.slot32 r.d)) r.d st 0 info
        { status := st, addr := (x.map (fun e => e.1)).getD 0, gen := r.gen, handle := r.handle, count := (x.map (fun e => e.2)).getD 1 }
    if aborted then post .aborted none
    else if r.late then post .timeout none
    else if r.lost.isSome then post .dataLost r.lost
    else if r.failed.isSome then post .checkFail r.failed
    else post (if r.corrected then .okCorrected else .ok) none

/-- A region whose tiles are all finished and whose writes are acknowledged closes (R177). -/
def Chip.foldRegionClose (c : Chip) (slot : Nat) : Chip :=
  match c.region slot with
  | none => c
  | some r =>
    if r.st == .armed && (upTo r.tiles).all (fun i => r.finished (lookD r.work i {})) && c.mirrored r.mirrors then
      c.closeRegion slot r false
    else c

/-- The timeout of a region (R178): a record for each contributor with a missing part; with PARTIAL the tiles that received a contribution
are converted before the region closes. -/
def Chip.foldTimeout (c : Chip) (slot : Nat) : Chip :=
  match c.region slot with
  | none => c
  | some r =>
    if r.st != .armed || r.late || !c.expired r.beat r.limit then c
    else
      let r := { r with late := true }
      let c := r.missing.foldl (fun c e =>
        (c.fault { status := .timeout, ctx := r.d.ctx, kind := 6, addr := r.pla, node := (r.list.getD e.1 0).toNat, gen := 0,
                   handle := r.handle, count := e.2 }).1) (c.putRegion slot r)
      if !r.part' then c.closeRegion slot r false
      else
        let c := (upTo r.tiles).foldl (fun c i => (c.foldInitRead slot i).foldTileConvert slot i) c
        c.foldRegionClose slot

/-- The regions that a test finds closed with ABORTED, their staging discarded; an arming that it finds is given up (R179). -/
def Chip.abortRegions (c : Chip) (p : Region → Bool) : Chip :=
  c.eng.regions.foldl (fun c e =>
    match c.region e.1 with
    | none => c
    | some r =>
      if r.st == .closed || !p r then c
      else if r.st == .armed then c.closeRegion e.1 r true
      else
        let c := c.unarm e.1 r
        match r.op.bind c.opOf with
        | some _ => c.modOp r.op (fun o => { o with closed := true, aborted := true })
        | none => c.finish (bufFld (c.slot32 r.d)) r.d .aborted 0 0 { status := .aborted }) c

/-! ### Meanings -/

def execFoldWrite (d : Desc) (s : State) : Host.Outcome State Fault Refusal :=
  .next { s with chip := s.chip.live .fld (fun c => c.foldWrite d) }

def execFoldContrib (link : Nat) (m : Msg) (s : State) : Host.Outcome State Fault Refusal :=
  .next { s with chip := s.chip.foldContrib link m }

def execFoldInitRead (slot tile : Nat) (s : State) : Host.Outcome State Fault Refusal :=
  .next { s with chip := s.chip.live .fld (fun c => c.foldInitRead slot tile) }

def execFoldTileConvert (slot tile : Nat) (s : State) : Host.Outcome State Fault Refusal :=
  .next { s with chip := s.chip.live .fld (fun c => c.foldTileConvert slot tile) }

def execFoldRegionClose (slot : Nat) (s : State) : Host.Outcome State Fault Refusal :=
  .next { s with chip := s.chip.live .fld (fun c => c.foldRegionClose slot) }

def execFoldTimeout (slot : Nat) (s : State) : Host.Outcome State Fault Refusal :=
  .next { s with chip := s.chip.live .fld (fun c => c.foldTimeout slot) }

end Sys2Proof.Machine
end

