-- ==== Sys2Proof/Machine/Operators.lean ====
section
/-! DEFINITION. Operators: their bodies, the sequencers' checks, beat slices (07_operators.md R183 to R194, R198 to R222). -/

namespace Sys2Proof.Machine

def rSEQ_CTL : Nat := 0x500000
def rMOV_CTL : Nat := 0x380000
def rSLICE_OVERRUNS : Nat := 0x500028

/-! ### Operand words (R184) -/

def opPla (d : Desc) (off : Nat) : Nat := d.bitsAt off 0 48
def opGen (d : Desc) (off : Nat) : Nat := d.bitsAt off 48 8
def opFmt (d : Desc) (off : Nat) : Nat := d.bitsAt off 56 4
def opWordBad (d : Desc) (off : Nat) : Bool := !d.zero off 60 4
def tileWord (d : Desc) (off : Nat) : Bool := opWordBad d off || opPla d off % 4096 != 0

/-- A byte operand word, FMT 0; a word whose PLA is aligned to a tile, FMT 0; a host word (R124, R125). -/
def byteWordBad (d : Desc) (off : Nat) : Bool := opWordBad d off || opFmt d off != 0
def plainTileBad (d : Desc) (off : Nat) : Bool := tileWord d off || opFmt d off != 0
def hostWordBad (d : Desc) (off : Nat) : Bool := hostBad d off || (hostMode d off == 2 && hostAddr d off % 8 != 0)

/-- A pool operand as step 4 checks it. -/
structure Operand where
  pla : Nat
  gen : Nat
  bytes : Nat
  need : Nat
  write : Bool
  deriving DecidableEq, Repr

def Operand.req (o : Operand) (ctx : Nat) : Req := unitReq ctx o.pla o.bytes (some o.gen) o.need o.write
def Operand.meets (a b : Operand) : Bool := rangesMeet a.pla a.bytes b.pla b.bytes

/-- The bytes of the tiles that `n` elements take. -/
def tileSpan (fmt n : Nat) : Nat := ceilDiv n (fmtE fmt) * 4096

/-- What the checks and the slices need of an operator. -/
structure Plan where
  rsvd : Bool := false
  pairs : Bool := true
  operands : List Operand := []
  overlap : Bool := false
  total : Nat := 0
  info : Nat := 0
  fld : Bool := false
  mov : Bool := false
  deriving DecidableEq, Repr

/-! ### Bodies -/

def cpBytes (d : Desc) : Nat := d.bitsAt 32 0 36
def cpSrcHost (d : Desc) : Bool := d.bitsAt 40 0 1 == 1
def cpDstHost (d : Desc) : Bool := if d.opcode = 0x20 then d.bitsAt 40 1 1 == 1 else d.bitsAt 40 0 1 == 1
def cpDstOff (d : Desc) : Nat := if d.opcode = 0x20 then 24 else 16

/-- The offset within its 4 KiB page at which a COPY or FILL begins: of DST, or of SRC where DST is host memory (DEDUCED, log 18). -/
def cpAlign (d : Desc) : Nat :=
  if !cpDstHost d then opPla d (cpDstOff d) % 4096
  else if d.opcode = 0x20 && !cpSrcHost d then opPla d 16 % 4096 else 0

/-- COPY and FILL (R198, R199). -/
def planCopy (d : Desc) : Plan :=
  let isCopy := d.opcode == 0x20
  let n := cpBytes d
  let dst := cpDstOff d
  let dstOps := if cpDstHost d then [] else [⟨opPla d dst, opGen d dst, n, rWrite, true⟩]
  let srcOps := if !isCopy || cpSrcHost d then [] else [⟨opPla d 16, opGen d 16, n, rRead, false⟩]
  { rsvd := n == 0 || !d.zero 32 36 28 || !d.zero 40 (if isCopy then 2 else 1) (if isCopy then 190 else 191)
      || (if cpDstHost d then hostWordBad d dst else byteWordBad d dst)
      || (isCopy && (if cpSrcHost d then hostWordBad d 16 else byteWordBad d 16)),
    operands := srcOps ++ dstOps,
    overlap := srcOps.any (fun a => dstOps.any (fun b => a.meets b)),
    total := ceilDiv (cpAlign d + n) 4096, mov := true }

/-- SCRUB (R198, R200). -/
def planScrub (d : Desc) : Plan :=
  let n := d.bitsAt 24 0 24
  { rsvd := n == 0 || plainTileBad d 16 || !d.zero 27 0 296, operands := [⟨opPla d 16, opGen d 16, n * 4096, rWrite, true⟩],
    total := n, info := n, mov := true }

/-- CONVERT and FOLD (R201 to R203). -/
def cvCount (d : Desc) : Nat := d.field 32 4
def cvSeed (d : Desc) : Nat := d.field 36 4
def cvRound (d : Desc) : Nat := if d.opcode = 0x23 then d.bitsAt 40 0 2 else d.bitsAt 46 5 2
def cvSat (d : Desc) : Bool := if d.opcode = 0x23 then d.bitsAt 40 2 1 == 1 else d.bitsAt 46 7 1 == 1
def foStride (d : Desc) : Nat := d.field 40 4
def foSources (d : Desc) : Nat := d.bitsAt 44 0 13
def foAcc (d : Desc) : Nat := d.bitsAt 46 0 2
def foRed (d : Desc) : Nat := d.bitsAt 46 2 3
def foInit (d : Desc) : Bool := d.bitsAt 47 0 1 == 1

def planConvert (d : Desc) : Plan :=
  let isFold := d.opcode == 0x24
  let fi := opFmt d 16
  let fo := opFmt d 24
  let n := cvCount d
  let ok := fmtOk fi && fmtOk fo
  let inTiles := ceilDiv n (fmtE fi)
  let spread := if isFold then (foSources d - 1) * foStride d + inTiles else inTiles
  let src : Operand := ⟨opPla d 16, opGen d 16, spread * 4096, rRead + rOperate, false⟩
  let dst : Operand :=
    ⟨opPla d 24, opGen d 24, tileSpan fo n, rWrite + rOperate + (if isFold && foInit d then rRead else 0), true⟩
  let each := (upTo (if isFold then foSources d else 1)).map (fun k =>
    ({ src with pla := src.pla + k * foStride d * 4096, bytes := inTiles * 4096 } : Operand))
  { rsvd := tileWord d 16 || tileWord d 24 || !ok || n == 0 || ((isMx fi || isMx fo) && n % 32 != 0) || cvRound d == 3
      || (if isFold then !d.zero 44 13 3 || !d.zero 47 1 135 || foStride d < inTiles || foSources d == 0 || 4096 < foSources d
            || foAcc d == 3 || 4 < foRed d
          else !d.zero 40 3 189),
    pairs := !isFold || accPairs (foAcc d) fi (foRed d),
    operands := [src, dst],
    overlap := if isFold then each.any (fun s => s.meets dst)
      else src.meets dst && !(src.pla == dst.pla && fmtE fi == fmtE fo),
    total := ceilDiv n (fmtE fo), fld := true }

/-- The peer list's place and count (R204). -/
def peersPla (d : Desc) : Nat := d.bitsAt 48 0 48
def peersGen (d : Desc) : Nat := d.bitsAt 48 48 8
def peerCount (d : Desc) : Nat := d.bitsAt 56 0 13
def hasPeers (d : Desc) : Bool := 0x26 ≤ d.opcode && d.opcode ≤ 0x2A
def peersBad (d : Desc) : Bool :=
  !d.zero 48 56 8 || peersPla d % 16 != 0 || !d.zero 56 13 3 || !d.zero 58 0 48 || peerCount d == 0 || 4096 < peerCount d

/-- BROADCAST, GATHER, SCATTER (R204, R206). -/
def shareTiles (d : Desc) : Nat := d.bitsAt 24 0 24
def planPeers (d : Desc) : Plan :=
  let n := shareTiles d
  let total := if d.opcode = 0x28 then n else n * peerCount d
  let gather := d.opcode == 0x29
  { rsvd := plainTileBad d 16 || n == 0 || !d.zero 27 0 168 || peersBad d,
    operands := [⟨opPla d 16, opGen d 16, total * 4096, (if gather then rWrite else rRead) + rOperate, gather⟩],
    total := total, mov := true }

/-- REDUCE_SCATTER and ALL_REDUCE (R204, R205). -/
def planReduce (c : Chip) (d : Desc) : Plan :=
  let r := c.fwRegion d none
  { rsvd := fwBad d r || peersBad d || (d.opcode == 0x26 && r.tiles % peerCount d != 0),
    pairs := accPairs r.acc r.inFmt r.red,
    operands := [⟨r.pla, r.gen, r.tiles * 4096, rWrite + rOperate, true⟩], fld := true, mov := true }

/-- OPT_STEP (R208, R210, R212). -/
def optTiles (d : Desc) : Nat := d.bitsAt 56 0 15
def optFuse (d : Desc) : Bool := d.bitsAt 58 2 1 == 1
def optContrib (d : Desc) : Nat := d.bitsAt 62 0 13
def optParts (d : Desc) : Nat := 2 ^ d.bitsAt 62 13 3
def optAcc (d : Desc) : Nat := if optF d = fp64 then 1 else 0

/-- The region of a fused OPT_STEP. -/
def Chip.optRegion (c : Chip) (d : Desc) (op : Option Nat) : Region :=
  { st := .arming, d := d, op := op, pla := optPla d 0, gen := optGen d 0, tiles := optTiles d, seq := d.field 60 2,
    contributors := optContrib d, parts := optParts d, inFmt := optFmt d 3, outFmt := optFmt d 0, acc := optAcc d, red := 0,
    round := d.bitsAt 58 3 2, sat := d.bitsAt 58 5 1 == 1, init := false, part' := false,
    limit := c.beatsFor d.ctx (d.field 59 1), seed := 0, listPla := optPla d 3, listGen := optGen d 3, handle := 0, tenant := 0,
    pages := 0 }

def planOpt (d : Desc) : Plan :=
  let keeps := optKeeps d
  let n := optTiles d * fmtE (optFmt d 0)
  let words := keeps ++ [3]
  let fused := optFuse d
  let tensor (k : Nat) : Operand :=
    ⟨optPla d k, optGen d k, optTiles d * (optSpan d k 0).2, rRead + rWrite + rOperate, true⟩
  let g : Operand := ⟨optPla d 3, optGen d 3, tileSpan (optFmt d 3) n, rRead + rOperate, false⟩
  let ts := keeps.map tensor ++ (if fused then [] else [g])
  { rsvd := optAlgo d == 3 || d.bitsAt 58 3 2 == 3 || !d.zero 58 6 2 || !d.zero 57 7 1 || !d.zero 48 56 8 || d.bitsAt 48 0 6 != 0
      || words.any (fun k => opWordBad d (16 + 8 * k) || !fmtOk (optFmt d k))
      || keeps.any (fun k => optPla d k % 4096 != 0)
      || (if fused then optPla d 3 % 4 != 0 || optContrib d == 0 || 4096 < optContrib d || d.bitsAt 62 13 3 > 5
            || !partsOk (optFmt d 3) (optFmt d 0) (optParts d)
          else optPla d 3 % 4096 != 0)
      || (optAlgo d != 0 && d.field 32 8 != 0) || optTiles d == 0 || 16384 < optTiles d,
    pairs := keeps.all (fun k => optFmt d k < 4) && accPairs (optAcc d) (optFmt d 3) 0,
    operands := ts,
    overlap := ts.zipIdx.any (fun a => ts.zipIdx.any (fun b => a.2 < b.2 && a.1.meets b.1)),
    total := if fused then 0 else optTiles d, fld := true }

/-- SEAL and CHECK (R221). -/
def planSeal (d : Desc) : Plan :=
  let n := d.bitsAt 24 0 24
  { rsvd := plainTileBad d 16 || n == 0 || !d.zero 27 0 296,
    operands := [⟨opPla d 16, opGen d 16, n * 4096, rRead + rOperate, false⟩], total := n,
    info := if d.opcode = 0x2C then n else 0, fld := true }

/-- COMPLICATION (R213 to R216). -/
def coSteps (d : Desc) : List Nat := (upTo 8).map (fun j => d.field (48 + 2 * j) 2)
def coLoads (d : Desc) (k : Nat) : Bool := (compSteps (coSteps d)).any (fun x => stepOp x == 1 && stepA x == k)
def coCount (rcd : List Byte) : Nat := ofBytesLE (slice rcd 32 4)
def coSeed (rcd : List Byte) : Nat := ofBytesLE (slice rcd 36 4)
def coByte (rcd : List Byte) : Nat := (rcd.getD 40 0).toNat

/-- A reserved step: an OP, a bit, or an operand that must be 0; CLAMP and SCALE name two constants in a row. -/
def stepBad (x : Nat) : Bool :=
  bitsOf x 14 2 != 0 || 11 < stepOp x
  || (stepOp x == 1 && (1 < stepA x || stepB x != 0))
  || ((stepOp x == 2 || stepOp x == 6) && (stepB x < 8 || stepB x == 15))
  || ((stepOp x == 7 || stepOp x == 10 || stepOp x == 11) && stepB x != 0)

def planComp (d : Desc) (count : Nat) : Plan :=
  let ws := coSteps d
  let useB := coLoads d 1
  let fo := opFmt d 32
  let inOp (off : Nat) : Operand := ⟨opPla d off, opGen d off, tileSpan (opFmt d off) count, rRead + rOperate, false⟩
  let out : Operand := ⟨opPla d 32, opGen d 32, tileSpan fo count, rWrite + rOperate, true⟩
  let ins := (16, inOp 16) :: (if useB then [(24, inOp 24)] else [])
  { rsvd := tileWord d 16 || !fmtOk (opFmt d 16) || (if useB then tileWord d 24 || !fmtOk (opFmt d 24) else d.field 24 8 != 0)
      || tileWord d 32 || !fmtOk fo || !d.zero 40 56 8 || d.bitsAt 40 0 6 != 0 || (compSteps ws).any stepBad
      || (compSteps ws).isEmpty || (ws.dropWhile (fun x => stepOp x != 0)).any (fun x => stepOp x != 0 || bitsOf x 14 2 != 0),
    operands := ins.map (fun e => e.2) ++ [out],
    overlap := ins.any (fun e => e.2.meets out && !(e.2.pla == out.pla && fmtE (opFmt d e.1) == fmtE fo)),
    total := ceilDiv count (fmtE fo), fld := true }

/-- WATCH (R222). -/
def waCount (d : Desc) : Nat := d.field 32 4
def planWatch (d : Desc) : Plan :=
  let f := opFmt d 16
  let src : Operand := ⟨opPla d 16, opGen d 16, tileSpan f (waCount d), rRead + rOperate, false⟩
  let out : Operand := ⟨opPla d 24, opGen d 24, 64, rWrite + rOperate, true⟩
  { rsvd := tileWord d 16 || !fmtOk f || opWordBad d 24 || opFmt d 24 != 0 || opPla d 24 % 64 != 0 || waCount d == 0
      || (isMx f && waCount d % 32 != 0) || !d.zero 36 0 224,
    operands := [src, out], overlap := src.meets out, total := ceilDiv (waCount d) (fmtE f), fld := true }

/-- The plan of a descriptor; `count` is COMPLICATION's COUNT, which stands in its record. -/
def Chip.planOf (c : Chip) (d : Desc) (count : Nat) : Plan :=
  match d.opcode with
  | 0x20 => planCopy d
  | 0x21 => planCopy d
  | 0x22 => planScrub d
  | 0x23 => planConvert d
  | 0x24 => planConvert d
  | 0x26 => planReduce c d
  | 0x27 => planReduce c d
  | 0x28 => planPeers d
  | 0x29 => planPeers d
  | 0x2A => planPeers d
  | 0x2B => planOpt d
  | 0x2C => planSeal d
  | 0x2D => planSeal d
  | 0x2E => planComp d count
  | _ => planWatch d

/-- The 64-byte record of OPT_STEP or COMPLICATION: its place. -/
def recordAt (d : Desc) : Option (Nat × Nat) :=
  if d.opcode = 0x2B then some (d.bitsAt 48 0 48, d.bitsAt 48 48 8)
  else if d.opcode = 0x2E then some (d.bitsAt 40 0 48, d.bitsAt 40 48 8)
  else none

/-- Reserved bits of a record, and values outside their ranges (DEDUCED, log 18). -/
def recordBad (d : Desc) (r : List Byte) : Bool :=
  if d.opcode = 0x2B then (r.drop 32).any (fun b => b != 0) || ofBytesLE (slice r 28 4) = 0
  else
    let mx := isMx (opFmt d 32) || isMx (opFmt d 16) || (coLoads d 1 && isMx (opFmt d 24))
    coByte r ≥ 64 || bitsOf (coByte r) 3 2 = 3 || (r.drop 41).any (fun b => b != 0) || coCount r = 0 || (mx && coCount r % 32 != 0)

/-! ### Admission (R189, R190) -/

/-- The sequencer that holds the fewest operators, the lowest on a tie, if it has room for one more and an entry of its completion buffer for
it: an operator it holds has reserved one (R113, R189). -/
def Chip.seqLoad (c : Chip) (n : Nat) : Nat := countIf (fun (e : Nat × Op) => e.2.seqn == n) c.eng.ops
def Chip.pickSeq (c : Chip) : Option Nat :=
  let best := (upTo 16).foldl (fun b n => if c.seqLoad n < c.seqLoad b then n else b) 0
  if c.seqLoad best < 16 && c.posted (bufSeq best) + c.seqLoad best < 64 then some best else none

/-- Step 4: every pool operand; the first failure, or the tile-check modes of the extents. -/
def Chip.checkOperands (c : Chip) (ctx : Nat) (ops : List Operand) : Chip × Sum (Status × Operand) (List Nat) :=
  ops.foldl (fun (a : Chip × Sum (Status × Operand) (List Nat)) o =>
    match a.2 with
    | .inl _ => a
    | .inr modes =>
      match a.1.wouldAdmit elbSeq (o.req ctx) with
      | (c, some (st, _), _) => (c, .inl (st, o))
      | (c, none, x) => (c, .inr (modes ++ [(x.map (fun y => y.e.tchk)).getD 0]))) (c, .inr [])

/-- The peers of a list, or none for a reserved bit or a misaligned PLA (R187). -/
def parsePeers (n : Nat) (b : List Byte) : Option (List Peer) :=
  let xs := (upTo n).map (fun i => ofBytesLE (slice b (16 * i) 16))
  if xs.any (fun x => bitsOf x 24 8 != 0 || bitsOf x 56 8 != 0 || bitsOf x 112 16 != 0 || bitsOf x 64 12 != 0) then none
  else some (xs.map (fun x => { node := BitVec.ofNat 24 x, ctx := bitsOf x 32 16, gen := bitsOf x 48 8, pla := bitsOf x 64 48 }))

/-- Faulted pretranslations of a fetched descriptor: operand word, page and detail (05_host_translation.md R143). -/
def Chip.preFaults (c : Chip) (d : Desc) : List (Nat × Nat × Nat) :=
  match (c.ring d.ring).descs.find? (fun f => f.index = d.index) with
  | some f => f.pre.filterMap (fun p => match p.st with
    | .fault n => some (p.off, p.va / 4096, n)
    | _ => none)
  | none => []

/-- A read of a record or list for step 5: its bytes, or how it failed. -/
inductive RecGot
  | none
  | wait
  | fail (st : Status) (pla gen : Nat)
  | bytes (b : List Byte)
  deriving DecidableEq, Repr

def Chip.readRec (c : Chip) (d : Desc) (at' : Option (Nat × Nat)) (n : Nat) : Chip × RecGot :=
  match at' with
  | .none => (c, .none)
  | some (pla, gen) =>
    match c.poolRead elbSeq 26 (unitReq d.ctx pla n (some gen) rRead false) with
    | (c, .wait) => (c, .wait)
    | (c, .got st _ _ b) => (c, if st.good then .bytes b else .fail st pla gen)

/-- An operator held by a sequencer. -/
def Chip.hold (c : Chip) (o : Op) : Chip :=
  c.setEng { c.eng with ops := put c.eng.ops c.eng.nextOp o, nextOp := c.eng.nextOp + 1 }

/-- The region that an operator arms (R183): REDUCE_SCATTER, ALL_REDUCE, a fused OPT_STEP. -/
def Chip.armsRegion (c : Chip) (d : Desc) : Option Region :=
  if d.opcode == 0x26 || d.opcode == 0x27 then some (c.fwRegion d none)
  else if d.opcode == 0x2B && optFuse d then some (c.optRegion d none)
  else none

/-- An operator that arms a region, past R190: steps 6 to 8 of R168; the rest runs on the list. -/
def Chip.armOp (c : Chip) (d : Desc) (o : Op) (r : Region) : Chip :=
  match c.wouldAdmit elbSeq r.targetReq with
  | (c, some (st, _), _) => c.finish (bufSeq o.seqn) d st 0x53 0 (c.operandFault d.ctx st r.pla r.gen)
  | (c, none, x) =>
    let r := { r with op := some c.eng.nextOp, handle := (x.map (fun y => y.handle)).getD 0,
                      tenant := (x.map (fun y => y.e.tenant)).getD 0 }
    match c.reserveRegion r with
    | .inl (st, n) => c.refuse (bufSeq o.seqn) d st n
    | .inr (c, slot) => c.hold { o with slot := some slot }

/-- What step 5 of R190 has read, or how it ends: it waits for a snoop, or it refuses with a status and an operand. -/
inductive Step5
  | wait
  | fail (st : Status) (detail pla gen : Nat)
  | ok (rcd : List Byte) (peers : List Peer) (modes : List Nat) (plan : Plan)
  deriving DecidableEq, Repr

/-- Step 5 of R190: the record, the peer list and the contributor list. COMPLICATION's COUNT stands in its record, so the spans that it gives are
checked by step 4 once it is read (DEDUCED, log 18). -/
def Chip.step5 (c : Chip) (d : Desc) (p0 : Plan) (modes0 : List Nat) : Chip × Step5 :=
  match c.readRec d (recordAt d) 64 with
  | (c, .wait) => (c, .wait)
  | (c, .fail st pla gen) => (c, .fail st 0x54 pla gen)
  | (c, rcd) =>
    let rb := match rcd with | .bytes b => b | _ => []
    if (recordAt d).isSome && recordBad d rb then (c, .fail .formatFault 0x54 0 0)
    else
      let p := if d.opcode = 0x2E then c.planOf d (coCount rb) else p0
      match (if d.opcode = 0x2E then c.checkOperands d.ctx p.operands else (c, .inr modes0)) with
      | (c, .inl (st, o)) => (c, .fail st 0x53 o.pla o.gen)
      | (c, .inr modes) =>
        match c.readRec d (if hasPeers d then some (peersPla d, peersGen d) else none) (16 * peerCount d) with
        | (c, .wait) => (c, .wait)
        | (c, .fail st pla gen) => (c, .fail st 0x54 pla gen)
        | (c, ps) =>
          match (match ps with | .bytes b => parsePeers (peerCount d) b | _ => some []) with
          | none => (c, .fail .formatFault 0x54 (peersPla d) (peersGen d))
          | some peers =>
            match c.armsRegion d with
            | none => (c, .ok rb peers modes p)
            | some r =>
              match c.wouldAdmit elbSeq r.listReq with
              | (c, some (st, _), _) => (c, .fail st 0x54 r.listPla r.listGen)
              | (c, none, _) => (c, .ok rb peers modes p)

/-- A descriptor taken by a sequencer: the checks of R190 in order. While every sequencer is full or has no completion entry free (R113), or a
record's read waits for a snoop, it stays in RNG's buffer and the command is presented again. -/
def Chip.opTake (c : Chip) (d : Desc) : Chip :=
  match c.pickSeq with
  | none => c
  | some n =>
    let no (c : Chip) (st : Status) (detail pla gen : Nat) : Chip := c.finish (bufSeq n) d st detail 0
      (if detail = 0x53 || detail = 0x54 then c.operandFault d.ctx st pla gen else { status := st, addr := pla, gen := gen })
    let p0 := c.planOf d 1
    if !c.bit rSEQ_CTL 0 || (p0.fld && !c.bit rFLD_CTL 0) || (p0.mov && !c.bit rMOV_CTL 0) then no c .busyRetry 0x50 0 0
    else if p0.rsvd then no c .formatFault 0x51 0 0
    else if !p0.pairs then no c .formatFault 0x52 0 0
    else
      match c.checkOperands d.ctx p0.operands with
      | (c, .inl (st, o)) => no c st 0x53 o.pla o.gen
      | (c, .inr modes0) =>
        match c.step5 d p0 modes0 with
        | (c, .wait) => c
        | (c, .fail st detail pla gen) => no c st detail pla gen
        | (c, .ok rb peers modes p) =>
          if p.overlap then no c .formatFault 0x55 0 0
          else if (modes.any (fun m => m != 0) && !c.bit rTCHK_CTL 0)
              || ((d.opcode == 0x2C || d.opcode == 0x2D) && modes.all (fun m => m == 0)) then no c .unsupported 0x56 0 0
          else if c.card && peers.any (fun q => !c.isSelf q.node) then no c .unsupported 0x57 0 0
          else
            let o : Op := { seqn := n, d := d, total := p.total, info := p.info, peers := peers, rcd := rb, pre := c.preFaults d }
            match c.armsRegion d with
            | some r => c.armOp d o r
            | none => c.hold o

/-! ### Beat slices (R192, R193) -/

/-- The cost of a tile: unit cycles, stack bytes (bytes read and 5/4 of bytes written), host bytes. -/
structure Cost where
  cyc : Nat
  bytes : Nat
  host : Nat
  deriving DecidableEq, Repr

def lanes (fmts : List Nat) : Nat := if fmts.any (fun f => f == 0) then 128 else 512

def opCost (o : Op) : Cost :=
  let d := o.d
  match d.opcode with
  | 0x20 => ⟨64, (if cpSrcHost d then 0 else 4096) + (if cpDstHost d then 0 else 5120),
      (if cpSrcHost d then 4096 else 0) + (if cpDstHost d then 4096 else 0)⟩
  | 0x21 => ⟨64, if cpDstHost d then 0 else 5120, if cpDstHost d then 4096 else 0⟩
  | 0x22 => ⟨64, 5120, 0⟩
  | 0x23 =>
    let e := fmtE (opFmt d 24)
    ⟨2 * ceilDiv e (lanes [opFmt d 16, opFmt d 24]), fmtBytes (opFmt d 16) e + 5120, 0⟩
  | 0x24 =>
    let e := fmtE (opFmt d 24)
    let k := foSources d + (foInit d).toNat
    ⟨(k + 1) * ceilDiv e (lanes [opFmt d 16, opFmt d 24]), k * fmtBytes (opFmt d 16) e + 5120, 0⟩
  | 0x28 => ⟨64 * peerCount d, 4096, 0⟩
  | 0x29 => ⟨64, 5120, 0⟩
  | 0x2A => ⟨64, 4096, 0⟩
  | 0x2B =>
    let e := fmtE (optFmt d 0)
    let k := if optAlgo d = 0 then 8 else if optAlgo d = 1 then 4 else 3
    let kept := sumOf ((optKeeps d).map (fun i => fmtBytes (optFmt d i) e))
    ⟨k * ceilDiv e (lanes ((optKeeps d ++ [3]).map (optFmt d))), kept + fmtBytes (optFmt d 3) e + kept * 5 / 4, 0⟩
  | 0x2C => ⟨8, 4105, 0⟩
  | 0x2D => ⟨8, 4105, 0⟩
  | 0x2E =>
    let e := fmtE (opFmt d 32)
    let ss := compSteps (coSteps d)
    let x := countIf (fun w => stepOp w == 10 || stepOp w == 11) ss
    let inBytes := fmtBytes (opFmt d 16) e + (if coLoads d 1 then fmtBytes (opFmt d 24) e else 0)
    ⟨(ss.length + x + 1) * ceilDiv e 512, inBytes + 5120, 0⟩
  | 0x2F => ⟨ceilDiv (fmtE (opFmt d 16)) (lanes [opFmt d 16]), 4096, 0⟩
  | _ => ⟨64, 9216, 0⟩

/-- The most tiles of the slice from tile `a` that one peer takes or gives. -/
def peerMost (o : Op) (a n : Nat) : Nat :=
  if o.d.opcode = 0x28 then n
  else if o.d.opcode = 0x29 || o.d.opcode = 0x2A then
    let share := shareTiles o.d
    let first := min n (share - a % share)
    max first (min share (n - first))
  else 0

/-- Whether an operator's tiles run on the movers. -/
def opMover (o : Op) : Bool :=
  o.seqn = 16 || o.d.opcode ≤ 0x22 || (0x26 ≤ o.d.opcode && o.d.opcode ≤ 0x2A)

/-- The bound of a slice of `n` tiles (R193). -/
def Chip.sliceBound (c : Chip) (o : Op) (n : Nat) : Nat :=
  let k := opCost o
  let s := max 1 (c.aget (rSTK_REG + 16 * (if opMover o then 25 else 26)) 1 7)
  let q := if (c.ring o.d.ring).loc = 1 then 320 else 192
  200 + max (max (ceilDiv n 32 * k.cyc) (ceilDiv (n * k.bytes * 100) (19200 * s)))
    (max (ceilDiv (n * k.host) q) (ceilDiv (peerMost o o.next n * 4096) 320))

/-- The largest slice whose bound fits, bit by bit. -/
def Chip.largestSlice (c : Chip) (o : Op) (left : Nat) : Nat → Nat → Nat
  | 0, n => n
  | k + 1, n =>
    let m := n + 2 ^ k
    c.largestSlice o left k (if m ≤ o.total - o.next && c.sliceBound o m ≤ left then m else n)

/-- Whether an operator issues no further tile. -/
def Op.ended (o : Op) : Bool := o.stop.isSome || o.timedOut

/-- The unit of a tile (R191): counted from the first tile of its slice. -/
def Chip.unitOf (c : Chip) (o : Op) (tile : Nat) : Nat :=
  (c.slot32 o.d + (tile - o.base)) % 32 + (if opMover o then 32 else 0)

/-- Tiles of an operator's slice put in the units' queues while they have room, in order. -/
def Chip.issueTiles (c : Chip) (n : Nat) : Nat → Chip
  | 0 => c
  | k + 1 =>
    match c.opOf n with
    | none => c
    | some o =>
      if o.ended || o.next ≤ o.issue then c
      else
        let u := c.unitOf o o.issue
        if (c.unit u).queue.length ≥ 64 then c
        else ((c.putUnit u { c.unit u with queue := (c.unit u).queue ++ [⟨n, o.issue, []⟩] }).putOp n
          { o with issue := o.issue + 1, busy := o.busy + 1 }).issueTiles n k

/-- Every operator's tiles that now find room. -/
def Chip.issueAll (c : Chip) : Chip :=
  c.eng.ops.foldl (fun c e => if e.2.issue < e.2.next then c.issueTiles e.1 4096 else c) c

/-- A slice admitted (R45, R46, R193): from B+2, after the slice before it; where no tile fits it waits for the next beat and is then
admitted with at least one. -/
def Chip.sliceAdmit (c : Chip) (n : Nat) : Chip :=
  match c.opOf n with
  | none => c
  | some o =>
    if c.quiesced || o.seqn ≥ 16 || o.ended || o.aborted || o.total ≤ o.next || o.issue < o.next || o.busy != 0 || c.esc.cyc < 2
        || c.esc.bounds.toNat < o.wait.toNat then c
    else
      let k := c.largestSlice o (c.esc.len - c.esc.cyc) 25 0
      let forced := o.wait != 0
      if k = 0 && !forced then c.putOp n { o with wait := c.esc.bounds + 1 }
      else
        let k := max k 1
        (((c.putOp n { o with next := o.next + k, base := o.next, late := false, wait := 0 }).count (320 + o.seqn) 1).event .seq o.seqn 0x01 1
          (c.carries o.d.ctx o.d.tensorTag)).issueTiles n k

/-! ### The armed point -/

/-- Whether an arming is admitted, as a slice of one tile is (R194): from B+2, when its bound fits in the beat, or in the next beat whatever
its bound. Where R192 has no row for the operator, the bound is its 200 cycles alone (DESIGN CHOICE, log 17). An arming that does not fit waits. -/
def Chip.armAdmit (c : Chip) (n : Nat) (r : Region) : Chip × Bool :=
  let bound := if r.isOpt then c.sliceBound { seqn := 0, d := r.d, total := 1 } 1 else 200
  if c.quiesced || c.esc.cyc < 2 || c.esc.bounds.toNat < r.wait.toNat then (c, false)
  else if r.wait = 0 && c.esc.len - c.esc.cyc < bound then (c.putRegion n { r with wait := c.esc.bounds + 1 }, false)
  else (c, true)

/-- The armed point (R170), once the arming is admitted: the list is read, steps 9 and 10 run on it, and the slot is written. A target that would no longer pass
step 4 refuses the arming there (DEDUCED, log 17). -/
def Chip.foldArmed (c : Chip) (n : Nat) : Chip :=
  match c.region n with
  | none => c
  | some r =>
    if r.st != .arming then c else
    match c.armAdmit n r with
    | (c, false) => c
    | (c, true) =>
    match c.poolRead elbSeq 26 r.listReq with
    | (c, .wait) => c
    | (c, .got st _ _ d) =>
      if !st.good then c.armRefused n r st 0x44 r.listPla r.listGen
      else
        let words := (upTo r.contributors).map (fun i => ofBytesLE (slice d (4 * i) 4))
        if words.any (fun w => 2 ^ 24 ≤ w) then c.armRefused n r .formatFault 0x48 r.listPla r.listGen
        else if c.card && words.any (fun w => !c.isSelf (BitVec.ofNat 24 w)) then c.armRefused n r .unsupported 0x49 r.listPla r.listGen
        else match c.wouldAdmit elbSeq r.targetReq with
          | (c, some (st, _), _) => c.armRefused n r st 0x43 r.pla r.gen
          | (c, none, _) =>
            let c := c.putRegion n { r with st := .armed, list := words.map (BitVec.ofNat 24), beat := c.esc.bounds, prev := none }
            (c.setEng { c.eng with arming := c.eng.arming.filter (· != n) }).addInflight r.handle

/-! ### Meanings -/

def execFoldArmed (slot : Nat) (s : State) : Host.Outcome State Fault Refusal :=
  .next { s with chip := s.chip.live .fld (fun c => c.foldArmed slot) }

def execCopy (d : Desc) (s : State) : Host.Outcome State Fault Refusal :=
  .next { s with chip := s.chip.live .seq (fun c => c.opTake d) }

def execFill (d : Desc) (s : State) : Host.Outcome State Fault Refusal :=
  .next { s with chip := s.chip.live .seq (fun c => c.opTake d) }

def execScrub (d : Desc) (s : State) : Host.Outcome State Fault Refusal :=
  .next { s with chip := s.chip.live .seq (fun c => c.opTake d) }

def execConvert (d : Desc) (s : State) : Host.Outcome State Fault Refusal :=
  .next { s with chip := s.chip.live .seq (fun c => c.opTake d) }

def execFold (d : Desc) (s : State) : Host.Outcome State Fault Refusal :=
  .next { s with chip := s.chip.live .seq (fun c => c.opTake d) }

def execReduceScatter (d : Desc) (s : State) : Host.Outcome State Fault Refusal :=
  .next { s with chip := s.chip.live .seq (fun c => c.opTake d) }

def execAllReduce (d : Desc) (s : State) : Host.Outcome State Fault Refusal :=
  .next { s with chip := s.chip.live .seq (fun c => c.opTake d) }

def execBroadcast (d : Desc) (s : State) : Host.Outcome State Fault Refusal :=
  .next { s with chip := s.chip.live .seq (fun c => c.opTake d) }

def execGather (d : Desc) (s : State) : Host.Outcome State Fault Refusal :=
  .next { s with chip := s.chip.live .seq (fun c => c.opTake d) }

def execScatter (d : Desc) (s : State) : Host.Outcome State Fault Refusal :=
  .next { s with chip := s.chip.live .seq (fun c => c.opTake d) }

def execOptStepAdamw (d : Desc) (s : State) : Host.Outcome State Fault Refusal :=
  .next { s with chip := s.chip.live .seq (fun c => c.opTake d) }

def execOptStepLion (d : Desc) (s : State) : Host.Outcome State Fault Refusal :=
  .next { s with chip := s.chip.live .seq (fun c => c.opTake d) }

def execOptStepSgdMomentum (d : Desc) (s : State) : Host.Outcome State Fault Refusal :=
  .next { s with chip := s.chip.live .seq (fun c => c.opTake d) }

def execSeal (d : Desc) (s : State) : Host.Outcome State Fault Refusal :=
  .next { s with chip := s.chip.live .seq (fun c => c.opTake d) }

def execCheck (d : Desc) (s : State) : Host.Outcome State Fault Refusal :=
  .next { s with chip := s.chip.live .seq (fun c => c.opTake d) }

def execComplication (d : Desc) (s : State) : Host.Outcome State Fault Refusal :=
  .next { s with chip := s.chip.live .seq (fun c => c.opTake d) }

def execWatch (d : Desc) (s : State) : Host.Outcome State Fault Refusal :=
  .next { s with chip := s.chip.live .seq (fun c => c.opTake d) }

def execSliceAdmit (op : Nat) (s : State) : Host.Outcome State Fault Refusal :=
  .next { s with chip := s.chip.live .seq (fun c => c.sliceAdmit op) }

end Sys2Proof.Machine
end

