-- ==== Sys2Proof/Machine/FoldTiles.lean ====
section
/-! DEFINITION. What a fold engine does with a tile command (07_operators.md R195, R201 to R222). -/

namespace Sys2Proof.Machine

/-- How a tile ends: it waits for snoops and its command stays in the queue; it ran, with whether a read was corrected and its share of
INFO; a read lost data, or failed an ENFORCE check, with its share of INFO, and its outputs stay unwritten; an access failed the order of checks or a
translation, which ends the operator (status, detail, address, kind of the fault record). -/
inductive TileEnd
  | wait
  | ran (corrected : Bool) (info : Nat)
  | lost (pla : Nat)
  | bad (pla info : Nat)
  | stop (st : Status) (detail addr kind : Nat)
  deriving DecidableEq, Repr

/-- The end that a failed access makes (R195). -/
def endOf (st : Status) (step pla : Nat) : TileEnd :=
  if step != 0 || st == .busyRetry then .stop st 0x58 pla 0 else if st == .checkFail then .bad pla 0 else .lost pla

/-- A read by a tile: data and whether it was corrected, or how the tile ends. -/
def Chip.tileRead (c : Chip) (r : Req) : Chip × Sum TileEnd (List Byte × Bool) :=
  match c.readTiles elbSeq 26 r with
  | (c, .wait) => (c, .inl .wait)
  | (c, .got st n _ b) => if st.good then (c, .inr (b, st == .okCorrected)) else (c, .inl (endOf st n r.pla))

/-- Elements `lo` to `lo + n - 1` of a tensor: of an MX format by whole tiles, of another by its bytes. -/
def Chip.readElems (c : Chip) (ctx pla gen fmt lo n : Nat) : Chip × Sum TileEnd (List Num × Bool) :=
  let e := fmtE fmt
  if isMx fmt then
    let t0 := lo / e
    let t1 := (lo + n - 1) / e
    match c.tileRead (unitReq ctx (pla + t0 * 4096) ((t1 - t0 + 1) * 4096) (some gen) (rRead + rOperate) false) with
    | (c, .inl x) => (c, .inl x)
    | (c, .inr (b, cor)) =>
      (c, .inr (slice ((upTo (t1 - t0 + 1)).flatMap (fun i => tileDec fmt (slice b (4096 * i) 4096) e)) (lo - t0 * e) n, cor))
  else
    let sz := fmtBits fmt / 8
    match c.tileRead (unitReq ctx (pla + lo * sz) (n * sz) (some gen) (rRead + rOperate) false) with
    | (c, .inl x) => (c, .inl x)
    | (c, .inr (b, cor)) => (c, .inr (partDec fmt b n, cor))

/-- The output request of a tile. -/
def outReq (ctx pla gen : Nat) : Req := unitReq ctx pla 4096 (some gen) (rWrite + rOperate) true

/-- An encoded tile written whole: elements from its count onward keep their previous values (R202). -/
def Chip.outTile (c : Chip) (u : Nat) (d : Desc) (pla gen fmt : Nat) (x : Encoded) (corrected : Bool) (info : Nat) : Chip × TileEnd :=
  let r := outReq d.ctx pla gen
  let (c, clear) := c.clearFor elbSeq 26 [(r, [])]
  if !clear then (c, .wait)
  else
    let (c, old) := if x.codes.length = fmtE fmt then (c, .inr (zeros 4096, false)) else c.tileRead { r with write := false }
    match old with
    | .inl e => (c, e)
    | .inr (b, cor) =>
      let (c, act) := c.fldOut u d fmt pla x
      if act = 2 && c.stopped then (c, .wait)
      else
        match c.poolWrite elbSeq 26 r (tileEnc fmt x b) with
        | (c, .wait) => (c, .wait)
        | (c, .got st n _ _) =>
          if st.good then (c.event .fld u 0x03 1 (c.carries d.ctx d.tensorTag), .ran (corrected || cor) info) else (c, endOf st n pla)

/-- CONVERT (R202): an MX format to itself copies scales and elements (R161). -/
def Chip.tileConvert (c : Chip) (u : Nat) (d : Desc) (i : Nat) : Chip × TileEnd :=
  let fi := opFmt d 16
  let fo := opFmt d 24
  let lo := i * fmtE fo
  let n := min (fmtE fo) (cvCount d - lo)
  let dst := opPla d 24 + i * 4096
  if fi = fo && isMx fi then
    match c.tileRead (unitReq d.ctx (opPla d 16 + i * 4096) 4096 (some (opGen d 16)) (rRead + rOperate) false) with
    | (c, .inl e) => (c, e)
    | (c, .inr (b, cor)) =>
      let g := fmtGroup fo
      let x : Encoded := { codes := (unpackBits (fmtBits fo) g (slice b 256 (n / 32 * g))).take n,
                           scales := (b.take (n / 32)).map (fun y => y.toNat), specials := 0, special := [] }
      (c.count (168 + fi) n).outTile u d dst (opGen d 24) fo x cor 0
  else
    match c.readElems d.ctx (opPla d 16) (opGen d 16) fi lo n with
    | (c, .inl e) => (c, e)
    | (c, .inr (vs, cor)) =>
      let x := encFrom fo (cvRound d) (cvSat d) (cvSeed d) lo vs
      (c.count (168 + fi) n).outTile u d dst (opGen d 24) fo x cor x.specials

/-- The sources of a FOLD's output tile added in order of k (R203). -/
def Chip.foldSources (c : Chip) (u : Nat) (d : Desc) (lo n : Nat) (acc0 : Option (List Nat)) (sp0 sat0 : Nat) (cor0 : Bool) :
    Chip × Sum TileEnd (List Nat × Nat × Nat × Bool) :=
  let fi := opFmt d 16
  let (c, r) := (upTo (foSources d)).foldl (fun (a : Chip × Sum TileEnd (Option (List Nat) × Nat × Nat × Bool)) k =>
    match a.2 with
    | .inl _ => a
    | .inr (acc, sp, sat, cor) =>
      match a.1.readElems d.ctx (opPla d 16 + k * foStride d * 4096) (opGen d 16) fi lo n with
      | (c, .inl e) => (c, .inl e)
      | (c, .inr (vs, cor')) =>
        let (vs, s) := bringAll (foAcc d) vs
        let (acc, t) := addInputs (foAcc d) (foRed d) acc vs
        (c.countIn d u fi (foRed d) n, .inr (some acc, sp + s, sat + t, cor || cor'))) (c, .inr (acc0, sp0, sat0, cor0))
  (c, match r with
    | .inl e => .inl e
    | .inr (acc, sp, sat, cor) => .inr (acc.getD [], sp, sat, cor))

/-- FOLD (R203). DST's contents, with INIT 1, are the first input (DESIGN CHOICE, log 18). -/
def Chip.tileFold (c : Chip) (u : Nat) (d : Desc) (i : Nat) : Chip × TileEnd :=
  let fo := opFmt d 24
  let lo := i * fmtE fo
  let n := min (fmtE fo) (cvCount d - lo)
  let dst := opPla d 24 + i * 4096
  let (c, start) := if !foInit d then (c, Sum.inr (none, 0, 0, false)) else
    match c.tileRead (unitReq d.ctx dst 4096 (some (opGen d 24)) (rRead + rOperate) false) with
    | (c, .inl e) => (c, Sum.inl e)
    | (c, .inr (b, cor)) =>
      let (vs, s) := bringAll (foAcc d) ((tileDec fo b (fmtE fo)).take n)
      let (acc, t) := addInputs (foAcc d) (foRed d) none vs
      (c.countIn d u fo (foRed d) n, Sum.inr (some acc, s, t, cor))
  match start with
  | .inl e => (c, e)
  | .inr (acc0, sp0, sat0, cor0) =>
    match c.foldSources u d lo n acc0 sp0 sat0 cor0 with
    | (c, .inl e) => (c, e)
    | (c, .inr (acc, sp, sat, cor)) =>
      let vs := acc.map (fun x => accOut (foAcc d) (foRed d) (accDec (foAcc d) x) (foSources d))
      let x := encFrom fo (cvRound d) (cvSat d) (cvSeed d) lo vs
      ((c.bump rFLD_SPECIALS sp).bump rFLD_INT_SAT sat).outTile u d dst (opGen d 24) fo x cor (sp + x.specials)

/-- OPT_STEP with G in the pool (R208 to R211). -/
def Chip.tileOpt (c : Chip) (u : Nat) (o : Op) (i : Nat) : Chip × TileEnd :=
  let d := o.d
  let e := fmtE (optFmt d 0)
  let keeps := optKeeps d
  let (c, clear) := c.clearFor elbSeq 26 (keeps.map (fun k => (optReq d k i true, [])))
  if !clear then (c, .wait)
  else
    match c.optRead d keeps i with
    | (c, .wait) => (c, .wait)
    | (c, .fail st n pla) => (c, endOf st n pla)
    | (c, .have' wmv cor) =>
      match c.readElems d.ctx (optPla d 3) (optGen d 3) (optFmt d 3) (i * e) e with
      | (c, .inl x) => (c, x)
      | (c, .inr (g, cor')) =>
        let (g, sp) := bringAll (optAcc d) g
        let oc := optConst (optAlgo d) (optF d) o.rcd
        let (vs, bad) := optTile oc wmv g
        let outs := optOut d oc i vs
        let (c, lent) := c.clearFor elbSeq 26 (outs.map (fun x => (optReq d x.1 i true, x.2.2.2)))
        if !lent then (c, .wait) else
        let c := (keeps ++ [3]).foldl (fun c k => c.count (168 + optFmt d k) e) (c.bump rFLD_SPECIALS sp)
        let (c, act) := outs.foldl (fun (a : Chip × Nat) x =>
          let (c, k) := a.1.fldOut u d (optFmt d x.1) x.2.1 x.2.2.1
          (c, max a.2 k)) (c, 0)
        if act = 2 && c.stopped then (c, .wait)
        else
          outs.foldl (fun (a : Chip × TileEnd) x =>
            match a.2 with
            | .ran cor n =>
              match a.1.poolWrite elbSeq 26 (optReq d x.1 i true) x.2.2.2 with
              | (c, .wait) => (c, .wait)
              | (c, .got st n' _ _) => if st.good then (c, .ran cor n) else (c, endOf st n' x.2.1)
            | z => (a.1, z)) (c, .ran (cor || cor') bad)

/-- COMPLICATION (R213 to R216). -/
def Chip.tileComp (c : Chip) (u : Nat) (o : Op) (i : Nat) : Chip × TileEnd :=
  let d := o.d
  let fo := opFmt d 32
  let lo := i * fmtE fo
  let n := min (fmtE fo) (coCount o.rcd - lo)
  let input (c : Chip) (k off : Nat) : Chip × Sum TileEnd (List Num × Bool) :=
    if coLoads d k then
      let (c, r) := c.readElems d.ctx (opPla d off) (opGen d off) (opFmt d off) lo n
      (c.count (168 + opFmt d off) n, r)
    else (c, .inr ([], false))
  match input c 0 16 with
  | (c, .inl e) => (c, e)
  | (c, .inr (as, ca)) =>
    match input c 1 24 with
    | (c, .inl e) => (c, e)
    | (c, .inr (bs, cb)) =>
      let consts := (upTo 8).map (fun j => fp32.dec (ofBytesLE (slice o.rcd (4 * j) 4)))
      let b := coByte o.rcd
      let rs := (upTo n).map (fun j => compElem consts (coSteps d) (bitsOf b 0 3) (as.getD j .zero) (bs.getD j .zero))
      let sp := sumOf (rs.map (fun e => e.2))
      let x := encFrom fo (bitsOf b 3 2) (bitOf b 5) (coSeed o.rcd) lo (rs.map (fun e => e.1))
      (c.bump rFLD_SPECIALS sp).outTile u d (opPla d 32 + i * 4096) (opGen d 32) fo x (ca || cb) (sp + x.specials)

/-- SEAL and CHECK (R221). A CHECK under ENFORCE that finds a mismatch reports it and fails. -/
def Chip.tileSeal (c : Chip) (d : Desc) (i : Nat) : Chip × TileEnd :=
  let pla := opPla d 16 + i * 4096
  match c.poolRead elbSeq 26 (unitReq d.ctx pla 4096 (some (opGen d 16)) (rRead + rOperate) false) with
  | (c, .wait) => (c, .wait)
  | (c, .got st n x b) =>
    if !st.good then (c, endOf st n pla)
    else match x with
    | none => (c, .ran false 0)
    | some x =>
      let t := x.target pla
      let cor := st == .okCorrected
      if d.opcode = 0x2C then (c.storeCheck 26 t b, .ran cor 0)
      else match c.compareCheck 26 t b with
        | (c, .equal) => (c, .ran cor 0)
        | (c, .stale) => ((c.bump rTCHK_STALE_READS 1).storeCheck 26 t b, .ran cor 0)
        | (c, .different) =>
          if t.tchk = 2 then
            (c.report { cls := .tileCheck, blk := .int, addr := pla, ctx := some t.ctx, tenant := t.tenant }, .bad pla 1)
          else (c.bump rTCHK_MISMATCH 1, .ran cor 1)
        | (c, .unreadable) => (c.bump rTCHK_TABLE_ERRORS 1, if t.tchk = 2 then .bad pla 0 else .ran cor 0)

/-- A tile of WATCH: its elements kept until the summary is written (R222). -/
def Chip.tileWatch (c : Chip) (u : Nat) (n : Nat) (o : Op) (i : Nat) : Chip × TileEnd :=
  let d := o.d
  let f := opFmt d 16
  let lo := i * fmtE f
  let k := min (fmtE f) (waCount d - lo)
  match c.readElems d.ctx (opPla d 16) (opGen d 16) f lo k with
  | (c, .inl e) => (c, e)
  | (c, .inr (vs, cor)) =>
    (((c.count (168 + f) k).count (288 + u) k).modOp (some n) (fun o => { o with
      sums := put o.sums i (vs.map (fun v => (fp64.enc .rne false v).1)) }), .ran cor 0)

/-- An FP32 encoding rounded toward −∞ or +∞. -/
def fp32Toward (down : Bool) (v : Num) : Nat :=
  let x := (fp32.enc .rtz false v).1
  if v.isNan || v.isInf || fp32.dec x = v || !(fp32.dec x).lt v && !v.lt (fp32.dec x) then x
  else if v.isNeg == down then x + 1
  else x

/-- The summary of R222 over values in index order. -/
def watchSummary (vs : List Num) : List Byte :=
  let fins := vs.filter Num.finite
  let pick (f : Num → Num → Num) (e : Num) : Num := match fins with
    | [] => e
    | x :: r => r.foldl f x
  let sum := fins.foldl (fun a v => fp64.rnd (a.add v)) Num.zero
  let sq := fins.foldl (fun a v => fp64.rnd ((v.mul v).add a)) Num.zero
  bytesLE 8 vs.length ++ bytesLE 8 (countIf Num.isNan vs) ++ bytesLE 8 (countIf Num.isInf vs)
  ++ bytesLE 8 (countIf Num.isZero vs) ++ bytesLE 4 (fp32Toward true (pick Num.minimum (.inf false)))
  ++ bytesLE 4 (fp32Toward false (pick Num.maximum (.inf true))) ++ bytesLE 8 (fp64.enc .rne false sum).1
  ++ bytesLE 8 (fp64.enc .rne false sq).1 ++ zeros 8

/-- A tile command on a fold engine. -/
def Chip.fldTile (c : Chip) (u : Nat) (cmd : TileCmd) (o : Op) : Chip × TileEnd :=
  match o.d.opcode with
  | 0x23 => c.tileConvert u o.d cmd.tile
  | 0x24 => c.tileFold u o.d cmd.tile
  | 0x2B => c.tileOpt u o cmd.tile
  | 0x2C => c.tileSeal o.d cmd.tile
  | 0x2D => c.tileSeal o.d cmd.tile
  | 0x2E => c.tileComp u o cmd.tile
  | _ => c.tileWatch u cmd.op o cmd.tile

end Sys2Proof.Machine
end

