-- ==== Sys2Proof/Machine/Movers.lean ====
section
/-! DEFINITION. Movers: tiles between pool, host and peers, burst by burst; the start of a tile, an operator's completion
(05_host_translation.md R124 to R127, R142 to R149; 07_operators.md R188, R191, R195 to R200, R205 to R207). -/

namespace Sys2Proof.Machine

def rPCI_MOVER_RO : Nat := 8

/-! ### What a tile moves -/

/-- Tile `i` of a COPY, FILL or SCRUB, or a movement of a KV operation. -/
def opMove (o : Op) (i : Nat) : Move :=
  let d := o.d
  if o.seqn = 16 then o.moves.getD i ⟨.pattern 0, .pattern 0, 0, 0⟩
  else if d.opcode = 0x22 then ⟨.pattern 0, .pool (opPla d 16 + i * 4096) (some (opGen d 16)) rWrite, 4096, i * 4096⟩
  else
    let a := cpAlign d
    let lo := i * 4096 - a
    let n := min (cpBytes d) ((i + 1) * 4096 - a) - lo
    let at' (host : Bool) (off need : Nat) : End :=
      if host then .host off lo else .pool (opPla d off + lo) (some (opGen d off)) need
    ⟨if d.opcode = 0x21 then .pattern lo else at' (cpSrcHost d) 16 rRead, at' (cpDstHost d) (cpDstOff d) rWrite, n, lo⟩

/-- The bytes of a pattern: PATTERN of a FILL, zeros otherwise. -/
def patternBytes (d : Desc) (at' n : Nat) : List Byte :=
  if d.opcode = 0x21 then (upTo n).map (fun k => BitVec.ofNat 8 (d.field (24 + (at' + k) % 8) 1)) else zeros n

/-- The requests of an operator's movers carry its context; a KV operation's go through KVE's ELB and port. -/
def opElb (o : Op) : Nat := if o.seqn = 16 then elbKve else elbMov
def opPort (o : Op) : Nat := if o.seqn = 16 then 28 else 25

/-- What data moved adds to INFO: its bytes for KV_GATHER (08_kv_store.md R244). -/
def moveInfo (o : Op) (d : List Byte) : Nat := if o.seqn = 16 then d.length else 0

/-! ### The end of a tile -/

/-- The smaller offset of two translation faults; otherwise the first stop stays. -/
def mergeStop (a b : Option (Status × Nat × Nat × Nat)) : Option (Status × Nat × Nat × Nat) :=
  match a, b with
  | some (s, x, p, 3), some (t, y, q, 3) => if q < p then some (t, y, q, 3) else some (s, x, p, 3)
  | some z, _ => some z
  | none, z => z

/-- A tile ends: its unit is free, its operator takes the outcome, and tiles that waited for room are issued. -/
def Chip.endTile (c : Chip) (n : Nat) (e : TileEnd) (mirrors : List Nat) : Chip :=
  let c := c.modOp (some n) (fun o =>
    let o := { o with busy := o.busy - 1, mirrors := o.mirrors ++ mirrors }
    match e with
    | .ran cor k => { o with corrected := o.corrected || cor, info := if o.slot.isSome then o.info else o.info + k }
    | .lost pla => { o with lost := affect o.lost pla }
    | .bad pla k => { o with failed := affect o.failed pla, info := o.info + k }
    | .stop st detail a kind => { o with stop := mergeStop o.stop (some (st, detail, a, kind)) }
    | .wait => o)
  c.issueAll

/-- The run of a mover ended, with the requests it has outstanding forgotten. -/
def Chip.endRun (c : Chip) (before : Chip) (u n : Nat) (e : TileEnd) : Chip :=
  let c := c.putUnit u { c.unit u with run := none }
  let c := c.setEng { c.eng with txns := c.eng.txns.filter (fun t => t.2.unit != u) }
  c.endTile n e (newMirrors before c)

/-- How a tile ends when its data is written: it has run, or its source had ended in a translation fault (R146). -/
def Run.outcome (x : Run) (o : Op) : TileEnd :=
  match x.short with
  | none => .ran false (moveInfo o x.data)
  | some (k, off) => .stop .translationFault k off 3

/-! ### Requests -/

/-- A transaction of a mover: numbered from 0x8000 (log 12). -/
def Chip.movTxn (c : Chip) (u : Nat) (peer : Option Nat) (at' : Nat) (read : Bool) : Nat × Chip :=
  let t := 0x8000 + c.eng.nextTxn % 0x4000
  (t, c.setEng { c.eng with txns := put c.eng.txns t ⟨u, peer, at', read, c.esc.bounds⟩, nextTxn := (c.eng.nextTxn + 1) % 0x4000 })

/-- A read of host memory in the location of an operator's ring (R91, R126); the answer is a completion at the PCIe port or
of MGT, or RD_RSP. -/
def Chip.hostReadAt (c : Chip) (u : Nat) (o : Op) (addr n : Nat) : Chip :=
  let r := c.ring o.d.ring
  if r.loc = 1 then
    let (t, c) := c.movTxn u none 0 true
    c.emit (.msg (c.ownMsg 0x01 r.hostNode t r.remoteCtx addr n []) 0)
  else if c.portShut r.loc then c
  else if r.loc = 2 then c.emit (.mgtRead (BitVec.ofNat 64 addr) n)
  else c.hostOut 0 (.hostRead (c.ctx r.ctx).func (BitVec.ofNat 64 addr) n 0)

/-- A write of host memory; whether it ends at once (issued at the PCIe port or to MGT) or waits for its acknowledgement. -/
def Chip.hostWriteAt (c : Chip) (u : Nat) (o : Op) (addr : Nat) (d : List Byte) : Chip × Bool :=
  let r := c.ring o.d.ring
  if r.loc = 1 then
    let (t, c) := c.movTxn u none 0 false
    (c.emit (.msg (c.ownMsg 0x02 r.hostNode t r.remoteCtx addr d.length d) 0), false)
  else if r.loc = 2 then (c.emit (.mgtWrite (BitVec.ofNat 64 addr) d), true)
  else (c.hostOut d.length (.hostWrite (c.ctx r.ctx).func (BitVec.ofNat 64 addr) d (c.bit rPCI_CTL rPCI_MOVER_RO) 0), true)

/-- Where a burst of a host operand goes. -/
inductive HostAt
  | ok (addr len : Nat) (held : List Held)
  | needList (group : Nat)
  | walk (domain va : Nat)
  | fault (detail : Nat)
  deriving DecidableEq, Repr

/-- The key of entry `k` of the list of the operand word at an offset. -/
def listKey (word k : Nat) : Nat := word * 2 ^ 33 + k

/-- The translation of a burst (R125 to R127, R143, R147 to R149): `n` bytes left at byte `at'` of the operand at `word`. A burst crosses
no 4 KiB boundary of the host address. -/
def Chip.hostAt (c : Chip) (o : Op) (word at' n : Nat) (write : Bool) : Chip × HostAt :=
  let d := o.d
  let m := c.mapOf d.ctx
  let loc := (c.ring d.ring).loc
  let a := hostAddr d word
  match hostMode d word with
  | 1 => if m.direct then (c, .ok (a + at') (min n (4096 - (a + at') % 4096)) []) else (c, .fault 0x30)
  | 2 =>
    if !m.list || loc = 2 || !c.bit rXLT_CTL 0 then (c, .fault 0x30)
    else match look o.lists (listKey word (at' / 4096)) with
      | none => (c, .needList (at' / 4096 / 64))
      | some x =>
        if !bitOf x 0 || bitOf x 1 || bitsOf x 3 9 != 0 || (write && !bitOf x 2) then (c, .fault 0x36)
        else (c, .ok (x / 4096 * 4096 + at' % 4096) (min n (4096 - at' % 4096)) [])
  | _ =>
    if m.domain = 0 || loc = 2 || !c.bit rXLT_CTL 0 then (c, .fault 0x30)
    else
      let va := a + at'
      match o.pre.find? (fun p => p.1 == word && p.2.1 == va / 4096) with
      | some (_, _, k) => (c, .fault k)
      | none =>
        match c.translate m.domain va with
        | (c, .fault k) => (c, .fault k)
        | (c, .wait) => (c, .walk m.domain va)
        | (c, .mapped e) =>
          if write && !e.write then (c, .fault 0x33)
          else
            let k := min n (4096 - va % 4096)
            (c, .ok (e.out va) k [⟨m.domain, va, k, false⟩])

/-- The entries of a list in all: one for each 4 KiB of the operand (R147). -/
def listLen (o : Op) : Nat :=
  ceilDiv (if o.seqn = 16 then sumOf (o.moves.map (fun m => match m.src, m.dst with
    | .host _ _, _ => m.len
    | _, .host _ _ => m.len
    | _, _ => 0)) else cpBytes o.d) 4096

/-- A group of list entries asked for (R148). -/
def Chip.askList (c : Chip) (u : Nat) (o : Op) (word g : Nat) : Chip :=
  c.hostReadAt u o (hostAddr o.d word + 512 * g) (8 * min 64 (listLen o - 64 * g))

/-- Group `g` of the list read ahead of the burst that needs it (R148), unless its entries are there or the mover reads a group already. -/
def Chip.askAhead (c : Chip) (u n : Nat) (o : Op) (word g : Nat) : Chip :=
  if listLen o ≤ 64 * g || (look o.lists (listKey word (64 * g))).isSome || (c.unit u).ahead.isSome then c
  else (c.askList (u + 64) o word g).putUnit u { c.unit u with ahead := some (n, word, 64 * g) }

/-- The entries of a list kept with the descriptor. -/
def Op.keepList (o : Op) (word first : Nat) (es : List Nat) : Op :=
  { o with lists := es.zipIdx.foldl (fun l e => put l (listKey word (first + e.2)) e.1) o.lists }
def entriesOf (d : List Byte) : List Nat := (upTo (d.length / 8)).map (fun i => ofBytesLE (slice d (8 * i) 8))

/-! ### One burst (R127) -/

def Chip.setRun (c : Chip) (u : Nat) (x : Run) : Chip := c.putUnit u { c.unit u with run := some x }

/-- A tile moved: its bytes and itself counted (16_observation.md R462, R463). -/
def Chip.countMoved (c : Chip) (u n : Nat) (o : Op) : Chip :=
  let w := c.carries o.d.ctx o.d.tensorTag
  ((c.count (256 + u % 32) n).event .mov (u % 32) 0x01 n w).event .mov (u % 32) 0x02 1 w

/-- A translation fault ends the operator at the offset where the burst starts (R146). -/
def translationStop (detail off : Nat) : TileEnd := .stop .translationFault detail off 3

/-- A translation fault at an offset: a tile whose source has given bytes before it moves them first (R146). -/
def Chip.faultRun (c : Chip) (u : Nat) (x : Run) (m : Move) (detail off : Nat) : Chip :=
  if 0 < x.pos && x.pos < m.len then c.setRun u { x with pos := m.len, st := .ready, len := 0, held := [], short := some (detail, off) }
  else c.endRun c u x.cmd.op (translationStop detail off)

/-- The look-up of a mover's next burst while the current one runs (R142), and of the group of list entries after the one in use (R148):
a hit is kept for the burst; a miss starts the walk. -/
def Chip.lookAhead (c : Chip) (u n : Nat) (o : Op) (word at' left : Nat) (write : Bool) : Chip :=
  if left = 0 then c
  else
    let c := if hostMode o.d word = 2 then c.askAhead u n o word (at' / 4096 / 64 + 1) else c
    match c.hostAt o word at' left write with
    | (c, .ok addr k held) => c.putUnit u { c.unit u with next := some ⟨n, word, at', addr, k, held⟩ }
    | (c, .needList g) => c.askAhead u n o word g
    | (c, _) => c

/-- The burst after the one at byte `at'` of a mover's tile: of the same operand, of the tile's destination, or of the next tile's source. -/
def Chip.lookNext (c : Chip) (u : Nat) (o : Op) (x : Run) (m : Move) (word at' left k : Nat) (write : Bool) : Chip :=
  if k < left then c.lookAhead u x.cmd.op o word (at' + k) (left - k) write
  else match write, m.dst with
    | false, .host w b => c.lookAhead u x.cmd.op o w b m.len true
    | _, _ =>
      match (c.unit u).queue.head?.bind (fun cmd => (c.opOf cmd.op).map (fun p => (cmd, p))) with
      | some (cmd, p) =>
        if p.seqn != 16 && hasPeers p.d then c
        else
          let q := opMove p cmd.tile
          match q.src, q.dst with
          | .host w b, _ => c.lookAhead u cmd.op p w b q.len false
          | _, .host w b => c.lookAhead u cmd.op p w b q.len true
          | _, _ => c
      | none => c

/-- Where a burst goes: the translation looked up for it, or a look-up now. -/
def Chip.burstAt (c : Chip) (u n : Nat) (o : Op) (word at' left : Nat) (write : Bool) : Chip × HostAt :=
  match (c.unit u).next with
  | some y =>
    let c := c.putUnit u { c.unit u with next := none }
    if y.op = n && y.word = word && y.at' = at' && y.len ≤ left then (c, .ok y.addr y.len y.held) else c.hostAt o word at' left write
  | none => c.hostAt o word at' left write

/-- A host access that fails with a status ends the operator (DEDUCED, log 18). -/
def Chip.hostFails (c : Chip) (u : Nat) (x : Run) (m : Move) (st : Status) : Chip :=
  let pla := match m.src, m.dst with | .pool p _ _, _ => p | _, .pool p _ _ => p | _, _ => 0
  c.endRun c u x.cmd.op (.stop st 0x58 pla 0)

/-- The next step of a host end: its burst is issued, or the mover waits for a walk or a list; `done` bytes of `n + done` are through. -/
def Chip.hostBurst (c : Chip) (u : Nat) (o : Op) (x : Run) (m : Move) (word at' n done : Nat) (write : Bool) : Chip :=
  match c.burstAt u x.cmd.op o word at' n write with
  | (c, .fault k) => c.faultRun u x m k (m.off + done)
  | (c, .walk dn va) => c.setRun u { x with st := .walk dn va, held := [], beat := c.esc.bounds }
  | (c, .needList g) =>
    let c := if (c.unit u).ahead == some (x.cmd.op, word, 64 * g) then c else c.askList u o word g
    c.setRun u { x with st := .list word (64 * g), held := [], beat := c.esc.bounds }
  | (c, .ok addr k held) =>
    if c.portShut (c.ring o.d.ring).loc then c.hostFails u x m .blockReset
    else if !write then
      ((c.hostReadAt u o addr k).setRun u { x with st := .read, len := k, held := held, beat := c.esc.bounds }).lookNext u o x m word at' n k
        false
    else
      let (c, now) := c.hostWriteAt u o addr (slice x.data done k)
      if !now then (c.setRun u { x with st := .acks, len := k, held := held, beat := c.esc.bounds }).lookNext u o x m word at' n k true
      else if k = n then ((c.lookNext u o x m word at' n k true).countMoved u x.data.length o).endRun c u x.cmd.op (x.outcome o)
      else (c.setRun u { x with pos := x.pos + k, st := .ready, len := 0, held := [] }).lookNext u o x m word at' n k true

/-- The tile that a lost read of a movement affects: its source, or for a KV operation the tile of its destination (08_kv_store.md R244),
by its host address where it is host memory (log 19). -/
def lostAt (o : Op) (m : Move) (pla : Nat) : Nat :=
  if o.seqn = 16 then (match m.dst with
    | .pool p _ _ => p / 4096 * 4096
    | .host w a => (hostAddr o.d w + a) / 4096 * 4096
    | .pattern _ => pla)
  else pla

/-- Whether an operator is the data movement of a KV_GATHER, and the 4 KiB of the destination that a movement of it writes. -/
def Op.gathers (o : Op) : Bool := o.seqn == 16 && o.d.opcode == 0x31
def Op.page (o : Op) (i : Nat) : Nat :=
  match (opMove o i).dst with
  | .pool p _ _ => p / 4096
  | .host w a => ((if hostMode o.d w = 2 then 0 else hostAddr o.d w) + a) / 4096
  | .pattern _ => 0

/-- A tile whose read failed ends. A lost read of a gather leaves its 4 KiB of the destination unwritten, and that 4 KiB is affected once
(08_kv_store.md R244). -/
def Chip.lostRun (c : Chip) (u : Nat) (o : Op) (x : Run) (e : TileEnd) : Chip :=
  match e, o.gathers with
  | .lost _, true =>
    let p := o.page x.cmd.tile
    let c := c.modOp (some x.cmd.op) (fun o => { o with lostPages := p :: o.lostPages })
    c.endRun c u x.cmd.op (if o.lostPages.contains p then .ran false 0 else e)
  | _, _ => c.endRun c u x.cmd.op e

/-- A gather's movement whose data has been read (R244): the data waits until every movement into its 4 KiB of the destination has been
read, and the last of them writes it all, unless one was lost. The run that writes, or none where the tile has ended. -/
def Chip.gatherJoin (c : Chip) (u : Nat) (o : Op) (x : Run) : Chip × Option Run :=
  if !o.gathers || (look o.parked x.cmd.tile).isSome then (c, some x)
  else
    let i := x.cmd.tile
    let l := (upTo o.moves.length).filter (fun j => o.page j == o.page i)
    let parked := put o.parked i x.data
    if o.lostPages.contains (o.page i) then (c.endRun c u x.cmd.op (.ran false 0), none)
    else
      let c := c.modOp (some x.cmd.op) (fun o => { o with parked := parked })
      if l.any (fun j => (look parked j).isNone) then (c.endRun c u x.cmd.op (.ran false 0), none)
      else
        let first := l.headD i
        (c, some { x with cmd := { x.cmd with tile := first }, pos := (opMove o first).len, data := l.flatMap (fun j => lookD parked j []) })

/-- The next piece of a tile read from pool memory, or asked of the lender: no access crosses a 4 KiB boundary (R59). -/
def Chip.poolSource (c : Chip) (u : Nat) (o : Op) (x : Run) (m : Move) (pla : Nat) (gen : Option Nat) (need : Nat) : Chip :=
  let a := pla + x.pos
  let k := min (m.len - x.pos) (4096 - a % 4096)
  let r := unitReq o.d.ctx a k gen need false
  match c.wouldRead (opElb o) (opPort o) r with
  | (c, some (st, n), _) => c.endRun c u x.cmd.op (endOf st n a)
  | (c, none, some e) =>
    if e.e.lent then
      let (t, c) := c.movTxn u none 0 true
      let (c, ok) := c.lend e (c.ownMsg 0x01 e.e.lender t 0 0 k []) a 9
      if ok then c.setRun u { x with st := .read, len := k, beat := c.esc.bounds }
      else c.setEng { c.eng with txns := del c.eng.txns t }
    else
      match c.readTiles (opElb o) (opPort o) r with
      | (c, .wait) => c.setRun u x
      | (c, .got st n _ b) =>
        if st.good then
          let c := c.modOp (some x.cmd.op) (fun o => { o with corrected := o.corrected || st == .okCorrected })
          c.setRun u { x with data := x.data ++ b, pos := x.pos + k }
        else c.lostRun u o x (endOf st n (if n = 0 then lostAt o m pla else a))
  | (c, none, none) => c

/-- The next piece of a tile's data written to pool memory, or sent to the lender. SCRUB first invalidates the range's lines of the line
cache (R200). -/
def Chip.poolTarget (c : Chip) (u : Nat) (o : Op) (x : Run) (m : Move) (pla : Nat) (gen : Option Nat) (need : Nat) : Chip :=
  let w := x.pos - m.len
  let a := pla + w
  let k := min (x.data.length - w) (4096 - a % 4096)
  let r := unitReq o.d.ctx a k gen need true
  let data := slice x.data w k
  match c.wouldAdmit (opElb o) r with
  | (c, some (st, n), _) => c.endRun c u x.cmd.op (endOf st n a)
  | (c, none, some e) =>
    if e.e.lent then
      let (t, c) := c.movTxn u none 0 false
      let (c, ok) := c.lend e (c.ownMsg 0x02 e.e.lender t 0 0 k data) a 9
      if ok then c.setRun u { x with st := .acks, len := k, beat := c.esc.bounds }
      else (c.setEng { c.eng with txns := del c.eng.txns t }).setRun u x
    else
      let before := c
      let lines := linesOf (e.e.place a) k
      let c := if o.d.opcode = 0x22 && o.seqn != 16 then c.lccDrop (fun y => lines.contains y.line) else c
      match c.poolWrite (opElb o) (opPort o) r data with
      | (c, .wait) => c.setRun u x
      | (c, .got st n _ _) =>
        if !st.good then c.endRun before u x.cmd.op (endOf st n a)
        else if w + k = x.data.length then (c.countMoved u x.data.length o).endRun before u x.cmd.op (x.outcome o)
        else
          (c.modOp (some x.cmd.op) (fun o => { o with mirrors := o.mirrors ++ newMirrors before c })).setRun u { x with pos := x.pos + k }
  | (c, none, none) => c

/-! ### Peers (R187, R188, R205 to R207) -/

/-- The peers of a tile, with their addresses. -/
def peersOf (o : Op) (i : Nat) : List (Nat × Nat) :=
  let all (k : Nat) : Nat × Nat := (k, (o.peers.getD k ⟨0, 0, 0, 0, none, 0, 0⟩).pla + i * 4096)
  let shared (share : Nat) : List (Nat × Nat) :=
    [(i / share, (o.peers.getD (i / share) ⟨0, 0, 0, 0, none, 0, 0⟩).pla + i % share * 4096)]
  match o.d.opcode with
  | 0x26 => shared (o.d.field 24 2 / peerCount o.d)
  | 0x29 => shared (shareTiles o.d)
  | 0x2A => shared (shareTiles o.d)
  | _ => (upTo o.peers.length).map all

/-- A peer fails: its status and the tile of the failure are kept, and every tile not delivered is counted. -/
def Peer.fail (p : Peer) (st : Status) (pla : Nat) : Peer :=
  match p.failed with
  | none => { p with failed := some st, at' := pla, missed := 1 }
  | some _ => { p with missed := p.missed + 1 }
def Chip.failPeer (c : Chip) (n k : Nat) (st : Status) (pla : Nat) : Chip :=
  c.modOp (some n) (fun o => { o with peers := setAt o.peers k (fun p => p.fail st pla) })

/-- The request to a peer that is the package itself: local, under the entry's context (R188), with the package as its source. -/
def Chip.selfReq (c : Chip) (p : Peer) (pla : Nat) (write : Bool) : Req :=
  { ctx := p.ctx, src := .fabric c.node, pla := pla, bytes := 4096, gen := some p.gen, need := if write then rWrite else rRead,
    write := write, coh := false }

/-- One tile written to one peer. -/
def Chip.sendPeer (c : Chip) (u n : Nat) (o : Op) (k pla : Nat) (data : List Byte) : Chip :=
  match o.peers[k]? with
  | none => c
  | some p =>
    if p.failed.isSome then c.failPeer n k .ok pla
    else if c.isSelf p.node then
      match c.poolWrite elbMov 25 (c.selfReq p pla true) data with
      | (c, .wait) => c
      | (c, .got st _ _ _) => if st == .ok then c else c.failPeer n k st pla
    else
      let (t, c) := c.movTxn u (some k) pla false
      let m := { c.ownMsg 0x02 p.node t p.ctx pla 4096 data with genValid := true, gen := BitVec.ofNat 8 p.gen }
      c.emit (.msg m 0)

/-- Whether a mover has requests outstanding. -/
def Chip.unitBusy (c : Chip) (u : Nat) : Bool := c.eng.txns.any (fun t => t.2.unit == u)

/-- A tile delivered to its peers: every request is issued, and the tile ends when all are answered. -/
def Chip.deliver (c : Chip) (u : Nat) (cmd : TileCmd) (o : Op) (data : List Byte) (cor : Bool) : Chip × Bool :=
  let ps := peersOf o cmd.tile
  let selfs := ps.filterMap (fun e => match o.peers[e.1]? with
    | some p => if p.failed.isNone && c.isSelf p.node then some (c.selfReq p e.2 true, data) else none
    | none => none)
  let (c, clear) := c.clearFor elbMov 25 selfs
  if !clear then (c, false)
  else
    let before := c
    let c := ps.foldl (fun c e => c.sendPeer u cmd.op o e.1 e.2 data) c
    let c := (c.countMoved u (4096 * ps.length) o).modOp (some cmd.op) (fun o => { o with corrected := o.corrected || cor })
    if c.unitBusy u then (c.setRun u { cmd := cmd, st := .acks, len := 4096, data := data, beat := c.esc.bounds }, true)
    else (c.endRun before u cmd.op (.ran false 0), true)

/-- BROADCAST, SCATTER and the tiles that the fold engines hand over: the tile is read once and written to its peers. -/
def Chip.startSend (c : Chip) (u : Nat) (cmd : TileCmd) (o : Op) : Chip × Bool :=
  if !cmd.data.isEmpty then c.deliver u cmd o cmd.data false
  else
    let pla := opPla o.d 16 + cmd.tile * 4096
    match c.readTiles elbMov 25 (unitReq o.d.ctx pla 4096 (some (opGen o.d 16)) (rRead + rOperate) false) with
    | (c, .wait) => (c, false)
    | (c, .got st n _ b) =>
      if st.good then c.deliver u cmd o b (st == .okCorrected) else (c.endRun c u cmd.op (endOf st n pla), true)

/-- A tile of GATHER written to DST. -/
def Chip.gatherTarget (c : Chip) (u : Nat) (o : Op) (x : Run) : Chip :=
  let pla := opPla o.d 16 + x.cmd.tile * 4096
  let before := c
  match c.poolWrite elbMov 25 (unitReq o.d.ctx pla 4096 (some (opGen o.d 16)) (rWrite + rOperate) true) x.data with
  | (c, .wait) => c.setRun u x
  | (c, .got st n _ _) =>
    if st.good then (c.countMoved u 4096 o).endRun before u x.cmd.op (.ran false 0)
    else c.endRun before u x.cmd.op (endOf st n pla)

/-- GATHER: the tile is read from its peer. -/
def Chip.startGather (c : Chip) (u : Nat) (cmd : TileCmd) (o : Op) : Chip × Bool :=
  match peersOf o cmd.tile with
  | (k, pla) :: _ =>
    (match o.peers[k]? with
    | none => (c, false)
    | some p =>
      if p.failed.isSome then ((c.failPeer cmd.op k .ok pla).endRun c u cmd.op (.ran false 0), true)
      else if c.isSelf p.node then
        match c.readTiles elbMov 25 (c.selfReq p pla false) with
        | (c, .wait) => (c, false)
        | (c, .got st _ _ b) =>
          if st != .ok then ((c.failPeer cmd.op k st pla).endRun c u cmd.op (.ran false 0), true)
          else (c.gatherTarget u o { cmd := cmd, len := 4096, data := b, beat := c.esc.bounds }, true)
      else
        let (t, c) := c.movTxn u (some k) pla true
        let m := { c.ownMsg 0x01 p.node t p.ctx pla 4096 [] with genValid := true, gen := BitVec.ofNat 8 p.gen }
        ((c.emit (.msg m 0)).setRun u { cmd := cmd, st := .read, len := 4096, beat := c.esc.bounds }, true))
  | [] => (c, false)

/-! ### Starting and advancing -/

/-- Whether an operator's tiles go to or come from peers. -/
def opPeers (o : Op) : Bool := o.seqn != 16 && hasPeers o.d

/-- A mover moved on: its next burst, or the data it holds written. -/
def Chip.runMover (c : Chip) (u : Nat) : Chip :=
  match (c.unit u).run with
  | none => c
  | some x =>
    match c.opOf x.cmd.op with
    | none => c.putUnit u { c.unit u with run := none }
    | some o =>
      if opPeers o then (if x.st == .ready then c.gatherTarget u o x else c)
      else
        let m := opMove o x.cmd.tile
        match x.st with
        | .fault k => c.faultRun u x m k (m.off + (if x.pos < m.len then x.pos else x.pos - m.len))
        | .ready =>
          if x.pos < m.len then
            (match m.src with
            | .pattern at' => c.setRun u { x with data := patternBytes o.d at' m.len, pos := m.len }
            | .pool pla gen need => c.poolSource u o x m pla gen need
            | .host w at' => c.hostBurst u o x m w (at' + x.pos) (m.len - x.pos) x.pos false)
          else
            (match c.gatherJoin u o x with
            | (c, none) => c
            | (c, some x) =>
              let m := opMove o x.cmd.tile
              match m.dst with
              | .pool pla gen need => c.poolTarget u o x m pla gen need
              | .host w at' => c.hostBurst u o x m w (at' + (x.pos - m.len)) (m.len + x.data.length - x.pos) (x.pos - m.len) true
              | .pattern _ => c.endRun c u x.cmd.op (.ran false 0))
        | _ => c

/-- A mover whose current end needs no host access moved on. -/
def Chip.pushRun (c : Chip) (u : Nat) : Chip :=
  match (c.unit u).run with
  | some x =>
    (match c.opOf x.cmd.op with
    | some o =>
      let m := opMove o x.cmd.tile
      let e := if x.pos < m.len then m.src else m.dst
      let host := match e with | .host _ _ => true | _ => false
      if x.st == .ready && !host && !opPeers o then c.runMover u else c
    | none => c)
  | none => c

/-- How far a mover's tile has come. -/
def Chip.runPos (c : Chip) (u : Nat) : Option Nat := (c.unit u).run.map (fun x => x.pos)

/-- Its pieces in pool memory read and written one after another until one must wait: at most two of each side. -/
def Chip.pushRuns : Nat → Chip → Nat → Chip
  | 0, c, _ => c
  | n + 1, c, u => if (c.pushRun u).runPos u = c.runPos u then c.pushRun u else Chip.pushRuns n (c.pushRun u) u

def Chip.advance (c : Chip) (u : Nat) : Chip := Chip.pushRuns 4 c u

/-- The pool addresses of a tile of an operator or of a KV operation. -/
def tilePlas (o : Op) (i : Nat) : List Nat :=
  if opPeers o then [opPla o.d 16 + i * 4096]
  else
    let m := opMove o i
    [m.src, m.dst].filterMap (fun e => match e with | .pool p _ _ => some p | _ => none)

/-- The rows that a mover's stride predicts (R330): those of the lines of its tile 32 tiles on, in pool memory of the package. -/
def Chip.predict (c : Chip) (o : Op) (i : Nat) : Chip :=
  if !c.bit rMOV_CTL 1 || o.total ≤ i + 32 then c
  else
    let lines := (tilePlas o (i + 32)).flatMap (fun p => match c.handleAt p with
      | some h => if (c.extent h).lent then [] else linesOf ((c.extent h).place p) 4096
      | none => [])
    lines.foldl (fun c l => c.predictRow (linePlace l)) c

/-- A tile command started from a unit's queue (R191): a fold engine runs it whole; a mover runs it or begins its bursts. A command
that waits for snoops stays in the queue. -/
def Chip.tileStart (c : Chip) (u : Nat) : Chip :=
  match (c.unit u).queue, (c.unit u).run with
  | cmd :: rest, none =>
    (match c.opOf cmd.op with
    | none => c.putUnit u { c.unit u with queue := rest, run := none }
    | some o =>
      if 32 ≤ u && !c.bit rMOV_CTL 0 then c else
      let code := o.d.opcode - 0x20
      let started (c : Chip) : Chip :=
        let c := c.epoch (if u < 32 then 288 + u else 256 + u % 32)
        if o.seqn = 16 then c else c.count (144 + code) 1
      if u < 32 then
        let before := started c
        match before.fldTile u cmd o with
        | (c', .wait) => { c' with dbg := c.dbg }
        | (c, e) => (c.putUnit u { c.unit u with queue := rest, run := none }).endTile cmd.op e (newMirrors before c)
      else if opPeers o then
        let c0 := ((started c).predict o cmd.tile).putUnit u { c.unit u with queue := rest, run := none }
        let (c', ok) := if o.d.opcode = 0x29 then c0.startGather u cmd o else c0.startSend u cmd o
        if ok then c' else { c'.putUnit u (c.unit u) with dbg := c.dbg }
      else
        let c := ((started c).predict o cmd.tile).putUnit u { c.unit u with queue := rest, run := some { cmd := cmd, beat := c.esc.bounds } }
        c.advance u)
  | _, _ => c

/-! ### Answers -/

/-- Data for a mover's read burst, list read, lent read or GATHER. -/
def Chip.movData (c : Chip) (u : Nat) (d : List Byte) (st : Status) : Chip :=
  match (c.unit u).run with
  | none => c
  | some x =>
    match c.opOf x.cmd.op with
    | none => c
    | some o =>
      let c := c.modOp (some x.cmd.op) (fun o => { o with corrected := o.corrected || st == .okCorrected })
      match x.st with
      | .list w first => (c.modOp (some x.cmd.op) (fun o => o.keepList w first (entriesOf d))).setRun u { x with st := .ready }
      | .read =>
        let y := { x with data := x.data ++ d, pos := x.pos + x.len, st := .ready, len := 0, held := [] }
        if opPeers o then c.gatherTarget u o { y with data := d } else (c.setRun u y).advance u
      | _ => c

/-- The group of list entries that a mover read ahead (none: the read failed). Of a failed read the first entry is kept as not VALID, so that
the burst at the first page it covers ends in the fault of R148. A burst that waits for the group goes on. -/
def Chip.listAhead (c : Chip) (u : Nat) (d : Option (List Byte)) : Chip :=
  match (c.unit u).ahead with
  | none => c
  | some (n, w, first) =>
    let c := c.putUnit u { c.unit u with ahead := none }
    let c := c.modOp (some n) (fun o => o.keepList w first (match d with | some d => entriesOf d | none => [0]))
    match (c.unit u).run with
    | some x => if x.cmd.op = n && x.st == .list w first then c.setRun u { x with st := .ready } else c
    | none => c

/-- A failed read or write of a mover: a failed list read is a translation fault at the first page it covers (R148); a failed access
to a lender ends the tile as a failed access of pool memory does (R195), one to a host ends the operator with the status of the answer
(DEDUCED, log 18). -/
def Chip.movFail (c : Chip) (u : Nat) (st : Status) : Chip :=
  match (c.unit u).run with
  | none => c
  | some x =>
    match c.opOf x.cmd.op with
    | none => c
    | some o =>
      let m := opMove o x.cmd.tile
      match x.st, if x.pos < m.len then m.src else m.dst with
      | .list _ first, _ => c.faultRun u x m 0x36 (first * 4096)
      | _, .pool p _ _ =>
        if x.pos < m.len && st == .dataLost then c.lostRun u o x (.lost (lostAt o m p))
        else c.endRun c u x.cmd.op (endOf st (if st == .dataLost || st == .checkFail then 0 else 1) p)
      | _, _ => c.hostFails u x m st

/-- An acknowledged write of a mover's burst. -/
def Chip.movAck (c : Chip) (u : Nat) : Chip :=
  match (c.unit u).run with
  | none => c
  | some x =>
    match c.opOf x.cmd.op with
    | none => c
    | some o =>
      let m := opMove o x.cmd.tile
      if m.len + x.data.length ≤ x.pos + x.len then (c.countMoved u x.data.length o).endRun c u x.cmd.op (x.outcome o)
      else c.setRun u { x with pos := x.pos + x.len, st := .ready, len := 0, held := [] }

/-- A tile of a peer operator whose requests are all answered ends. -/
def Chip.peersDone (c : Chip) (u : Nat) : Chip :=
  match (c.unit u).run with
  | some x => if x.st == .acks && !c.unitBusy u then c.endRun c u x.cmd.op (.ran false 0) else c
  | none => c

/-- RD_RSP or WR_ACK for a mover's request (R188, R207): `read` says which. -/
def Chip.movReply (c : Chip) (m : Msg) (read : Bool) : Chip :=
  match look c.eng.txns m.txn.toNat with
  | none => c
  | some t =>
    if t.read != read then c
    else
      let st := (Status.ofCode m.status.toNat).getD .dataLost
      let c := c.setEng { c.eng with txns := del c.eng.txns m.txn.toNat }
      if 64 ≤ t.unit then c.listAhead (t.unit - 64) (if st.good then some m.data else none)
      else match t.peer, (c.unit t.unit).run with
      | some k, some x =>
        let c := if st == .ok then c else c.failPeer x.cmd.op k st t.at'
        if read then (if st == .ok then c.movData t.unit m.data st else c.endRun c t.unit x.cmd.op (.ran false 0))
        else c.peersDone t.unit
      | none, _ => if !st.good then c.movFail t.unit st else if read then c.movData t.unit m.data st else c.movAck t.unit
      | _, none => c

/-- A status that the manual does not state: a free choice among the failures (log 2). -/
def Chip.freeStatus (c : Chip) : Status × Chip :=
  let (v, c) := c.free
  let l := [Status.contextFault, .extentFault, .rightsFault, .extentRevoked, .extentHeld, .keyRetired, .translationFault, .dataLost,
    .checkFail, .formatFault, .timeout, .blockReset, .aborted, .queueFull, .unsupported, .busyRetry]
  (l.getD (v.toNat % 16) .dataLost, c)

/-- A completion of host data for a mover (PCIe or MGT); one that failed has no status in the manual: a free one. -/
def Chip.hostCompletion (c : Chip) (u : Nat) (ok : Bool) (d : List Byte) : Chip :=
  match (c.unit u).run with
  | none => c
  | some x =>
    let waiting := match x.st with | .list _ _ => true | .read => true | _ => false
    if !waiting || c.unitBusy u then c
    else if ok then c.movData u (match x.st with | .read => d.take x.len | _ => d) .ok
    else
      let (st, c) := c.freeStatus
      c.movFail u st

/-- A burst that has had no answer within the context timeout (R145): its operator ends with TIMEOUT and the translation is released. -/
def Chip.movTimeout (c : Chip) (u : Nat) : Chip :=
  match (c.unit u).run with
  | none => c
  | some x =>
    match c.opOf x.cmd.op with
    | none => c
    | some o =>
      let waits := match x.st with | .ready => false | .fault _ => false | _ => true
      if opPeers o || !waits || !c.expired x.beat (c.beatsFor o.d.ctx 0) then c
      else (c.modOp (some x.cmd.op) (fun o => { o with timedOut := true })).endRun c u x.cmd.op (.ran false 0)

/-- A peer that has not answered within the context timeout (R207): it receives no further request, and the tiles that wait for it end. -/
def Chip.peerTimeout (c : Chip) (n k : Nat) : Chip :=
  match c.opOf n with
  | none => c
  | some o =>
    let mine := c.eng.txns.filter (fun t => t.2.peer == some k && (match (c.unit t.2.unit).run with
      | some x => x.cmd.op == n
      | none => false))
    if !mine.any (fun t => c.expired t.2.beat (c.beatsFor o.d.ctx 0)) then c
    else
      let c := c.setEng { c.eng with txns := c.eng.txns.filter (fun t => !mine.any (fun x => x.1 == t.1)) }
      mine.foldl (fun c t =>
        let c := c.failPeer n k .timeout t.2.at'
        if t.2.read then c.endRun c t.2.unit n (.ran false 0) else c.peersDone t.2.unit) c

/-! ### Completion (R195 to R197) -/

/-- Whether nothing of an operator is left in the units: it completes two cycles later. -/
def Chip.opIdle (c : Chip) (o : Op) : Bool :=
  o.busy == 0 && (o.ended || (o.issue == o.next && (o.aborted || o.next == o.total)))
  && (match o.slot with | some _ => o.closed | none => true) && c.mirrored o.mirrors

/-- The status of R196, with its detail code and fault record. -/
def opStatus (o : Op) : Status × Nat × FaultRec × Nat :=
  let peer := o.peers.zipIdx.find? (fun p => p.1.failed.isSome)
  if o.aborted then (.aborted, 0, { status := .aborted }, 0)
  else if o.timedOut then (.timeout, 0, { status := .timeout }, 0)
  else match o.stop with
    | some (st, detail, a, kind) => (st, detail, { status := st, addr := a, kind := kind }, 0)
    | none =>
      match peer with
      | some (p, k) =>
        let st := p.failed.getD .timeout
        (st, 0x59, { status := st, addr := p.at', count := p.missed }, k + 1)
      | none =>
        match o.lost, o.failed with
        | some (a, n), _ => (.dataLost, 0, { status := .dataLost, addr := a, count := n }, 0)
        | none, some (a, n) => (.checkFail, if o.d.opcode = 0x2D then 0x5B else 0, { status := .checkFail, addr := a, count := n }, 0)
        | none, none => if o.corrected then (.okCorrected, 0, { status := .okCorrected }, 0) else (.ok, 0, { status := .ok }, 0)

/-- The record of an operator names the operand's generation and its extent (R106); another package's reply names neither. -/
def Chip.opFault (c : Chip) (o : Op) (f : FaultRec) (own : Nat) : FaultRec :=
  if f.addr = 0 || f.kind != 0 || own != 0 then f
  else
    let x := (c.planOf o.d (max 1 (coCount o.rcd))).operands.find? (fun y => y.pla ≤ f.addr && f.addr < y.pla + y.bytes)
    { f with gen := (x.map (fun y => y.gen)).getD 0, handle := c.foundHandle o.d.ctx f.status f.addr }

/-- WATCH's summary, written once when every tile has run. -/
def Chip.writeSummary (c : Chip) (n : Nat) (o : Op) : Chip :=
  let vs := (o.sums.flatMap (fun e => e.2)).map (fun x => fp64.dec x)
  let before := c
  match c.poolWrite elbSeq 26 (unitReq o.d.ctx (opPla o.d 24) 64 (some (opGen o.d 24)) (rWrite + rOperate) true) (watchSummary vs) with
  | (c, .wait) => c
  | (c, .got st k _ _) =>
    let o := { o with closed := true, mirrors := o.mirrors ++ newMirrors before c }
    if st.good then c.putOp n o
    else match endOf st k (opPla o.d 24) with
      | .stop s a b e => c.putOp n { o with stop := some (s, a, b, e) }
      | _ => c.putOp n { o with lost := affect o.lost (opPla o.d 24) }

/-- The completion posted (R197): the records of the failed peers (R207) but the one that the descriptor's own record gives, the counters,
the sequencer's buffer. -/
def Chip.postOp (c : Chip) (n : Nat) (o : Op) : Chip :=
  let (st, detail, f, own) := opStatus o
  let f := c.opFault o f own
  let c := o.peers.zipIdx.foldl (fun c e =>
    if e.1.failed.isNone || (e.2 + 1 = own && st.faults) then c
    else
      (c.fault { status := e.1.failed.getD .timeout, detail := 0x59, ctx := o.d.ctx, ring := o.d.ring, kind := 0,
                 slot := (c.ring o.d.ring).slotOf o.d.index, tag := o.d.tag, addr := e.1.at', count := e.1.missed }).1) c
  let c := (c.setEng { c.eng with ops := del c.eng.ops n }).count (128 + (o.d.opcode - 0x20)) 1
  c.finish (bufSeq o.seqn) o.d st detail (min o.info 0xFFFFFF) f

def Chip.opComplete (c : Chip) (n : Nat) : Chip :=
  match c.opOf n with
  | none => c
  | some o =>
    if o.seqn ≥ 16 then c
    else
      let c := if o.d.opcode = 0x2F && !o.closed && !o.aborted && !o.ended && c.opIdle o then c.writeSummary n o else c
      match c.opOf n with
      | none => c
      | some o => if c.opIdle o && (o.d.opcode != 0x2F || o.closed || o.aborted || o.ended) then c.postOp n o else c

/-! ### Meanings -/

def execMoverBurst (mover : Nat) (s : State) : Host.Outcome State Fault Refusal :=
  .next { s with chip := s.chip.live .mov (fun c => c.runMover (32 + mover % 32)) }

def execTileStart (unit : Nat) (s : State) : Host.Outcome State Fault Refusal :=
  .next { s with chip := s.chip.live (if unit < 32 then .fld else .mov) (fun c => if unit < 64 then c.tileStart unit else c) }

def execPeerTimeout (op peer : Nat) (s : State) : Host.Outcome State Fault Refusal :=
  .next { s with chip := s.chip.live .mov (fun c => c.peerTimeout op peer) }

def execHostReadCompletion (mover : Nat) (ok : Bool) (data : List Byte) (s : State) : Host.Outcome State Fault Refusal :=
  .next { s with chip := (s.chip.tlpIn data.length).live .mov (fun c =>
    if mover < 32 then c.hostCompletion (32 + mover) ok data else c.listAhead (32 + mover % 32) (if ok then some data else none)) }

end Sys2Proof.Machine
end

