-- ==== Sys2Proof/Machine/Kv.lean ====
section
/-! DEFINITION. The key-value store: its tables in pool memory, descriptors, appends, eviction, start-up (08_kv_store.md R225 to R254);
the start of the tile-check table (07_operators.md R218). -/

namespace Sys2Proof.Machine

def rKVE_CTL : Nat := 0x600000
def rKVE_STATUS : Nat := 0x600004
def rKVE_BASE : Nat := 0x600008
def rKVE_DEFERRED : Nat := 0x600010
def rKVE_LATE : Nat := 0x600014
def rKVE_EVICTED : Nat := 0x600018
def rKVE_COW : Nat := 0x60001C

/-! ### The tables (R231 to R235) -/

/-- The package while an operation reads and writes the tables, with the status of the first access that failed: nothing is read or written
after it (log 19). -/
structure Kt where
  c : Chip
  err : Option Status
  deriving DecidableEq, Repr

/-- A request to the table region under context 0 (R231). -/
def Chip.kvReq (c : Chip) (off n : Nat) (write : Bool) : Req :=
  { ctx := 0, src := .internal, pla := c.get64 rKVE_BASE % 2 ^ 48 + off, bytes := n, gen := some (bitsOf (c.get64 rKVE_BASE) 48 8),
    need := if write then rWrite else rRead, write := write, coh := false }

def Kt.read (k : Kt) (off n : Nat) : Kt × Nat :=
  if k.err.isSome then (k, 0)
  else match k.c.poolRead elbKve 28 (k.c.kvReq off n false) with
    | (c, .wait) => (⟨c, some .busyRetry⟩, 0)
    | (c, .got st _ _ d) => if st.good then (⟨c, none⟩, ofBytesLE d) else (⟨c, some st⟩, 0)
def Kt.write (k : Kt) (off n v : Nat) : Kt :=
  if k.err.isSome then k
  else match k.c.poolWrite elbKve 28 (k.c.kvReq off n true) (bytesLE n v) with
    | (c, .wait) => ⟨c, some .busyRetry⟩
    | (c, .got st _ _ _) => ⟨c, if st.good then none else some st⟩
def Kt.setKve (k : Kt) (x : Kve) : Kt := ⟨k.c.setKve x, k.err⟩

/-- A quire entry (R232). -/
structure Quire where
  st : Nat := 0
  pin : Bool := false
  gen : Nat := 0
  tenant : Nat := 0
  tplLog : Nat := 0
  layersM1 : Nat := 0
  rowM1 : Nat := 0
  tokens : Nat := 0
  leaves : Nat := 0
  head : Nat := 0
  tail : Nat := 0
  last : Nat := 0
  appBeat : Nat := 0
  apps : Nat := 0
  pfx : Option Nat := none
  deriving DecidableEq, Repr

def Quire.ofBits (x : Nat) : Quire :=
  { st := bitsOf x 0 2, pin := bitOf x 2, gen := bitsOf x 4 8, tenant := bitsOf x 12 10, tplLog := bitsOf x 22 3,
    layersM1 := bitsOf x 32 8, rowM1 := bitsOf x 40 8, tokens := bitsOf x 64 32, leaves := bitsOf x 96 24, head := bitsOf x 128 21,
    tail := bitsOf x 160 21, last := bitsOf x 192 64, appBeat := bitsOf x 256 32, apps := bitsOf x 288 3,
    pfx := if bitOf x 351 then some (bitsOf x 320 22) else none }
def Quire.bits (q : Quire) : Nat :=
  q.st + q.pin.toNat * 2 ^ 2 + q.gen * 2 ^ 4 + q.tenant * 2 ^ 12 + q.tplLog * 2 ^ 22 + q.layersM1 * 2 ^ 32 + q.rowM1 * 2 ^ 40
  + q.tokens * 2 ^ 64 + q.leaves * 2 ^ 96 + q.head * 2 ^ 128 + q.tail * 2 ^ 160 + q.last * 2 ^ 192 + q.appBeat * 2 ^ 256
  + q.apps * 2 ^ 288 + (match q.pfx with | some i => i * 2 ^ 320 + 2 ^ 351 | none => 0)

/-- The geometry of R225. -/
def Quire.tpl (q : Quire) : Nat := 2 ^ (q.tplLog + 4)
def Quire.layers (q : Quire) : Nat := q.layersM1 + 1
def Quire.row (q : Quire) : Nat := 64 * (q.rowM1 + 1)
def Quire.tokenBytes (q : Quire) : Nat := q.layers * 2 * q.row

/-- The byte of token `j`, layer `l`, half `h` in a layout of `n` tokens (R226, R227). -/
def Quire.rowAt (q : Quire) (n l h j : Nat) : Nat := ((2 * l + h) * n + j) * q.row

def Kt.quire (k : Kt) (h : Nat) : Kt × Quire :=
  let (k, x) := k.read (64 * h) 64
  (k, Quire.ofBits x)
def Kt.putQuire (k : Kt) (h : Nat) (q : Quire) : Kt :=
  let k := k.write (64 * h) 64 q.bits
  let l := k.c.kve.quires.filter (· != h)
  k.setKve { k.c.kve with quires := if q.st = 0 then l else l ++ [h] }

/-- A leaf entry (R233): its REFS, FILL and TENANT; REFS 0 is not USED. -/
def leafBits (refs fill tenant : Nat) : Nat := if refs = 0 then 0 else 1 + refs * 2 + fill * 2 ^ 22 + tenant * 2 ^ 31
def Kt.leafRefs (k : Kt) (l : Nat) : Kt × Nat × Nat × Nat :=
  let (k, x) := k.read (0x4000000 + 16 * l) 16
  (k, if bitOf x 0 then bitsOf x 1 21 else 0, bitsOf x 22 9, bitsOf x 31 10)
def Kt.putLeaf (k : Kt) (l refs fill tenant : Nat) : Kt :=
  let k := k.write (0x4000000 + 16 * l) 16 (leafBits refs fill tenant)
  let u := k.c.kve.leaves.filter (· != l)
  k.setKve { k.c.kve with leaves := if refs = 0 then u else u ++ [l] }

/-- The REFS of a leaf increased, or decreased; whether the leaf is freed. -/
def Kt.refUp (k : Kt) (l : Nat) : Kt :=
  let (k, r, f, t) := k.leafRefs l
  k.putLeaf l (r + 1) f t
def Kt.refDown (k : Kt) (l : Nat) : Kt × Bool :=
  let (k, r, f, t) := k.leafRefs l
  (k.putLeaf l (r - 1) f t, r ≤ 1)

/-- A chain of list blocks from its first: the blocks and the leaf numbers in them. -/
def Kt.chain (k : Kt) : Nat → Nat → Kt × List Nat × List Nat
  | 0, _ => (k, [], [])
  | n + 1, b =>
    let (k, x) := k.read (0xC000000 + 64 * b) 64
    let (k, bs, ls) := k.chain n (bitsOf x 448 21)
    (k, b :: bs, (upTo 14).map (fun i => bitsOf x (32 * i) 23) ++ ls)
def Kt.list (k : Kt) (q : Quire) (leaves : Nat) : Kt × List Nat × List Nat :=
  let (k, bs, ls) := k.chain (ceilDiv leaves 14) q.head
  (k, bs, ls.take leaves)

/-- Blocks written with leaf numbers, each naming the next. -/
def Kt.putBlocks (k : Kt) : List Nat → List Nat → Kt
  | [], _ => k
  | b :: rest, ls =>
    let here := sumOf ((ls.take 14).zipIdx.map (fun e => e.1 * 2 ^ (32 * e.2)))
    let next := match rest with | n :: _ => n * 2 ^ 448 + 2 ^ 479 | [] => 0
    (k.write (0xC000000 + 64 * b) 64 (here + next)).putBlocks rest (ls.drop 14)

/-- A prefix entry (R234). -/
structure Pfx where
  key : Nat
  tenant : Nat
  pin : Bool
  valid : Bool
  quire : Nat
  gen : Nat
  tokens : Nat
  last : Nat
  deriving DecidableEq, Repr

def Pfx.ofBits (x : Nat) : Pfx :=
  ⟨bitsOf x 0 64, bitsOf x 64 10, bitOf x 78, bitOf x 79, bitsOf x 80 20, bitsOf x 104 8, bitsOf x 128 32, bitsOf x 192 64⟩
def Pfx.bits (p : Pfx) : Nat :=
  p.key + p.tenant * 2 ^ 64 + p.pin.toNat * 2 ^ 78 + p.valid.toNat * 2 ^ 79 + p.quire * 2 ^ 80 + p.gen * 2 ^ 104 + p.tokens * 2 ^ 128
  + p.last * 2 ^ 192
def Kt.pfx (k : Kt) (i : Nat) : Kt × Pfx :=
  let (k, x) := k.read (0x14000000 + 32 * i) 32
  (k, Pfx.ofBits x)
def Kt.putPfx (k : Kt) (i : Nat) (p : Option Pfx) : Kt :=
  let k := k.write (0x14000000 + 32 * i) 32 (match p with | some p => p.bits | none => 0)
  let l := k.c.kve.prefixes.filter (fun e => e.1 != i)
  k.setKve { k.c.kve with prefixes := match p with | some p => l ++ [(i, p.tenant)] | none => l }

/-- The set of a key (R235), and the entry that a lookup finds. -/
def pfxSet (tenant key : Nat) : Nat := (xorN key (tenant * 0x10000000001) * 0x9E3779B97F4A7C15) % 2 ^ 64 / 2 ^ 45
def Kt.pfxSet (k : Kt) (tenant key : Nat) : Kt × List (Nat × Pfx) :=
  (upTo 8).foldl (fun (a : Kt × List (Nat × Pfx)) i =>
    let n := 8 * Machine.pfxSet tenant key + i
    let (k, p) := a.1.pfx n
    (k, a.2 ++ [(n, p)])) (k, [])
def Kt.findPfx (k : Kt) (tenant key : Nat) : Kt × Option (Nat × Pfx) :=
  let (k, l) := k.pfxSet tenant key
  (k, l.find? (fun e => e.2.valid && e.2.tenant == tenant && e.2.key == key))

/-! ### Arenas (R228) -/

def Chip.kvT (c : Chip) (t off lo w : Nat) : Nat := c.aget (0x601000 + 0x20 * t + off) lo w
def Chip.slotBytes (c : Chip) (t : Nat) : Nat := 65536 * 2 ^ c.kvT t 0 27 3
def Chip.leafBase (c : Chip) (t : Nat) : Nat := c.kvT t 4 0 23
def Chip.kvLeaves (c : Chip) (t : Nat) : Nat := c.kvT t 8 0 24
def Chip.leafPla (c : Chip) (t leaf : Nat) : Nat := c.kvT t 0 0 27 * 2 ^ 21 + (leaf - c.leafBase t) * c.slotBytes t
def Chip.inWindow (c : Chip) (t h : Nat) : Bool := c.kvT t 0xC 0 20 ≤ h && h < c.kvT t 0xC 0 20 + c.kvT t 0x10 0 21

/-- The tenant's leaves in use; its lowest free slots; the lowest free list blocks (log 19). -/
def Chip.leavesUsed (c : Chip) (t : Nat) : List Nat :=
  c.kve.leaves.filter (fun l => c.leafBase t ≤ l && l < c.leafBase t + c.kvLeaves t)
def Chip.freeLeaves (c : Chip) (t n : Nat) : List Nat :=
  (((upTo (c.kvLeaves t)).map (fun s => c.leafBase t + s)).filter (fun l => !c.kve.leaves.contains l)).take n
def Chip.freeBlocks (c : Chip) (n : Nat) : List Nat := ((upTo 2097152).filter (fun b => !c.kve.blocks.contains b)).take n

/-! ### Dropping and eviction (R248, R250) -/

/-- A quire dropped, with its prefix entry where it is FROZEN; the leaves freed. -/
def Kt.drop (k : Kt) (h : Nat) (q : Quire) : Kt × Nat :=
  let (k, bs, ls) := k.list q q.leaves
  let (k, n) := ls.foldl (fun (a : Kt × Nat) l =>
    let (k, f) := a.1.refDown l
    (k, a.2 + f.toNat)) (k, 0)
  let k := k.setKve { k.c.kve with blocks := k.c.kve.blocks.filter (fun b => !bs.contains b) }
  let k := k.putQuire h { gen := q.gen }
  (match q.pfx with | some i => if q.st = 2 then k.putPfx i none else k | none => k, n)

def Kt.evict (k : Kt) (h : Nat) (q : Quire) : Kt :=
  let k := (k.drop h q).1
  ⟨k.c.bump rKVE_EVICTED 1, k.err⟩

/-- Quires of operations in progress. -/
def Chip.kvBusy (c : Chip) (h : Nat) : Bool := c.kve.ops.any (fun e => e.2.quires.contains h)

/-- The tenant's eligible quires in QUOTA order. -/
def Kt.eligible (k : Kt) (t : Nat) : Kt × List (Nat × Quire) :=
  let (k, l) := (k.c.kve.quires.filter (fun h => k.c.inWindow t h && !k.c.kvBusy h)).foldl (fun (a : Kt × List (Nat × Quire)) h =>
    let (k, q) := a.1.quire h
    let (k, pinned) := match q.pfx with
      | some i => let (k, p) := k.pfx i; (k, p.pin)
      | none => (k, false)
    (k, if q.st != 0 && q.tenant == t && !q.pin && !pinned then a.2 ++ [(h, q)] else a.2)) (k, [])
  (k, l.mergeSort (fun a b => a.2.last < b.2.last || (a.2.last == b.2.last && a.1 ≤ b.1)))

/-- What an operation needs free: leaves, list blocks, prefix entries (R237 step 7). -/
structure Need where
  leaves : Nat := 0
  blocks : Nat := 0
  pfx : Nat := 0
  deriving DecidableEq, Repr

def Need.met (n : Need) (c : Chip) (t : Nat) : Bool :=
  (c.leavesUsed t).length + n.leaves ≤ c.kvLeaves t && c.kve.blocks.length + n.blocks ≤ 2097152
  && (n.pfx == 0 || countIf (fun (e : Nat × Nat) => e.2 == t) c.kve.prefixes + n.pfx ≤ c.kvT t 0x14 0 23)

/-- Automatic eviction: at most `fuel` quires, until the need, as the tables then stand, is met. -/
def Kt.autoEvict (k : Kt) (t : Nat) (n : Kt → Need) : Nat → Kt
  | 0 => k
  | fuel + 1 =>
    if k.err.isSome || (n k).met k.c t || k.c.kvT t 0 30 1 = 0 then k
    else match k.eligible t with
      | (k, (h, q) :: _) => (k.evict h q).autoEvict t n fuel
      | (k, []) => k

/-! ### Bodies (R236) -/

def kvHandle (d : Desc) (off : Nat) : Nat := d.bitsAt off 0 20
def kvGen (d : Desc) (off : Nat) : Nat := d.bitsAt off 20 8
def kvQuireAt (d : Desc) : Nat := if d.opcode ≤ 0x31 then 16 else 20
def kvMode (d : Desc) : Nat := d.bitsAt 16 0 2
def kvKey (d : Desc) : Nat := if d.opcode = 0x32 then d.field 32 8 else d.field 24 8
def kvByKey (d : Desc) : Bool := d.bitsAt 16 0 1 == 1
def kvCaller (c : Chip) (d : Desc) : Nat := (c.ctx d.ctx).tenant

/-- A pool operand word aligned to 64 B, or a host operand word. -/
def kvWordBad (d : Desc) (off : Nat) (host : Bool) : Bool :=
  if host then hostWordBad d off else byteWordBad d off || opPla d off % 64 != 0
def kvSrcHost (d : Desc) : Bool := d.bitsAt 22 0 1 == 1
def kvDstHost (d : Desc) : Bool := d.bitsAt 31 0 1 == 1
def kvTokens (d : Desc) : Nat := d.bitsAt 20 0 9
def kvFirst (d : Desc) : Nat := d.field 20 4
def kvCount (d : Desc) : Nat := d.field 24 4
def kvLayerFirst (d : Desc) : Nat := d.field 28 1
def kvLayerCount (d : Desc) : Nat := d.bitsAt 29 0 9

/-- Step 2: reserved bits, and fields out of their ranges. -/
def kvBad (d : Desc) : Bool :=
  let tail (off : Nat) : Bool := !d.zero off 0 (8 * (64 - off))
  match d.opcode with
  | 0x30 => !d.zero 16 28 4 || !d.zero 20 9 7 || !d.zero 22 1 15 || kvTokens d == 0 || 256 < kvTokens d || kvWordBad d 24 (kvSrcHost d)
      || tail 36
  | 0x31 => !d.zero 16 28 4 || kvCount d == 0 || kvLayerCount d == 0 || 256 < kvLayerCount d || !d.zero 29 9 7 || !d.zero 31 1 7
      || kvWordBad d 32 (kvDstHost d) || tail 40
  | 0x32 => !d.zero 16 2 30 || !d.zero 20 28 4 || !d.zero 24 28 4 || !d.zero 40 3 5 || tail 43
      || (kvMode d % 2 == 0 && 4 < d.bitsAt 40 0 3)
  | 0x35 => !d.zero 16 1 31 || !d.zero 24 24 8 || tail 28
  | _ => !d.zero 16 (if d.opcode = 0x34 then 2 else 1) (if d.opcode = 0x34 then 30 else 31) || !d.zero 20 28 4 || tail 32

/-- The quires that an operation orders against (R238): those it names, and the quire of the prefix entry it names. -/
def Chip.kvHandles (c : Chip) (d : Desc) : List Nat :=
  let byKey : List Nat := match (Kt.findPfx ⟨c, none⟩ (kvCaller c d) (kvKey d)).2 with | some (_, p) => [p.quire] | none => []
  match d.opcode with
  | 0x32 => kvHandle d 20 :: (if kvMode d = 2 then byKey else if kvMode d = 0 then [] else [kvHandle d 24])
  | 0x35 => []
  | _ => if d.opcode ≥ 0x33 && kvByKey d then byKey else [kvHandle d (kvQuireAt d)]

/-! ### Checks and completions -/

def Chip.kvOp (c : Chip) (id : Nat) : Option KvOp := look c.kve.ops id
def Chip.putKv (c : Chip) (id : Nat) (o : KvOp) : Chip := c.setKve { c.kve with ops := put c.kve.ops id o }

/-- A KV operation ends: counted, completed, no longer held. -/
def Chip.kvEnd (c : Chip) (id : Nat) (d : Desc) (st : Status) (detail info : Nat) (f : FaultRec) : Chip :=
  let c := (c.setKve { c.kve with ops := del c.kve.ops id }).count (160 + (d.opcode - 0x30)) 1
  c.finish bufKve d st detail (min info 0xFFFFFF) f

/-- Steps 3 and 4 for a named quire. -/
def Kt.named (k : Kt) (t h gen : Nat) : Kt × Quire × Option (Status × Nat) :=
  let (k, q) := if k.c.inWindow t h then k.quire h else (k, {})
  (k, q, firstFail [(q.st == 0 || q.tenant != t, .extentFault, 0x62), (q.gen != gen, .extentRevoked, 0x63)])

/-! ### Forks (R245, R246) -/

/-- A new quire that shares the first `tokens` of a list. -/
def Kt.share (k : Kt) (dst : Nat) (q : Quire) (src : Option Quire) : Kt :=
  let n := ceilDiv q.tokens q.tpl
  let (k, _, ls) := match src with | some s => k.list s n | none => (k, [], [])
  let k := ls.foldl (fun k l => k.refUp l) k
  let bs := k.c.freeBlocks (ceilDiv n 14)
  let k := (k.setKve { k.c.kve with blocks := k.c.kve.blocks ++ bs }).putBlocks bs ls
  k.putQuire dst { q with leaves := n, head := bs.headD 0, tail := bs.getLastD 0, last := k.c.esc.beat.toNat }

/-- A place in a key's set: an entry not in use, or that of the least recently used entry of the tenant that neither its own PIN nor its
quire's keeps (R249), which is evicted first. -/
def Kt.pfxPlace (k : Kt) (t key : Nat) : Kt × Option Nat :=
  let (k, l) := k.pfxSet t key
  match l.find? (fun e => !e.2.valid) with
  | some e => (k, some e.1)
  | none =>
    let (k, l) := (l.filter (fun e => e.2.tenant == t && !e.2.pin && !k.c.kvBusy e.2.quire)).foldl
      (fun (a : Kt × List (Nat × Pfx × Quire)) e =>
        let (k, q) := a.1.quire e.2.quire
        (k, if q.pin then a.2 else a.2 ++ [(e.1, e.2, q)])) (k, [])
    match l.mergeSort (fun a b => a.2.1.last ≤ b.2.1.last) with
    | (i, p, q) :: _ => (k.evict p.quire q, some i)
    | [] => (k, none)

/-- CREATE, FORK, FORK_PREFIX and PUBLISH: the INFO, or the failing step. -/
def Kt.fork (k : Kt) (d : Desc) (t : Nat) : Kt × Sum (Status × Nat) Nat :=
  let mode := kvMode d
  let dst := kvHandle d 20
  let named := mode == 1 || mode == 3
  let (k, hit) := if mode == 2 || mode == 3 then k.findPfx t (kvKey d) else (k, none)
  let (k, s, bad) := if named then k.named t (kvHandle d 24) (kvGen d 24) else (k, {}, none)
  let (k, old) := if k.c.inWindow t dst then k.quire dst else (k, {})
  let body : Quire := { tplLog := d.bitsAt 40 0 3, layersM1 := d.field 41 1, rowM1 := d.field 42 1 }
  let (k, src) := match mode, hit with
    | 2, some (_, p) => let (k, q) := k.quire p.quire; (k, some q)
    | 2, none => (k, none)
    | 0, _ => (k, none)
    | _, _ => (k, some s)
  let geo := src.getD body
  let tokens := if !named then geo.tokens else if d.field 28 4 = 0xFFFFFFFF then s.tokens else d.field 28 4
  let first := bad == some (.extentFault, 0x62)
  match firstFail [(first || !k.c.inWindow t dst, .extentFault, 0x62), (bad.isSome, .extentRevoked, 0x63),
      (old.st != 0 || old.gen == kvGen d 20, .formatFault, 0x63),
      (k.c.slotBytes t < geo.tpl * geo.tokenBytes, .formatFault, 0x65),
      (mode == 2 && hit.isSome && (geo.tplLog != body.tplLog || geo.layersM1 != body.layersM1 || geo.rowM1 != body.rowM1), .formatFault, 0x65),
      (named && s.tokens < tokens, .formatFault, 0x65)] with
  | some e => (k, .inl e)
  | none =>
    match mode, hit with
    | 3, some (_, p) => (k, .inr p.tokens)
    | _, _ =>
      let (k, at') := if mode == 3 then k.pfxPlace t (kvKey d) else (k, some 0)
      let need : Need := { blocks := ceilDiv (ceilDiv tokens geo.tpl) 14, pfx := if mode == 3 then 1 else 0 }
      let k := k.autoEvict t (fun _ => need) 8
      match at' with
      | none => (k, .inl (.queueFull, 0x66))
      | some i =>
        if !need.met k.c t then (k, .inl (.queueFull, 0x66))
        else
          let beat := k.c.esc.beat.toNat
          let q : Quire := { st := if mode == 3 then 2 else 1, gen := kvGen d 20, tenant := t, tplLog := geo.tplLog, layersM1 := geo.layersM1,
                             rowM1 := geo.rowM1, tokens := tokens, pfx := if mode == 3 then some i else none }
          let k := k.share dst q src
          let k := if named then k.putQuire (kvHandle d 24) { s with last := beat } else k
          let k := match mode, hit with
            | 2, some (n, p) => (k.putPfx n (some { p with last := beat })).putQuire p.quire { geo with last := beat }
            | 3, _ => k.putPfx i (some ⟨kvKey d, t, false, true, dst, kvGen d 20, tokens, beat⟩)
            | _, _ => k
          (k, .inr tokens)

/-! ### KV_DROP, KV_PIN, KV_EVICT (R248 to R250) -/

def Kt.dropOrPin (k : Kt) (d : Desc) (t : Nat) : Kt × Sum (Status × Nat) Nat :=
  let pin := d.bitsAt 16 1 1 == 1
  let drop := d.opcode == 0x33
  if kvByKey d then
    match k.findPfx t (kvKey d) with
    | (k, none) => (k, .inl (.extentFault, 0x62))
    | (k, some (i, p)) =>
      if drop then
        let (k, q) := k.quire p.quire
        let (k, n) := k.drop p.quire q
        (k, .inr n)
      else (k.putPfx i (some { p with pin := pin }), .inr 0)
  else
    let h := kvHandle d 20
    match k.named t h (kvGen d 20) with
    | (k, _, some e) => (k, .inl e)
    | (k, q, none) =>
      if drop then
        let (k, n) := k.drop h q
        (k, .inr n)
      else (k.putQuire h { q with pin := pin, last := k.c.esc.beat.toNat }, .inr 0)

def Kt.evictAll (k : Kt) (go : Chip → Quire → Bool) (l : List (Nat × Quire)) : Kt × Nat :=
  l.foldl (fun (a : Kt × Nat) e => if go a.1.c e.2 then (a.1.evict e.1 e.2, a.2 + 1) else a) (k, 0)

def Kt.evictCmd (k : Kt) (d : Desc) (t : Nat) : Kt × Sum (Status × Nat) Nat :=
  let (k, l) := k.eligible t
  let (k, n) := if d.bitsAt 16 0 1 = 0 then k.evictAll (fun c q => decide (q.last + d.field 20 4 < c.esc.beat.toNat)) l
    else k.evictAll (fun c _ => decide (d.field 24 3 < (c.leavesUsed t).length)) l
  (k, .inr n)

/-! ### Appends and gathers: their movements (R226, R227, R240, R244) -/

/-- A run of bytes cut so that no piece crosses a 4 KiB boundary of either side. -/
def cutRun : Nat → Nat → Nat → Nat → Nat → List (Nat × Nat)
  | 0, _, _, _, _ => []
  | fuel + 1, a, b, len, off =>
    if len = 0 then []
    else
      let n := min len (min (4096 - (a + off) % 4096) (4096 - (b + off) % 4096))
      (off, n) :: cutRun fuel a b (len - n) (off + n)

/-- The token runs of a range that lie in one leaf each: the leaf's index in the list, the first token in it, the first token's place in
the range, the tokens. -/
def tokenRuns (tpl first n : Nat) : List (Nat × Nat × Nat × Nat) :=
  (upTo (ceilDiv (first % tpl + n) tpl)).map (fun i =>
    let lo := max first ((first / tpl + i) * tpl)
    let hi := min (first + n) ((first / tpl + i + 1) * tpl)
    (first / tpl + i, lo % tpl, lo - first, hi - lo))

/-- The rights of arena accesses (R229). -/
def arenaEnd (pla : Nat) : End := .pool pla none (rRead + rWrite + rOperate)

/-- The data of a range of tokens moved between an operand (a pool or host word at `word`) and its leaves. -/
def kvMoves (c : Chip) (d : Desc) (t : Nat) (q : Quire) (leaves : List Nat) (first n layer0 layers word : Nat) (host gather : Bool) :
    List Move :=
  let base := if !host then opPla d word else if hostMode d word = 2 then 0 else hostAddr d word
  (upTo layers).flatMap (fun l => (upTo 2).flatMap (fun h => (tokenRuns q.tpl first n).flatMap (fun e =>
    let leaf := c.leafPla t (leaves.getD e.1 0) + q.rowAt q.tpl (layer0 + l) h e.2.1
    let at' := q.rowAt n l h e.2.2.1
    let len := e.2.2.2 * q.row
    (cutRun (len / 2048 + 3) leaf (base + at') len 0).map (fun p =>
      let a := arenaEnd (leaf + p.1)
      let o : End := if host then .host word (at' + p.1)
        else .pool (opPla d word + at' + p.1) (some (opGen d word)) ((if gather then rWrite else rRead) + rOperate)
      if gather then ⟨a, o, p.2, at' + p.1⟩ else ⟨o, a, p.2, at' + p.1⟩))))

/-- The rows of the first `n` tokens of a leaf copied to another (R240 step 1). -/
def cowMoves (c : Chip) (t : Nat) (q : Quire) (old new n : Nat) : List Move :=
  (upTo q.layers).flatMap (fun l => (upTo 2).flatMap (fun h =>
    let at' := q.rowAt q.tpl l h 0
    (cutRun (n * q.row / 2048 + 3) at' at' (n * q.row) 0).map (fun p =>
      ⟨arenaEnd (c.leafPla t old + at' + p.1), arenaEnd (c.leafPla t new + at' + p.1), p.2, 0⟩)))

/-- Movements held as an operator of sequencer 16 and put in the movers' queues. -/
def Chip.kvHold (c : Chip) (d : Desc) (moves : List Move) : Chip × Nat :=
  let n := c.eng.nextOp
  ((c.hold { seqn := 16, d := d, total := moves.length, next := moves.length, moves := moves, pre := c.preFaults d }).issueTiles n
    moves.length, n)

/-- The operand checked over its whole span (R236): the status of the failing step. -/
def Chip.kvSpan (c : Chip) (d : Desc) (word n : Nat) (host write : Bool) : Option Status :=
  if host then none
  else match c.wouldAdmit elbKve (unitReq d.ctx (opPla d word) n (some (opGen d word)) ((if write then rWrite else rRead) + rOperate) write) with
    | (_, some (st, _), _) => some st
    | (_, none, _) => none

/-- Operations other than appends that wait for admission, and those appends. -/
def KvOp.waiting (o : KvOp) : Bool := o.d.opcode == 0x30 && o.st != .moving
def Chip.kvRunning (c : Chip) : Nat := countIf (fun (e : Nat × KvOp) => !e.2.waiting) c.kve.ops
def Chip.kvWaiting (c : Chip) : Nat := countIf (fun (e : Nat × KvOp) => e.2.waiting) c.kve.ops

/-- The bound of R243. -/
def Chip.kvBound (c : Chip) (d : Desc) (b cw : Nat) : Nat :=
  let q := if (c.ring d.ring).loc = 1 then 320 else 192
  300 + max (ceilDiv (b + cw) 2048) (if kvSrcHost d then ceilDiv b q else 0)

/-- What an append finds (R239 to R241): the tables read, its quire, the failing step, the tokens in the last leaf, that leaf, whether it is
shared and copied, what is needed free, the quire's appends of this beat. -/
structure AppView where
  k : Kt
  q : Quire
  bad : Option (Status × Nat)
  part : Nat
  lastLeaf : Nat
  cow : Bool
  need : Need
  apps : Nat
  deriving DecidableEq, Repr

/-- Whether an append copies its quire's last leaf, as its REFS then stand, and what the append needs free (R240). -/
def Kt.appendNeed (k : Kt) (d : Desc) (q : Quire) (lastLeaf : Nat) : Kt × Bool × Need :=
  let (k, refs, _, _) := if q.tokens % q.tpl = 0 then (k, 0, 0, 0) else k.leafRefs lastLeaf
  let cow := q.tokens % q.tpl != 0 && decide (1 < refs)
  let more := ceilDiv (q.tokens + kvTokens d) q.tpl - ceilDiv q.tokens q.tpl
  (k, cow, { leaves := more + cow.toNat, blocks := ceilDiv (q.leaves + more) 14 - ceilDiv q.leaves 14 })

def Chip.appendView (c : Chip) (d : Desc) : AppView :=
  let (k, q, bad) := Kt.named ⟨c, none⟩ (kvCaller c d) (kvHandle d 16) (kvGen d 16)
  let tail := q.leaves - 14 * (ceilDiv q.leaves 14 - 1)
  let (k, tb) := if q.leaves = 0 then (k, []) else let (k, _, ls) := k.chain 1 q.tail; (k, ls.take tail)
  let (k, cow, need) := k.appendNeed d q (tb.getLastD 0)
  ⟨k, q, bad, q.tokens % q.tpl, tb.getLastD 0, cow, need, if q.appBeat = c.esc.beat.toNat % 2 ^ 32 then q.apps else 0⟩

/-- Appends admitted in this beat. -/
def Chip.kvAdmitted (c : Chip) : Nat := if c.kve.admitBeat = c.esc.bounds then c.kve.admitted else 0

/-- Whether an append waits for the next beat (R242), or for an operation or the end of the beat (R243). -/
def Chip.appendFull (c : Chip) (v : AppView) : Bool := 4 ≤ v.apps || 40 * c.beatUs ≤ c.kvAdmitted
def Chip.appendLate (c : Chip) (d : Desc) (v : AppView) : Bool :=
  c.quiesced || 256 ≤ c.kvRunning || c.esc.len < c.esc.cyc
    + c.kvBound d (kvTokens d * v.q.tokenBytes) (if v.cow then v.part * v.q.tokenBytes else 0)

/-- Room made for an append: what it finds then (an eviction may have dropped the last leaf's other quires, and the append copies nothing),
and its quire marked with it. -/
def Chip.appendRoom (c : Chip) (id : Nat) (o : KvOp) (v : AppView) : AppView :=
  let k := Kt.autoEvict ⟨v.k.c.putKv id { o with quires := [kvHandle o.d 16] }, none⟩ (kvCaller c o.d)
    (fun k => (k.appendNeed o.d v.q v.lastLeaf).2.2) 8
  let (k, cow, need) := k.appendNeed o.d v.q v.lastLeaf
  { v with k := k, cow := cow, need := need }
def Chip.appendMark (c : Chip) (id : Nat) (o : KvOp) (v : AppView) : Kt :=
  (c.appendRoom id o v).k.putQuire (kvHandle o.d 16) { v.q with appBeat := c.esc.beat.toNat % 2 ^ 32, apps := v.apps + 1 }

/-- An append at the front of its quire's operations (R237, R239 to R243): refused, already present, deferred, or admitted with its leaves and
blocks allocated and its data moving. -/
def Chip.kvAppend (c : Chip) (id : Nat) (o : KvOp) : Chip :=
  let d := o.d
  let t := kvCaller c d
  let h := kvHandle d 16
  let n := kvTokens d
  let expect := d.field 32 4
  let no (st : Status) (detail : Nat) : Chip := c.kvEnd id d st detail 0 { status := st }
  let later (counted : Bool) : Chip :=
    let c := if counted && !o.counted then (c.bump rKVE_DEFERRED 1).event .kve 0 0x02 1 (c.carries d.ctx d.tensorTag) else c
    c.putKv id { o with st := .deferred, quires := [h], wait := c.esc.bounds + 1, counted := o.counted || counted }
  let v := c.appendView d
  match v.k.err, v.bad with
  | some st, _ => no st 0
  | none, some (st, x) => no st x
  | none, none =>
    if v.q.st != 1 then no .rightsFault 0x64
    else if expect != 0xFFFFFFFF && expect != v.q.tokens then
      if expect + n ≤ v.q.tokens then no .ok 0 else if v.q.tokens < expect then no .busyRetry 0x65 else no .formatFault 0x65
    else if c.appendFull v then later true
    else if c.appendLate d v then later false
    else
      let w := v
      let v := c.appendRoom id o w
      let k := v.k
      if k.err.isSome then no (k.err.getD .dataLost) 0
      else if !v.need.met k.c t then no .queueFull 0x66
      else match c.kvSpan d 24 (n * v.q.tokenBytes) (kvSrcHost d) false with
        | some st => c.kvEnd id d st 0 0 (c.operandFault d.ctx st (opPla d 24) (opGen d 24))
        | none =>
          let ls := k.c.freeLeaves t v.need.leaves
          let bs := k.c.freeBlocks v.need.blocks
          let new := if v.cow then ls.drop 1 else ls
          let fresh := ls.headD 0
          let k := c.appendMark id o w
          let c1 := k.c.setKve { k.c.kve with leaves := k.c.kve.leaves ++ ls, blocks := k.c.kve.blocks ++ bs, admitted := c.kvAdmitted + 1,
                                              admitBeat := c.esc.bounds }
          let shown := List.replicate (v.q.leaves - 1) 0 ++ (if v.q.leaves = 0 then [] else [if v.cow then fresh else v.lastLeaf]) ++ new
          let moves := (if v.cow then cowMoves c1 t v.q v.lastLeaf fresh v.part else [])
            ++ kvMoves c1 d t v.q shown v.q.tokens n 0 v.q.layers 24 (kvSrcHost d) false
          if k.err.isSome then no (k.err.getD .dataLost) 0
          else
            let (c2, op) := c1.kvHold d moves
            (c2.event .kve 0 0x01 1 (c2.carries d.ctx d.tensorTag)).putKv id
              { o with st := .moving, quires := [h], beat := c.esc.bounds, op := op, leaves := ls, blocks := bs,
                       cow := if v.cow then some (v.lastLeaf, fresh) else none }

/-- A gather starts (R237, R244). -/
def Chip.kvGather (c : Chip) (id : Nat) (o : KvOp) : Chip :=
  let d := o.d
  let t := kvCaller c d
  let h := kvHandle d 16
  let no (st : Status) (detail : Nat) : Chip := c.kvEnd id d st detail 0 { status := st }
  match Kt.named ⟨c, none⟩ t h (kvGen d 16) with
  | (_, _, some (st, x)) => no st x
  | (k, q, none) =>
    let bytes := kvLayerCount d * 2 * kvCount d * q.row
    if q.tokens < kvFirst d + kvCount d || q.layers < kvLayerFirst d + kvLayerCount d then no .formatFault 0x65
    else match c.kvSpan d 32 bytes (kvDstHost d) true with
      | some st => c.kvEnd id d st 0 0 (c.operandFault d.ctx st (opPla d 32) (opGen d 32))
      | none =>
        let (k, _, ls) := k.list q (ceilDiv (kvFirst d + kvCount d) q.tpl)
        let k := k.putQuire h { q with last := c.esc.beat.toNat }
        match k.err with
        | some st => no st 0
        | none =>
          let moves := kvMoves k.c d t q ls (kvFirst d) (kvCount d) (kvLayerFirst d) (kvLayerCount d) 32 (kvDstHost d) true
          let (c, op) := k.c.kvHold d moves
          c.putKv id { o with st := .moving, quires := [h], op := op }

/-! ### Order (R238) -/

/-- An operation starts: steps 1 and 2, then its own. -/
def Chip.kvStart (c : Chip) (id : Nat) (o : KvOp) : Chip :=
  let d := o.d
  let t := kvCaller c d
  let no (st : Status) (detail : Nat) : Chip := c.kvEnd id d st detail 0 { status := st }
  if !c.bit rKVE_CTL 0 || !c.bit rKVE_STATUS 0 then no .busyRetry 0x60
  else if kvBad d then no .formatFault 0x61
  else if c.kvLeaves t = 0 then no .unsupported 0x61
  else match d.opcode with
    | 0x30 => c.kvAppend id o
    | 0x31 => c.kvGather id o
    | _ =>
      let k : Kt := ⟨c.putKv id { o with quires := c.kvHandles d }, none⟩
      let (k, r) := if d.opcode = 0x32 then k.fork d t else if d.opcode = 0x35 then k.evictCmd d t else k.dropOrPin d t
      match k.err, r with
      | some st, _ => no st 0
      | none, .inl (st, x) => no st x
      | none, .inr info => k.c.kvEnd id d .ok 0 info { status := .ok }

/-- Whether an earlier operation names a quire of this one. -/
def Chip.kvBehind (c : Chip) (id : Nat) (d : Desc) : Bool :=
  let hs := c.kvHandles d
  c.kve.ops.any (fun e => e.1 < id && ((if e.2.quires.isEmpty then c.kvHandles e.2.d else e.2.quires).any (fun h => hs.contains h)))

/-- Whether an entry of KVE's completion buffer is free for an operation: those that move data have reserved theirs (R113). -/
def Chip.kvRoom (c : Chip) : Bool := c.posted bufKve + countIf (fun (e : Nat × KvOp) => e.2.st == .moving) c.kve.ops < 64

/-- Every queued operation that no earlier one holds back is started, in order, while it can reserve its completion; an aborted append ends. -/
def Chip.kvPump (c : Chip) : Chip :=
  (c.kve.ops.map (fun e => e.1)).foldl (fun c id =>
    match c.kvOp id with
    | some o =>
      if !c.kvRoom then c
      else if o.st == .aborted then c.kvEnd id o.d .aborted 0 0 { status := .aborted }
      else if o.st == .queued && !c.kvBehind id o.d then c.kvStart id o
      else c
    | none => c) c

/-- A KV descriptor taken by KVE, while there is room for it (R238, R242); otherwise it stays in RNG's buffer. -/
def Chip.kvTake (c : Chip) (d : Desc) : Chip :=
  if (if d.opcode = 0x30 then 4096 ≤ c.kvWaiting else 256 ≤ c.kvRunning) then c
  else (c.setKve { c.kve with ops := put c.kve.ops c.kve.nextId { d := d }, nextId := c.kve.nextId + 1 }).kvPump

/-- Deferred appends tried again from B+2, oldest first (R242, R243). -/
def Chip.kvAdmit (c : Chip) : Chip :=
  if c.esc.cyc < 2 || c.quiesced then c
  else (((c.kve.ops.filter (fun e => e.2.st == .deferred && e.2.wait.toNat ≤ c.esc.bounds.toNat)).map (fun e => e.1)).foldl (fun c id =>
    match c.kvOp id with
    | some o => if c.kvRoom then c.kvAppend id o else c
    | none => c) c).kvPump

/-! ### The end of an append or gather -/

/-- The end of the data movement in a completion: operand details have no code in R237. -/
def Chip.kvStatus (c : Chip) (o : Op) : Status × Nat × FaultRec :=
  let (st, detail, f, own) := opStatus o
  let f := c.opFault o f own
  let word := if o.d.opcode == 0x30 then 24 else 32
  let named := f.addr != 0 && f.kind == 0 && c.handleAt f.addr == c.handleAt (opPla o.d word)
  (st, if f.kind = 3 then detail else 0, if named then { f with gen := opGen o.d word } else f)

/-- The leaves and blocks of an append that did not happen are free again (R241). -/
def Chip.kvRelease (c : Chip) (o : KvOp) : Chip :=
  c.setKve { c.kve with leaves := c.kve.leaves.filter (fun l => !o.leaves.contains l), blocks := c.kve.blocks.filter (fun b => !o.blocks.contains b) }

/-- The writes of R240 step 4: leaf entries, list blocks, and last the quire entry. -/
def Kt.commit (k : Kt) (o : KvOp) (q : Quire) : Kt :=
  let d := o.d
  let tokens := q.tokens + kvTokens d
  let total := ceilDiv tokens q.tpl
  let inTail := q.leaves - 14 * (ceilDiv q.leaves 14 - 1)
  let (k, ls) := if q.leaves = 0 then (k, []) else let (k, _, ls) := k.chain 1 q.tail; (k, ls.take inTail)
  let new := match o.cow with | some _ => o.leaves.drop 1 | none => o.leaves
  let ls := (match o.cow with | some (_, x) => ls.dropLast ++ [x] | none => ls) ++ new
  let touched := if q.tokens % q.tpl = 0 then new.length else new.length + 1
  let k := ((ls.drop (ls.length - touched)).zipIdx).foldl (fun k e =>
    let ix := total - touched + e.2
    k.putLeaf e.1 1 (min q.tpl (tokens - ix * q.tpl)) q.tenant) k
  let k : Kt := match o.cow with
    | some (old, _) => ⟨((k.refDown old).1.c.bump rKVE_COW 1).event .kve 0 0x03 1 (k.c.carries o.d.ctx o.d.tensorTag), (k.refDown old).1.err⟩
    | none => k
  let bs := (if q.leaves = 0 then [] else [q.tail]) ++ o.blocks
  (k.putBlocks bs ls).putQuire (kvHandle d 16)
    { q with tokens := tokens, leaves := total, head := if q.leaves = 0 then bs.headD 0 else q.head, tail := bs.getLastD 0,
             last := k.c.esc.beat.toNat }

/-- The last write of an append acknowledged (R240 steps 4 and 5, R241, R243). -/
def Chip.kvCommit (c : Chip) (id : Nat) : Chip :=
  match c.kvOp id with
  | none => c
  | some o =>
    match c.opOf o.op with
    | none => c
    | some p =>
      if o.st != .moving || o.d.opcode != 0x30 || !c.opIdle p then c
      else
        let c := c.setEng { c.eng with ops := del c.eng.ops o.op }
        let c := if o.beat.toNat < c.esc.bounds.toNat then c.bump rKVE_LATE 1 else c
        let (st, detail, f) := c.kvStatus p
        let fails (st : Status) (detail : Nat) (f : FaultRec) : Chip := ((c.kvRelease o).kvEnd id o.d st detail 0 f).kvPump
        if !st.good then fails st detail f
        else
          let (k, q) := Kt.quire ⟨c, none⟩ (kvHandle o.d 16)
          if q.st != 1 || q.gen != kvGen o.d 16 then fails .extentRevoked 0 { status := .extentRevoked }
          else
            let k := k.commit o q
            match k.err with
            | some e => fails e 0 { status := e }
            | none => (k.c.kvEnd id o.d st 0 (q.tokens + kvTokens o.d) { status := st }).kvPump

/-- A gather whose data has been moved completes (R244). -/
def Chip.kvGathered (c : Chip) (n : Nat) (p : Op) : Chip :=
  match c.kve.ops.find? (fun e => e.2.st == .moving && e.2.op == n && e.2.d.opcode == 0x31) with
  | none => c
  | some (id, o) =>
    if !c.opIdle p then c
    else
      let (st, detail, f) := c.kvStatus p
      ((c.setEng { c.eng with ops := del c.eng.ops n }).kvEnd id o.d st detail p.info f).kvPump

/-! ### Aborts and unbinds (R238, R253) -/

/-- The appends of a ring that have not been admitted complete with ABORTED. -/
def Chip.kvAbortRing (c : Chip) (ring : Nat) : Chip :=
  (c.setKve { c.kve with ops := mapVals c.kve.ops (fun _ o => if o.waiting && o.d.ring == ring then { o with st := .aborted } else o) }).kvPump

/-- Every quire and prefix entry of a tenant dropped, pinned or not. -/
def Chip.kvDropTenant (c : Chip) (t : Nat) : Chip :=
  let k := c.kve.quires.foldl (fun (k : Kt) h =>
    let (k, q) := k.quire h
    if q.st != 0 && q.tenant == t then (k.drop h q).1 else k) ⟨c, none⟩
  ((k.c.kve.prefixes.filter (fun e => e.2 == t)).foldl (fun (k : Kt) e => k.putPfx e.1 none) k).c

/-! ### Start-up (R231, R252) -/

/-- Whether a region lies in one LIVE extent of context 0 at a generation, with tile checks off. -/
def Chip.regionOk (c : Chip) (pla gen bytes : Nat) (p : Extent → Bool) : Bool :=
  match c.handleAt pla with
  | some h =>
    let e := c.extent h
    e.st == .live && e.ownerCtx == 0 && e.gen.toNat == gen && e.tchk == 0 && e.covers ((pla + bytes - 1) / 2 ^ 21) && p e
  | none => false
def Chip.kvRegionOk (c : Chip) : Bool :=
  c.regionOk (c.get64 rKVE_BASE % 2 ^ 48) (bitsOf (c.get64 rKVE_BASE) 48 8) 469762048 (fun e => !e.keyValid && e.coh == 0)

/-- Every table entry written free (INIT = 1). -/
def Kt.zero (k : Kt) : Kt :=
  let k := (upTo (469762048 / 4096)).foldl (fun (k : Kt) i => k.write (4096 * i) 4096 0) k
  k.setKve { k.c.kve with leaves := [], blocks := [], quires := [], prefixes := [] }

/-- The tables adopted (INIT = 0): REFS and the free lists from the quires' lists alone. -/
def Kt.adopt (k : Kt) : Kt :=
  let k := k.setKve { k.c.kve with leaves := [], blocks := [], quires := [], prefixes := [] }
  let (k, refs) := (upTo 1048576).foldl (fun (a : Kt × NMap Nat) h =>
    let (k, q) := a.1.quire h
    if q.st = 0 then (k, a.2)
    else
      let (k, bs, ls) := k.list q q.leaves
      let v := k.c.kve
      (k.setKve { v with quires := v.quires ++ [h], blocks := v.blocks ++ bs }, ls.foldl (fun m l => adjust m l 0 (· + 1)) a.2)) (k, [])
  let k := (upTo 8388608).foldl (fun (k : Kt) l =>
    let (k, r, f, t) := k.leafRefs l
    let n := lookD refs l 0
    if n = r then (if n = 0 then k else k.setKve { k.c.kve with leaves := k.c.kve.leaves ++ [l] }) else k.putLeaf l n f t) k
  (upTo 4194304).foldl (fun (k : Kt) i =>
    let (k, p) := k.pfx i
    if p.valid then k.setKve { k.c.kve with prefixes := k.c.kve.prefixes ++ [(i, p.tenant)] } else k) k

/-- ENABLE written to 1 with an INIT (R252). -/
def Chip.kvEnable (c : Chip) (val : Word) (init : Bool) : Chip :=
  if c.bit rKVE_CTL 0 || !bitOf val.toNat 0 || bitOf val.toNat 1 != init then c
  else if !c.kvRegionOk then (c.setBit rKVE_CTL 1 init).setBit rKVE_STATUS 1 true
  else
    let c := (((c.setBit rKVE_CTL 0 true).setBit rKVE_CTL 1 init).setBit rKVE_STATUS 1 false).setBit rKVE_STATUS 0 false
    let k := if init then Kt.zero ⟨c, none⟩ else Kt.adopt ⟨c, none⟩
    k.c.setKve { k.c.kve with starting := k.err.isNone }

/-- The initialisation or walk ends. -/
def Chip.kvReady (c : Chip) : Chip :=
  if c.kve.starting && c.bit rKVE_CTL 0 then (c.setBit rKVE_STATUS 0 true).setKve { c.kve with starting := false } else c

/-- ENABLE of SEQ_TCHK_CTL written to 1 (07_operators.md R218): the table checked, its stale bits set or the table adopted. -/
def Chip.tchkEnable (c : Chip) (val : Word) (init : Bool) : Chip :=
  if c.bit rTCHK_CTL 0 || !bitOf val.toNat 0 || bitOf val.toNat 1 != init then c
  else if !c.regionOk c.tbase c.tgen (c.folioCount * 2112) (fun _ => true) then (c.setBit rTCHK_CTL 1 init).setBit rTCHK_CTL 3 true
  else
    let c := (((c.setBit rTCHK_CTL 0 true).setBit rTCHK_CTL 1 init).setBit rTCHK_CTL 3 false).setBit rTCHK_CTL 2 (!init)
    if init then
      let c := (upTo (c.folioCount / 64)).foldl (fun c i =>
        if c.tableFree (c.staleAt 0 + 4096 * i) 4096 then
          (c.unitWrite elbSeq 26 (c.tableReq (c.staleAt 0 + 4096 * i) 4096 true) (List.replicate 4096 0xFF)).1
        else c.setCoh { c.coh with posts := c.coh.posts ++ [(32768 * i, 32768)] }) c
      c.setEng { c.eng with tchkWait := true }
    else c
def Chip.tchkDone (c : Chip) : Chip :=
  if c.eng.tchkWait && c.bit rTCHK_CTL 0 then (c.setBit rTCHK_CTL 2 true).setEng { c.eng with tchkWait := false } else c

/-! ### Meanings -/

/-- The completion of an operator, or of a KV_GATHER. -/
def execOperatorComplete (op : Nat) (s : State) : Host.Outcome State Fault Refusal :=
  .next { s with chip := match s.chip.opOf op with
    | some p => if p.seqn = 16 then s.chip.live .kve (fun c => c.kvGathered op p) else s.chip.live .seq (fun c => c.opComplete op)
    | none => s.chip.live .seq (fun c => c) }

def execKvAppend (d : Desc) (s : State) : Host.Outcome State Fault Refusal :=
  .next { s with chip := s.chip.live .kve (fun c => c.kvTake d) }

def execKvAppendAdmit (s : State) : Host.Outcome State Fault Refusal :=
  .next { s with chip := s.chip.live .kve (fun c => c.kvAdmit) }

def execKvAppendCommit (id : Nat) (s : State) : Host.Outcome State Fault Refusal :=
  .next { s with chip := s.chip.live .kve (fun c => c.kvCommit id) }

def execKvGather (d : Desc) (s : State) : Host.Outcome State Fault Refusal :=
  .next { s with chip := s.chip.live .kve (fun c => c.kvTake d) }

def execKvCreate (d : Desc) (s : State) : Host.Outcome State Fault Refusal :=
  .next { s with chip := s.chip.live .kve (fun c => c.kvTake d) }

def execKvFork (d : Desc) (s : State) : Host.Outcome State Fault Refusal :=
  .next { s with chip := s.chip.live .kve (fun c => c.kvTake d) }

def execKvForkPrefix (d : Desc) (s : State) : Host.Outcome State Fault Refusal :=
  .next { s with chip := s.chip.live .kve (fun c => c.kvTake d) }

def execKvPublish (d : Desc) (s : State) : Host.Outcome State Fault Refusal :=
  .next { s with chip := s.chip.live .kve (fun c => c.kvTake d) }

def execKvDropQuire (d : Desc) (s : State) : Host.Outcome State Fault Refusal :=
  .next { s with chip := s.chip.live .kve (fun c => c.kvTake d) }

def execKvDropPrefix (d : Desc) (s : State) : Host.Outcome State Fault Refusal :=
  .next { s with chip := s.chip.live .kve (fun c => c.kvTake d) }

def execKvPinQuire (d : Desc) (s : State) : Host.Outcome State Fault Refusal :=
  .next { s with chip := s.chip.live .kve (fun c => c.kvTake d) }

def execKvPinPrefix (d : Desc) (s : State) : Host.Outcome State Fault Refusal :=
  .next { s with chip := s.chip.live .kve (fun c => c.kvTake d) }

def execKvEvictAge (d : Desc) (s : State) : Host.Outcome State Fault Refusal :=
  .next { s with chip := s.chip.live .kve (fun c => c.kvTake d) }

def execKvEvictQuota (d : Desc) (s : State) : Host.Outcome State Fault Refusal :=
  .next { s with chip := s.chip.live .kve (fun c => c.kvTake d) }

def execKveInit (who : Who) (val : Word) (s : State) : Host.Outcome State Fault Refusal :=
  .next { s with chip := s.chip.regCmd who rKVE_CTL (fun c => c.kvEnable val true) }

def execKveAdopt (who : Who) (val : Word) (s : State) : Host.Outcome State Fault Refusal :=
  .next { s with chip := s.chip.regCmd who rKVE_CTL (fun c => c.kvEnable val false) }

def execKveReady (s : State) : Host.Outcome State Fault Refusal :=
  .next { s with chip := s.chip.live .kve (fun c => c.kvReady) }

def execTchkInit (who : Who) (val : Word) (s : State) : Host.Outcome State Fault Refusal :=
  .next { s with chip := s.chip.regCmd who rTCHK_CTL (fun c => c.tchkEnable val true) }

def execTchkAdopt (who : Who) (val : Word) (s : State) : Host.Outcome State Fault Refusal :=
  .next { s with chip := s.chip.regCmd who rTCHK_CTL (fun c => c.tchkEnable val false) }

def execTchkInitDone (s : State) : Host.Outcome State Fault Refusal :=
  .next { s with chip := s.chip.live .seq (fun c => c.tchkDone) }

end Sys2Proof.Machine
end

