-- ==== Sys2Proof/Machine/Tick.lean ====
section
/-! DEFINITION. The passing of CORECLK cycles: what an idle step does, and what the commands that stand for longer times do (log 8). -/

namespace Sys2Proof.Machine

/-- The trace entries that DBG writes in `n` cycles: two for each DBGCLK cycle of 2.5 CORECLK cycles (16_observation.md R468). -/
def Chip.drainFor (c : Chip) (n : Nat) : Chip :=
  if c.dbg.fifo.isEmpty || c.held.contains .dbg then c
  else if n < 3 then c.drainTrace
  else (upTo (min (n * 2 / 5) 128)).foldl (fun c _ => (c.setDbg { c.dbg with wrCount := 0 }).drainTrace) c

/-- Whether ESC counts: not while REFCLK_SYS is lost (02_beat_and_commit.md R39), nor in P reset. -/
def Chip.escCounts (c : Chip) : Bool := !c.rcu.refLost && c.rcu.asserted != some .p

/-- `n` CORECLK cycles pass, in which the stacks issue queued writes and the refreshes they owe: the cycles since cycle B, while ESC counts, and since P reset advance, and the programmable counters that count cycles count
them (16_observation.md R463, code 0x00). -/
def Chip.passCycles (c : Chip) (n : Nat) : Chip :=
  let c := c.setEsc { c.esc with cyc := if c.escCounts then c.esc.cyc + n else c.esc.cyc, now := c.esc.now + n }
  let c := (upTo 64).foldl (fun c j => if c.aget (0x120E000 + 8 * j) 0 8 == 0 then c.count (336 + j) n else c) c
  (c.drainFor n).stacksFor n

/-- One cycle. -/
def Chip.tick (c : Chip) : Chip := c.passCycles 1

end Sys2Proof.Machine
end

