-- ==== Sys2Proof/Machine/Rings.lean ====
section
/-! DEFINITION. Rings, doorbells, fetches, the start of descriptors, completions and queues (04_rings_and_descriptors.md R89 to R123, R534). -/

namespace Sys2Proof.Machine

/-! ### Ring state -/

/-- A descriptor that waits in RNG's buffer: to start, or for what its refusal needs. -/
def DescSt.waits : DescSt → Bool
  | .fetched | .failed _ _ => true
  | .started | .done => false

/-- Descriptors fetched and not started; the entries of RNG's buffer that a ring holds, which are the descriptors that wait there and those of
outstanding fetches (R104). -/
def RingP.unstarted (x : RingP) : Nat := countIf (fun (f : Fetched) => f.st == .fetched) x.descs
def RingP.entries (x : RingP) : Nat := countIf (fun (f : Fetched) => f.st.waits) x.descs + sumOf (x.fetches.map (fun e => e.2.1))

/-- Whether a context fits a location (R119 detail 0x16, R534). -/
def ctxFits (e : CtxE) (loc : Nat) (node : NodeId) : Bool :=
  if loc = 1 then !e.srcPcie && (node &&& e.srcMask) == (e.srcNode &&& e.srcMask) else e.srcPcie

/-- The function of a ring's reads and writes, from the live context table or as an unbind keeps it (R534). -/
def Chip.ringFn (c : Chip) (x : RingP) : Nat := match x.keep with | some (f, _) => f | none => (c.ctx x.ctx).func

def Chip.ringPlace (c : Chip) (r : Nat) (x : RingP) : Place :=
  { loc := x.loc, fn := c.ringFn x, node := x.hostNode, rctx := x.remoteCtx, base := x.cqBase, log2 := x.cqLog, size := 16,
    vector := x.vector, number := r, kind := 0 }

/-- Outstanding fetches given up: their slots count as never fetched. -/
def RingP.dropFetches (x : RingP) : RingP :=
  { x with fetches := [], fetchIx := match x.fetches with | e :: _ => e.1 | [] => x.fetchIx }

/-- An ACTIVE ring enters STOPPED with a fault record of kind RING (R93, R534). The manual gives that record no STATUS: a free one (log 2). -/
def Chip.stopRing (c : Chip) (r detail : Nat) : Chip :=
  let x := c.ring r
  if x.st != .active then c
  else
    let (st, c) := c.freeStatus
    let c := c.putRing r { x.dropFetches with st := .stopped, unfit := x.unfit || detail == 3 }
    (c.fault { status := st, detail := detail, ctx := x.ctx, ring := r, kind := 7, addr := x.head.toNat }).1

/-! ### Fetching (R104, R105) -/

/-- One read of `n` slots from an index. -/
def Chip.fetchRead (c : Chip) (r : Nat) (ix : Word) (n lat : Nat) : Chip :=
  let x := c.ring r
  if n = 0 then c
  else
    let addr := x.sqBase.toNat + x.slotOf ix * 64
    let c := c.putRing r { x with fetches := x.fetches ++ [(ix, n, none)] }
    if x.loc = 1 then
      let t := c.rng.nextTxn
      (c.setRng { c.rng with fetchTxns := put c.rng.fetchTxns t (r, ix, n), nextTxn := (t + 1) % 16384 }).emit
        (.msg (c.ownMsg 0x01 x.hostNode t x.remoteCtx addr (64 * n) []) lat)
    else if c.portShut x.loc then c
    else if x.loc = 2 then c.emit (.mgtRead (BitVec.ofNat 64 addr) (64 * n))
    else c.hostOut 0 (.hostRead (c.ringFn x) (BitVec.ofNat 64 addr) (64 * n) lat)

/-- Entries left in the shared pool: 16,384 less the two guaranteed to every ACTIVE ring. -/
def Chip.sharedLeft (c : Chip) : Nat :=
  16384 - 2 * countIf (fun (e : Nat × RingP) => e.2.st == .active) c.rng.rings
  - sumOf (c.rng.rings.map (fun e => if e.2.st == .active then e.2.entries - 2 else e.2.entries))

/-- A fetch considered for a ring: up to RUNAHEAD slots, never past SQ_TAIL, in two reads where they wrap. The ring's guaranteed two entries
count among its RUNAHEAD (DESIGN CHOICE, log 20: R104 has them beside it, the chapter's opening has at most 64 fetched ahead); with RUNAHEAD 1
it still has the two. -/
def Chip.fetch (c : Chip) (r lat : Nat) : Chip :=
  let x := c.ring r
  if x.st != .active || !c.bit rRNG_CTL 0 then c
  else
    let room := (2 - x.entries) + c.sharedLeft
    let n := min (min (min (max 2 x.runahead - x.entries) x.runahead) (x.tail - x.fetchIx).toNat) room
    let first := min n (2 ^ x.sqLog - x.slotOf x.fetchIx)
    let c := c.putRing r { x with fetchIx := x.fetchIx + BitVec.ofNat 32 n }
    (c.fetchRead r x.fetchIx first lat).fetchRead r (x.fetchIx + BitVec.ofNat 32 first) (n - first) lat

/-- A fetch is considered whenever at most half the window is fetched and not started (R105). -/
def Chip.refetch (c : Chip) (r : Nat) : Chip :=
  if 2 * (c.ring r).unstarted ≤ (c.ring r).runahead then c.fetch r 0 else c

/-! ### Room for a descriptor that is to start (R104, R113, R189, R238) -/

/-- Started descriptors of some kind that their unit has not taken yet. -/
def Chip.startedOf (c : Chip) (p : Nat → Bool) (taken : Nat → Word → Bool) : Nat :=
  sumOf (c.rng.rings.map (fun r => countIf (fun (f : Fetched) =>
    f.st == .started && p (Desc.opcode ⟨r.1, f.index, f.raw⟩) && !taken r.1 f.index) r.2.descs))

/-- Whether SEQ can take an operator beside those that are on their way to it: 16 sequencers of 16 operators, each with its completion
buffer. -/
def seqOpcode (o : Nat) : Bool := 0x20 ≤ o && o ≤ 0x2F && o != 0x25
def Chip.seqRoom (c : Chip) : Bool :=
  c.pickSeq.isSome
  && c.startedOf seqOpcode (fun r ix => c.eng.ops.any (fun e => e.2.d.ring == r && e.2.d.index == ix))
    < sumOf ((upTo 16).map (fun n => min (16 - c.seqLoad n) (64 - c.posted (bufSeq n) - c.seqLoad n)))

/-- Whether KVE can: 256 operations at once, and 4,096 appends that wait (R242). -/
def Chip.kvOnWay (c : Chip) (p : Nat → Bool) : Nat :=
  c.startedOf p (fun r ix => c.kve.ops.any (fun e => e.2.d.ring == r && e.2.d.index == ix))
def Chip.kvCanTake (c : Chip) (o : Nat) : Bool :=
  if o = 0x30 then c.kvWaiting + c.kvOnWay (· == 0x30) < 4096 else c.kvRunning + c.kvOnWay (fun x => 0x31 ≤ x && x ≤ 0x35) < 256

/-- Whether the unit of a descriptor has room for it: otherwise it waits in RNG's buffer. -/
def Chip.bufRoom (c : Chip) (d : Desc) : Bool :=
  match bufOf d ((c.ring d.ring).slotOf d.index) with
  | some b => c.bufUsed b < 64
  | none => if seqOpcode d.opcode then c.seqRoom else c.kvCanTake d.opcode

/-- A descriptor of a ring with its state changed. -/
def RingP.mark (x : RingP) (ix : Word) (st : DescSt) (pre : List Pre) : RingP :=
  { x with descs := x.descs.map (fun f => if f.index = ix then { f with st := st, pre := pre } else f) }

/-! ### Arrival (R101, R141) -/

/-- Whether R100 lists an opcode. -/
def opcodeOk (o : Nat) : Bool :=
  o ≤ 3 || (0x10 ≤ o && o ≤ 0x14) || o = 0x18 || o = 0x19 || (0x20 ≤ o && o ≤ 0x35) || o = 0x38 || o = 0x39 || (0x40 ≤ o && o ≤ 0x42)

/-- The checks of a header: the first that fails. Step 4 fails for no opcode. -/
def Chip.headerBad (c : Chip) (d : Desc) : Option (Status × Nat) :=
  firstFail [(!opcodeOk d.opcode || !d.zero 1 3 5, .formatFault, 1), (d.ctx != (c.ring d.ring).ctx, .contextFault, 2),
    (!(c.ctx d.ctx).valid, .contextFault, 3)]

/-- Descriptors taken into the buffer from an index, checked and pretranslated. -/
def Chip.takeSlots (c : Chip) (r : Nat) (ix : Word) (slots : List Flit) : Chip :=
  slots.zipIdx.foldl (fun c e =>
    let d : Desc := ⟨r, ix + BitVec.ofNat 32 e.2, e.1⟩
    let (c, st, pre) := match c.headerBad d with
      | some (s, n) => (c, DescSt.failed s n, [])
      | none =>
        let (c, ps) := c.pretranslateAll d (c.ring r).loc
        (c, .fetched, ps)
    (c.event .rng 0 0x01 1 (c.carries (c.ring r).ctx d.tensorTag)).putRing r
      { c.ring r with descs := (c.ring r).descs ++ [⟨d.index, d.raw, st, pre, c.esc.bounds⟩] }) c

/-- The oldest fetches whose data is there are taken, in order. -/
def Chip.takeFetches (c : Chip) (r : Nat) : Nat → Chip
  | 0 => c
  | n + 1 =>
    match (c.ring r).fetches with
    | (ix, _, some l) :: rest => ((c.putRing r { c.ring r with fetches := rest }).takeSlots r ix l).takeFetches r n
    | _ => c

/-- Data for the fetch that starts at an index (the oldest without data where none is named), or its failure (R93). -/
def Chip.arrival (c : Chip) (r : Nat) (at' : Option Word) (ok : Bool) (slots : List Flit) : Chip :=
  let x := c.ring r
  match x.fetches.find? (fun e => e.2.2.isNone && (match at' with | some ix => e.1 == ix | none => true)) with
  | none => c
  | some (ix, n, _) =>
    if !ok || slots.length < n then c.stopRing r 1
    else
      let c := c.putRing r { x with fetches := x.fetches.map (fun e => if e.1 = ix then (e.1, e.2.1, some (slots.take n)) else e) }
      ((c.takeFetches r x.fetches.length).settleRing r).refetch r

/-- RD_RSP for a fetch of a location 1 ring. -/
def Chip.rngData (c : Chip) (m : Msg) : Chip :=
  match look c.rng.fetchTxns m.txn.toNat with
  | none => c
  | some (r, ix, n) =>
    let slots := (upTo n).map (fun i => BitVec.ofNat 512 (ofBytesLE (slice m.data (64 * i) 64)))
    (c.setRng { c.rng with fetchTxns := del c.rng.fetchTxns m.txn.toNat }).arrival r (some ix)
      (m.status == 0 && m.data.length == 64 * n) slots

/-- WR_ACK for a batch: a ring's failed record write stops it (R93). -/
def Chip.rngAck (c : Chip) (m : Msg) : Chip :=
  match look c.rng.recTxns m.txn.toNat with
  | none => c
  | some b =>
    let c := c.setRng { c.rng with recTxns := del c.rng.recTxns m.txn.toNat }
    if m.status != 0 && b < 4096 then c.stopRing b 2 else c

/-! ### Starting (R102, R103, R112, R141, R143) -/

/-- The next descriptor of a ring in ring order, if it may start. -/
def Chip.candidate (c : Chip) (r : Nat) (x : RingP) : Option Fetched :=
  if x.st != .active && x.st != .stopped then none
  else match x.descs.find? (fun f => f.st == .fetched) with
    | none => none
    | some f =>
      let d : Desc := ⟨r, f.index, f.raw⟩
      let before := x.descs.takeWhile (fun g => g.index != f.index)
      if (d.fence && !before.all (fun g => g.st == .done)) || !x.room || !c.bufRoom d || f.pre.any (fun p => p.st == .waiting && !p.stale) then none
      else some f

/-- The priority at which a ring is served: 3 for ring 0, and while a descriptor has waited a whole beat (R103). -/
def ringPri (r : Nat) (x : RingP) : Nat := if r = 0 || !x.aged.isEmpty then 3 else x.pri

/-- The ring served: the highest priority, and round-robin after the ring served last at that priority. -/
def Chip.pickRing (c : Chip) : Option (Nat × Fetched) :=
  let es := c.rng.rings.filterMap (fun e => (c.candidate e.1 e.2).map (fun f => (e.1, f)))
  let top := es.foldl (fun a e => max a (ringPri e.1 (c.ring e.1))) 0
  let l := es.filter (fun e => ringPri e.1 (c.ring e.1) == top)
  match l.find? (fun e => (look c.rng.lastRing top).any (fun r => r < e.1)) with
  | some e => some e
  | none => l.head?

/-- The next descriptor starts: stale pretranslations are redone and may hold it back; its completion slot is reserved, and a fetch is
considered once half the window is left. -/
def Chip.startDesc (c : Chip) : Chip :=
  if c.quiesced then c
  else match c.pickRing with
    | none => c
    | some (r, f) =>
      let (c, ps) := f.pre.foldl (fun (a : Chip × List Pre) p =>
        if p.stale then
          let (c, p) := (a.1.bump rXLT_STALE_REDONE 1).pretranslate p
          (c, a.2 ++ [p])
        else (a.1, a.2 ++ [p])) (c, [])
      let x := c.ring r
      if ps.any (fun p => p.st == .waiting) then c.putRing r (x.mark f.index .fetched ps)
      else
        let p := ringPri r x
        let x := { x.mark f.index .started ps with reserved := x.reserved + 1, aged := x.aged.filter (· != f.index) }
        ((c.putRing r x).setRng { (c.putRing r x).rng with lastRing := put c.rng.lastRing p r }).refetch r

/-- The fetched descriptors that have not started for one whole beat: until they start, the ring has priority 3 (R103). -/
def Chip.ageRing (c : Chip) (r : Nat) : Chip :=
  let x := c.ring r
  let late := x.descs.filter (fun f => f.st == .fetched && f.beat.toNat + 2 ≤ c.esc.bounds.toNat)
  if late.isEmpty then c else c.putRing r { x with aged := late.map (fun f => f.index) }

/-! ### Doorbells (R96 to R98) -/

/-- An ignored doorbell: its fault record of kind DOORBELL. -/
def Chip.bellFault (c : Chip) (r : Nat) (val : Word) (st : Status) (detail : Nat) : Chip :=
  (c.fault { status := st, detail := detail, ctx := (c.ring r).ctx, ring := r, kind := 8, addr := val.toNat }).1

/-- A head write of a fault queue or error record queue. A disabled queue keeps its CTRL_CTX and indices until it is enabled again
(DEDUCED, log 20). -/
def Chip.queueHead (c : Chip) (isErr : Bool) (r n : Nat) (val : Word) : Chip :=
  let q := if isErr then c.eq n else c.fq n
  if q.ctrlCtx != (c.ring r).ctx then c.bellFault r val .rightsFault 3
  else if q.used - q.batch.length < (val - q.head).toNat then c.bellFault r val .formatFault 3
  else
    let q := { q with sig := q.sig && val == q.head, head := val }
    if isErr then c.putEq n q else c.putFq n q

/-- A doorbell at an offset of a ring's page; `ok` says that its width and its sender are those R96 or R98 require. -/
def Chip.bell (c : Chip) (r off : Nat) (val : Word) (ok : Bool) (lat : Nat) : Chip :=
  let x := c.ring r
  if !c.bit rRNG_CTL 0 || x.st == .disabled || !ok || x.unfit then c.bump rRNG_DB_DROPPED 1
  else if off = 0 then
    if (val - x.head).toNat ≤ 2 ^ x.sqLog && (val - x.tail).toNat ≤ 2 ^ x.sqLog then (c.putRing r { x with tail := val }).fetch r lat
    else c.bellFault r val .formatFault 1
  else if off = 4 then
    if (val - x.cqHead).toNat ≤ x.written then ((c.putRing r { x with cqHead := val }).settleRing r).refetch r else c.bellFault r val .formatFault 2
  else if 0x100 ≤ off && off < 0x200 && off % 4 = 0 then c.queueHead false r ((off - 0x100) / 4) val
  else if 0x200 ≤ off && off < 0x300 && off % 4 = 0 then c.queueHead true r ((off - 0x200) / 4) val
  else c.bump rRNG_DB_DROPPED 1

/-- Whether a function is that of a ring's RING_CTX, or of the context an unbind keeps (R96, R534). -/
def Chip.pageOf (c : Chip) (r fn : Nat) : Bool :=
  let x := c.ring r
  (x.keep.isSome || (c.ctx x.ctx).srcPcie) && c.ringFn x == fn

/-- Whether an accepted BAR 4 write of a function is not yet visible to mirror reads (05_host_translation.md R132): it waits for a snoop, or
for its lender. -/
def Chip.bar4Hidden (c : Chip) (fn : Nat) : Bool :=
  c.pci.wrLent.any (fun e => e.2.1 == fn)
  || (c.coh.txns.map (fun e => e.2) ++ c.coh.front).any (fun t => t.kind == .write && (match t.who with | .bar4 f _ => f == fn | _ => false))

/-- A doorbell write to the page in BAR 2 (R96): 32 bits wide, from the function of RING_CTX. -/
def Chip.takeBell (c : Chip) (b : HeldBell) : Chip := c.bell b.ring b.off b.val (b.width == 4 && c.pageOf b.ring b.fn) 40

/-- The doorbells that wait are taken in order, each once no earlier BAR 4 write of its function is hidden (R132). -/
def Chip.pumpBells (c : Chip) : Chip :=
  c.rng.bells.foldl (fun c b =>
    if c.bar4Hidden b.fn then c.setRng { c.rng with bells := c.rng.bells ++ [b] } else c.takeBell b) (c.setRng { c.rng with bells := [] })

/-- A doorbell write as it arrives: one outside a secure IDE stream is dropped (R481). -/
def Chip.pcieBell (c : Chip) (fn r off width : Nat) (val : Word) (stream : Option Nat) : Chip :=
  if !c.ideOk stream then c else (c.setRng { c.rng with bells := c.rng.bells ++ [⟨fn, r, off, width, val⟩] }).pumpBells

/-- What a read of the page returns (R95): nothing but 0 for a DISABLED ring or to another function (R96). -/
def Chip.pageWord (c : Chip) (fn r off : Nat) : Word :=
  let x := c.ring r
  if x.st == .disabled || !c.pageOf r fn then 0
  else if off = 0 then x.tail
  else if off = 4 then x.cqHead
  else if off = 8 then x.head
  else if off = 12 then BitVec.ofNat 32 x.st.code
  else if 0x100 ≤ off && off < 0x200 then (c.fq ((off - 0x100) / 4)).head
  else if 0x200 ≤ off && off < 0x300 then (c.eq ((off - 0x200) / 4)).head
  else 0

/-- A read of the page: an Unsupported Request outside a secure stream (R481). -/
def Chip.pageRead (c : Chip) (fn r off tag : Nat) (stream : Option Nat) : Chip :=
  if !c.ideOk stream then c.emit (.pageRead fn tag none) else c.tlpOut 4 (.pageRead fn tag (some (c.pageWord fn r off)))

/-- A DOORBELL message (R98); its payload stands in the SPEC bytes, big-endian (R286, DEDUCED, log 20). -/
def Chip.fabricBell (c : Chip) (m : Msg) : Chip :=
  let r := m.specAt 0 2 % 4096
  let x := c.ring r
  c.bell r (m.specAt 2 2 % 4096) (BitVec.ofNat 32 (m.specAt 8 4)) (x.loc == 1 && m.specAt 4 2 == x.ctx && m.src == x.hostNode) 14

/-! ### The collector and batches (R110 to R115, R120, R121) -/

/-- The 16 bytes of a completion; SQ_HEAD and a retry time as they stand when it is written (R111). -/
def Chip.cplBytes (c : Chip) (x : RingP) (k : Cpl) (phase : Nat) : List Byte :=
  bytesLE 1 k.status.code ++ bytesLE 1 (phase + 2 * k.posted.toNat + 4 * k.dropped.toNat) ++ bytesLE 2 (x.slotOf k.index)
  ++ bytesLE 4 k.tag.toNat ++ bytesLE 1 k.detail ++ bytesLE 3 (if k.status == .busyRetry && k.info = 0 then c.beatUs else k.info)
  ++ bytesLE 4 x.head.toNat

/-- A batch closed: written and signalled; those of a ring that RNG cannot write are discarded, and a
write that a port in reset refuses stops the ring (R93, R534; 15_reset_clocks_power.md R444). A ring kept for an unbind becomes
DISABLED with the unbind's completion (R420). -/
def Chip.closeBatch (c : Chip) (r : Nat) : Chip :=
  let x := c.ring r
  let n := x.batch.length
  if n = 0 then c
  else if x.unfit then
    (c.putRing r { x with batch := [], reserved := x.reserved - n, cqPut := x.cqPut - BitVec.ofNat 32 n }).settleRing r
  else
    let first := x.cqPut - BitVec.ofNat 32 n
    let recs := x.batch.zipIdx.map (fun e => c.cplBytes x e.1 (phaseOf (first + BitVec.ofNat 32 e.2).toNat x.cqLog))
    let p := c.ringPlace r x
    let c := (c.writeBatch p r first.toNat recs).event .rng 0 0x02 n (c.carries x.ctx noTag)
    let c := if x.irq = 1 || (x.irq = 2 && x.batch.any (fun k => k.irq || !k.status.good)) then c.signal p x.cqPut.toNat else c
    let done := match x.keep with | some (_, ix) => x.batch.any (fun k => k.index == ix) | none => false
    let y := { c.ring r with batch := [], reserved := x.reserved - n }
    let d := c.putRing r (if done then { y with st := .disabled, keep := none } else y)
    if c.portShut p.loc && !done then d.stopRing r 2 else d

/-- One record taken by the collector, round-robin over the 54 buffers. -/
def Chip.collect (c : Chip) : Chip :=
  match ((upTo 54).map (fun i => (c.rng.turn + i) % 54)).find? (fun b => c.posted b != 0) with
  | none => c
  | some b =>
    match lookD c.rng.bufs b [] with
    | [] => c
    | k :: rest =>
      let c := c.setRng { c.rng with bufs := if rest.isEmpty then del c.rng.bufs b else put c.rng.bufs b rest, turn := (b + 1) % 54 }
      let x := c.ring k.ring
      let x := { x with batchCyc := if x.batch.isEmpty then c.esc.now else x.batchCyc, batch := x.batch ++ [k], cqPut := x.cqPut + 1 }
      let c := c.putRing k.ring x
      let c := if x.coalMax ≤ x.batch.length || x.coalWait = 0 then c.closeBatch k.ring else c
      if b = bufKve then c.kvPump else if b = bufRng then c.rng.rings.foldl (fun c e => c.refetch e.1) c.settleAll else c

/-- COAL_WAIT cycles after the first record of a batch: of a ring (below 4,096), a fault queue (4,096 + q) or an error record queue
(4,160 + q). -/
def Chip.batchExpire (c : Chip) (b : Nat) : Chip :=
  if b < 4096 then
    let x := c.ring b
    if x.batchCyc + x.coalWait ≤ c.esc.now then c.closeBatch b else c
  else if b < 4160 then (if (c.fq (b - 4096)).batchCyc + 256 ≤ c.esc.now then c.flushQueue false (b - 4096) else c)
  else if b < 4224 then (if (c.eq (b - 4160)).batchCyc + 256 ≤ c.esc.now then c.flushQueue true (b - 4160) else c)
  else c

/-! ### Setting and aborting (R117 to R119, R123, R534) -/

/-- Completions of a ring not yet written are dropped when it is set again (log 20). -/
def Chip.freshRing (c : Chip) (r : Nat) (x : RingP) : Chip :=
  (c.setRng { c.rng with bufs := mapVals c.rng.bufs (fun _ l => l.filter (fun k => k.ring != r)) }).putRing r { x with st := .active }

/-- A ring abort begins: nothing further is fetched, descriptors that have not started complete with ABORTED, operators end with their slice,
armed regions close, appends that wait end. -/
def Chip.beginAbort (c : Chip) (r : Nat) (d : Option Desc) : Chip :=
  let x := (c.ring r).dropFetches
  let x := { x with st := .aborting, abort := d, aged := [], descs := x.descs.map (fun f => match f.st with
    | .fetched => { f with st := .failed .aborted 0 }
    | _ => f) }
  let c := c.putRing r x
  let c := c.setEng { c.eng with ops := mapVals c.eng.ops (fun _ o => if o.d.ring = r && o.seqn < 16 then { o with aborted := true } else o) }
  ((c.abortRegions (fun g => g.d.ring == r)).kvAbortRing r).settleRing r

/-- The last fetched descriptor of an aborting ring has completed. -/
def Chip.abortDone (c : Chip) (r : Nat) : Chip :=
  let x := c.ring r
  if x.st != .aborting || !x.descs.isEmpty then c
  else
    let c := c.putRing r { x with st := .disabled, abort := none }
    match x.abort with
    | some d => c.okay bufRng d (x.fetchIx.toNat % 2 ^ 24)
    | none => c

def rgCtx (d : Desc) : Nat := d.field 20 2
def rgRing (d : Desc) : Nat := d.bitsAt 16 0 12
def rgLoc (d : Desc) : Nat := d.bitsAt 18 0 2
def logOk (n : Nat) : Bool := 6 ≤ n && n ≤ 16

def Chip.ringSet (c : Chip) (d : Desc) : Chip :=
  let r := rgRing d
  let e := c.ctx (rgCtx d)
  let x : RingP := { st := .active, loc := rgLoc d, pri := d.bitsAt 18 2 2, irq := d.bitsAt 18 4 2, runahead := d.bitsAt 19 0 7, ctx := rgCtx d,
                     sqLog := d.bitsAt 22 0 5, cqLog := d.bitsAt 23 0 5, sqBase := BitVec.ofNat 64 (d.field 24 8),
                     cqBase := BitVec.ofNat 64 (d.field 32 8), hostNode := BitVec.ofNat 24 (d.field 40 3), remoteCtx := d.field 44 2,
                     vector := d.bitsAt 46 0 12, coalMax := d.bitsAt 48 0 5, coalWait := d.bitsAt 50 0 9 }
  let rsvd := !d.zero 16 12 4 || !d.zero 18 6 2 || !d.zero 19 7 1 || !d.zero 22 5 3 || !d.zero 23 5 3 || !d.zero 43 0 8 || !d.zero 46 12 4
    || !d.zero 48 5 11 || !d.zero 50 9 7 || !d.zero 52 0 96
  match firstFail [
    ((c.ctxTenant (rgCtx d)).any c.unbinding, .busyRetry, 0),
    (!c.admins d (c.ctxTenant (rgCtx d)), .rightsFault, 0x10),
    (r == 0, .rightsFault, 0x11),
    (!e.valid, .contextFault, 0x12),
    (rsvd || 1 < x.loc || x.irq == 3 || x.runahead == 0 || 64 < x.runahead || !logOk x.sqLog || !logOk x.cqLog || x.sqBase.toNat % 4096 != 0
      || x.cqBase.toNat % 4096 != 0 || x.coalMax == 0 || 16 < x.coalMax || 256 < x.coalWait, .formatFault, 0x13),
    ((c.ring r).st == .aborting, .busyRetry, 0x14),
    ((c.ring r).st != .disabled, .formatFault, 0x15),
    (!ctxFits e x.loc x.hostNode, .contextFault, 0x16),
    (x.loc == 1 && c.card, .unsupported, 0x17)] with
  | some (st, n) => c.refuse bufRng d st n
  | none => (c.freshRing r x).okay bufRng d 0

def Chip.ringAbort (c : Chip) (d : Desc) : Chip :=
  let r := rgRing d
  let x := c.ring r
  let own := x.st != .disabled && x.ctx == d.ctx
  let t := if x.st == .disabled then none else c.ctxTenant x.ctx
  match firstFail [
    (!c.admins d t && !own, .rightsFault, 0x10),
    (r == 0, .rightsFault, 0x11),
    (!d.zero 16 12 4 || !d.zero 18 0 368 || r == d.ring, .formatFault, 0x13),
    (x.st == .disabled || x.st == .aborting, .formatFault, 0x15)] with
  | some (st, n) => c.refuse bufRng d st n
  | none => c.beginAbort r (some d)

/-- A queue disabled: the records not yet written are discarded and counted (R118); its indices stand. -/
def Chip.disableQueue (c : Chip) (isErr : Bool) (n : Nat) : Chip :=
  let q := if isErr then c.eq n else c.fq n
  if !q.enabled then c
  else
    let c := if q.batch.isEmpty then c else c.bump ((if isErr then rRNG_EQ_LOST else rRNG_FQ_LOST) + 4 * n) q.batch.length
    let q := { q with enabled := false, batch := [], put := q.put - BitVec.ofNat 32 q.batch.length }
    if isErr then c.putEq n q else c.putFq n q

def Chip.queueSet (c : Chip) (d : Desc) : Chip :=
  let isErr := d.bitsAt 16 0 1 == 1
  let on := d.bitsAt 16 1 1 == 1
  let n := d.bitsAt 17 0 6
  let e := c.ctx (rgCtx d)
  let q : Queue := { enabled := true, loc := rgLoc d, log2 := d.bitsAt 19 0 5, ctrlCtx := rgCtx d, base := BitVec.ofNat 64 (d.field 24 8),
                     hostNode := BitVec.ofNat 24 (d.field 32 3), remoteCtx := d.field 36 2, vector := d.bitsAt 38 0 12 }
  let rsvd := !d.zero 16 2 6 || !d.zero 17 6 2 || !d.zero 18 2 6 || !d.zero 19 5 3 || !d.zero 22 0 16 || !d.zero 35 0 8 || !d.zero 38 12 4
    || !d.zero 40 0 192
  match firstFail [
    ((c.ctxTenant (rgCtx d)).any c.unbinding, .busyRetry, 0),
    (!c.admins d (c.ctxTenant (rgCtx d)), .rightsFault, 0x10),
    (n == 0, .rightsFault, 0x11),
    (!e.valid, .contextFault, 0x12),
    (rsvd || 1 < q.loc || !logOk q.log2 || q.base.toNat % 4096 != 0, .formatFault, 0x13),
    (!ctxFits e q.loc q.hostNode, .contextFault, 0x16),
    (q.loc == 1 && c.card, .unsupported, 0x17)] with
  | some (st, k) => c.refuse bufRng d st k
  | none =>
    let c := c.disableQueue isErr n
    (if !on then c else if isErr then c.putEq n q else c.putFq n q).okay bufRng d 0

/-- What a changed or cleared context does to rings and queues (R534). -/
def Chip.ringsCheck (c : Chip) (ctx : Nat) : Chip :=
  let e := c.ctx ctx
  let c := c.rng.rings.foldl (fun c r =>
    let x := c.ring r.1
    if x.ctx = ctx && x.st == .active && x.keep.isNone && !(e.valid && ctxFits e x.loc x.hostNode) then c.stopRing r.1 3 else c) c
  if e.valid then c
  else
    let c := c.rng.fqs.foldl (fun c q => if q.2.ctrlCtx = ctx then c.disableQueue false q.1 else c) c
    c.rng.eqs.foldl (fun c q => if q.2.ctrlCtx = ctx then c.disableQueue true q.1 else c) c

/-- RNG_RING0_CFG written with ENABLE 1 (R123). -/
def Chip.ring0On (c : Chip) (val : Word) : Chip :=
  if !bitOf val.toNat 0 || (c.ring 0).st != .disabled then c
  else
    let c := c.setWord rRNG_RING0_CFG (writeWord rRNG_RING0_CFG (c.word rRNG_RING0_CFG) val)
    let g := c.get rRNG_RING0_CFG
    c.freshRing 0 { st := .active, loc := if g 1 1 = 1 then 2 else 0, pri := 3, irq := g 24 2, runahead := 64, sqLog := g 2 5, cqLog := g 7 5,
                    sqBase := BitVec.ofNat 64 (c.get64 0x200010), cqBase := BitVec.ofNat 64 (c.get64 0x200018), vector := g 12 12 }

/-- RNG_RING0_CFG written with ENABLE 0: an abort, or, where ENABLE reads 0, a write of the other fields. -/
def Chip.ring0Off (c : Chip) (val : Word) : Chip :=
  if bitOf val.toNat 0 then c
  else if (c.ring 0).st == .active || (c.ring 0).st == .stopped then c.beginAbort 0 none
  else c.setWord rRNG_RING0_CFG (writeWord rRNG_RING0_CFG (c.word rRNG_RING0_CFG) val)

/-- RNG_FQ0_CFG or RNG_EQ0_CFG written. -/
def Chip.queue0 (c : Chip) (isErr : Bool) (val : Word) (on : Bool) : Chip :=
  let off := if isErr then rRNG_EQ0_CFG else rRNG_FQ0_CFG
  let q := if isErr then c.eq 0 else c.fq 0
  if bitOf val.toNat 0 != on || (q.enabled && on) then c
  else if !on then
    if q.enabled then c.disableQueue isErr 0 else c.setWord off (writeWord off (c.word off) val)
  else
    let c := c.setWord off (writeWord off (c.word off) val)
    let q : Queue := { enabled := true, loc := if c.get off 1 1 = 1 then 2 else 0, log2 := c.get off 2 5, vector := c.get off 7 12,
                       base := BitVec.ofNat 64 (c.get64 (off - 8)) }
    if isErr then c.putEq 0 q else c.putFq 0 q

/-! ### Meanings -/

/-- An access of a doorbell page: a write of SQ_TAIL or of an offset that names no register, or a read. A held RNG answers a read with 0
(DEDUCED, log 20: every ring of a block in reset is DISABLED). -/
def execSqTailWrite (fn ring : Nat) (acc : PageAccess) (val : Word) (stream : Option Nat) (s : State) : Host.Outcome State Fault Refusal :=
  .next { s with chip := match acc with
    | .write width => (s.chip.tlpIn width).live .rng (fun c => c.pcieBell fn ring 0 width val stream)
    | .other off width => (s.chip.tlpIn width).live .rng (fun c => c.pcieBell fn ring off width val stream)
    | .read off tag => s.chip.pageRead fn ring off tag stream }

def execCqHeadWrite (fn ring width : Nat) (val : Word) (stream : Option Nat) (s : State) : Host.Outcome State Fault Refusal :=
  .next { s with chip := (s.chip.tlpIn width).live .rng (fun c => c.pcieBell fn ring 4 width val stream) }

def execFqHeadWrite (fn ring q width : Nat) (val : Word) (stream : Option Nat) (s : State) : Host.Outcome State Fault Refusal :=
  .next { s with chip := (s.chip.tlpIn width).live .rng (fun c => c.pcieBell fn ring (0x100 + 4 * (q % 64)) width val stream) }

def execEqHeadWrite (fn ring q width : Nat) (val : Word) (stream : Option Nat) (s : State) : Host.Outcome State Fault Refusal :=
  .next { s with chip := (s.chip.tlpIn width).live .rng (fun c => c.pcieBell fn ring (0x200 + 4 * (q % 64)) width val stream) }

def execDoorbell (_link : Nat) (m : Msg) (s : State) : Host.Outcome State Fault Refusal :=
  .next { s with chip := s.chip.response m (fun c => c.live .rng (fun c => c.fabricBell m)) }

def execDescriptorArrival (ring : Nat) (ok : Bool) (slots : List Flit) (s : State) : Host.Outcome State Fault Refusal :=
  .next { s with chip := ((if (s.chip.ring ring).loc = 0 then s.chip.tlpIn (64 * slots.length) else s.chip)).live .rng (fun c => c.arrival ring none ok slots) }

def execDescriptorStart (s : State) : Host.Outcome State Fault Refusal :=
  .next { s with chip := s.chip.live .rng (fun c => c.startDesc) }

def execRingPriorityAging (ring : Nat) (s : State) : Host.Outcome State Fault Refusal :=
  .next { s with chip := s.chip.live .rng (fun c => c.ageRing ring) }

def execNop (d : Desc) (s : State) : Host.Outcome State Fault Refusal :=
  .next { s with chip := s.chip.live .rng (fun c => c.okay bufRng d 0) }

def execRingSet (d : Desc) (s : State) : Host.Outcome State Fault Refusal :=
  .next { s with chip := s.chip.live .rng (fun c => c.ringSet d) }

def execRingAbort (d : Desc) (s : State) : Host.Outcome State Fault Refusal :=
  .next { s with chip := s.chip.live .rng (fun c => c.ringAbort d) }

def execRingAbortDone (ring : Nat) (s : State) : Host.Outcome State Fault Refusal :=
  .next { s with chip := s.chip.live .rng (fun c => c.abortDone ring) }

def execQueueEnable (d : Desc) (s : State) : Host.Outcome State Fault Refusal :=
  .next { s with chip := s.chip.live .rng (fun c => c.queueSet d) }

def execQueueDisable (d : Desc) (s : State) : Host.Outcome State Fault Refusal :=
  .next { s with chip := s.chip.live .rng (fun c => c.queueSet d) }

def execRing0Enable (who : Who) (val : Word) (s : State) : Host.Outcome State Fault Refusal :=
  .next { s with chip := s.chip.regCmd who rRNG_RING0_CFG (fun c => c.ring0On val) }

def execRing0Disable (who : Who) (val : Word) (s : State) : Host.Outcome State Fault Refusal :=
  .next { s with chip := s.chip.regCmd who rRNG_RING0_CFG (fun c => c.ring0Off val) }

def execFq0Enable (who : Who) (val : Word) (s : State) : Host.Outcome State Fault Refusal :=
  .next { s with chip := s.chip.regCmd who rRNG_FQ0_CFG (fun c => c.queue0 false val true) }

def execFq0Disable (who : Who) (val : Word) (s : State) : Host.Outcome State Fault Refusal :=
  .next { s with chip := s.chip.regCmd who rRNG_FQ0_CFG (fun c => c.queue0 false val false) }

def execEq0Enable (who : Who) (val : Word) (s : State) : Host.Outcome State Fault Refusal :=
  .next { s with chip := s.chip.regCmd who rRNG_EQ0_CFG (fun c => c.queue0 true val true) }

def execEq0Disable (who : Who) (val : Word) (s : State) : Host.Outcome State Fault Refusal :=
  .next { s with chip := s.chip.regCmd who rRNG_EQ0_CFG (fun c => c.queue0 true val false) }

def execCompletionTake (s : State) : Host.Outcome State Fault Refusal :=
  .next { s with chip := s.chip.live .rng (fun c => c.collect) }

def execBatchWaitExpiry (batch : Nat) (s : State) : Host.Outcome State Fault Refusal :=
  .next { s with chip := s.chip.live .rng (fun c => c.batchExpire batch) }

end Sys2Proof.Machine
end

