-- ==== Sys2Proof/Machine/Extents.lean ====
section
/-! DEFINITION. Contexts and extents: their management, revocation, hold and release, lenders, the directory walk, entries without a
majority (03_extents.md R60 to R82, R529 to R531; 13_redundancy.md R375). -/

namespace Sys2Proof.Machine

/-! ### Contexts (R61, R62, R529, R530) -/

/-- TARGET and ENTRY. -/
def csTarget (d : Desc) : Nat := d.field 16 2
def csEntry (d : Desc) : CtxE := CtxE.ofBits (d.bitsAt 32 0 128)

/-- Reserved bits of an entry's layout (R60). -/
def entryReserved (d : Desc) : Bool := d.bitsAt 32 5 3 != 0 || d.bitsAt 32 108 20 != 0

/-- The changed entry is written, and its rings and queues are looked at (R534). It takes effect for every ELB at the change point. -/
def Chip.changeCtx (c : Chip) (d : Desc) (n : Nat) (e : CtxE) : Chip :=
  let q := c.red.jseq
  let c := (c.writeCtx n e).ringsCheck n
  c.setExt { c.ext with ctxChanges := c.ext.ctxChanges ++ [⟨n, d, q⟩] }

def Chip.ctxSet (c : Chip) (d : Desc) : Chip :=
  let n := csTarget d
  let e := csEntry d
  let old := c.ctx n
  let me := c.caller d
  let standing :=
    if me.mgmt then !(c.tenantKeyed e.tenant || (old.valid && c.tenantKeyed old.tenant))
    else me.admin && e.tenant == me.tenant && !e.mgmt && !(old.valid && old.tenant != me.tenant)
  match firstFail [
    (c.unbinding e.tenant, .busyRetry, 0),
    (n = 0, .rightsFault, 0x0C),
    (!standing, .rightsFault, 0x0D),
    (!d.zero 18 0 112 || !d.zero 48 0 128 || entryReserved d || !e.valid, .formatFault, 0x0E),
    (c.journalFull, .busyRetry, 0)] with
  | some (st, k) => c.refuse bufExt d st k
  | none => c.changeCtx d n e

def Chip.ctxClear (c : Chip) (d : Desc) : Chip :=
  let n := csTarget d
  let old := c.ctx n
  let me := c.caller d
  match firstFail [
    (n = 0, .rightsFault, 0x0C),
    (!(me.mgmt || (me.admin && old.valid && old.tenant == me.tenant)), .rightsFault, 0x0D),
    (!d.zero 18 0 368, .formatFault, 0x0E),
    (old.valid && c.journalFull, .busyRetry, 0)] with
  | some (st, k) => c.refuse bufExt d st k
  | none => if !old.valid then c.okay bufExt d 0 else (c.changeCtx d n {}).xltCtxCleared n

/-- The chip as it stood when the journal's next record was `q`, as `okayJ` asks it. -/
def Chip.atJseq (c : Chip) (q : Quad) : Chip := c.setRed { c.red with jseq := q }

/-- The last ELB has acknowledged: the descriptor completes, once its record is acknowledged (R386). -/
def Chip.ctxPoint (c : Chip) (n : Nat) : Chip :=
  match c.ext.ctxChanges.find? (fun x => x.ctx == n) with
  | none => c
  | some x =>
    let c := c.dropElb (fun y => y.ctx == n)
    Chip.okayJ (c.atJseq x.jseq) (c.setExt { c.ext with ctxChanges := c.ext.ctxChanges.erase x }) bufExt x.desc 0

/-! ### Mapping (R71, R74, R75) -/

/-- The entry that an EXT_MAP body asks for, LIVE, with the tenant of its owner context. -/
def mapEntry (d : Desc) (tenant : Nat) : Extent :=
  let lent := d.bitsAt 46 11 1 == 1
  { plaBase := d.bitsAt 16 21 27, len := d.bitsAt 24 0 20, ownerCtx := d.bitsAt 16 48 16,
    backing := if lent then d.bitsAt 32 21 27 else d.bitsAt 32 21 20,
    lender := if lent then BitVec.ofNat 24 (d.bitsAt 40 0 24) else 0, rights := d.bitsAt 46 0 5,
    gen := BitVec.ofNat 8 (d.bitsAt 28 18 8), keySlot := d.bitsAt 48 0 10, keyValid := d.bitsAt 46 12 1 == 1,
    red := d.bitsAt 46 10 1 == 1, coh := d.bitsAt 46 5 2, tchk := d.bitsAt 46 7 2, spec := d.bitsAt 46 9 1 == 1, st := .live,
    lent := lent, tenant := tenant, pairGroup := d.bitsAt 50 0 12, lenderCtx := if lent then d.field 44 2 else 0 }

def mapHandle (d : Desc) : Nat := d.bitsAt 28 0 18

/-- Detail 0x03: reserved bits and encodings, alignment, ranges. -/
def mapBad (d : Desc) (e : Extent) : Bool :=
  !d.zero 24 20 12 || !d.zero 28 26 6 || d.bitsAt 43 0 8 != 0 || !d.zero 46 13 3 || !d.zero 48 10 6 || !d.zero 50 12 4 || !d.zero 52 0 96
  || d.bitsAt 16 0 21 != 0 || d.bitsAt 32 0 21 != 0 || (if e.lent then d.bitsAt 32 48 16 else d.bitsAt 32 41 23) != 0
  || e.coh == 3 || e.tchk == 3 || e.len = 0 || e.len > 786431 || e.plaBase + e.len > 2 ^ 27

/-- Whether two folio ranges meet. -/
def foliosMeet (a n b m : Nat) : Bool := a < b + m && b < a + n

/-- The extents that are not FREE. -/
def Chip.usedExts (c : Chip) : List Extent := c.usedHandles.map c.extent

/-- Detail 0x05 for the PPA folios: outside the protected capacity, held by an extent, or in RED's region (13_redundancy.md R383). -/
def Chip.ppaTaken (c : Chip) (e : Extent) : Bool :=
  !e.lent && (e.backing + e.len > c.folioCount
    || c.usedExts.any (fun x => !x.lent && foliosMeet e.backing e.len x.backing x.len)
    || (c.bit rRED_REGION 0 && foliosMeet e.backing e.len (c.get64 rRED_REGION / 2 ^ 21 % 2 ^ 20) 64))

/-- Detail 0x06: a folio that another tenant held last, not CLEAN since. -/
def Chip.ppaForeign (c : Chip) (e : Extent) : Bool :=
  !e.lent && (upTo e.len).any (fun i => match c.folio (e.backing + i) with
    | .clean => false
    | .tenant t => t != e.tenant)

/-- Detail 0x09: whether a PAIR_GROUP counts as configured for an extent (13_redundancy.md R377). -/
def Chip.pairReady (c : Chip) (e : Extent) : Bool :=
  c.bit (groupWord e.pairGroup 0) 31 && c.get (groupWord e.pairGroup 2) 0 20 ≤ e.backing
  && e.backing + e.len ≤ c.get (groupWord e.pairGroup 2) 0 20 + c.get (groupWord e.pairGroup 3) 0 20

def Chip.extMap (c : Chip) (d : Desc) : Chip :=
  let me := c.caller d
  let owner := c.ctx (d.bitsAt 16 48 16)
  let e := mapEntry d owner.tenant
  let h := mapHandle d
  let old := c.extent h
  let slot := c.slot e.keySlot
  match firstFail [
    (owner.valid && c.unbinding owner.tenant, .busyRetry, 0),
    (!(me.mgmt || (me.admin && owner.valid && owner.tenant == me.tenant)) || (me.mgmt && e.keyValid), .rightsFault, 0x01),
    (!owner.valid, .contextFault, 0x02),
    (mapBad d e || e.gen == old.gen, .formatFault, 0x03),
    (old.st == .draining || old.st == .scrubbing, .busyRetry, 0x04),
    (old.st != .free || c.usedExts.any (fun x => foliosMeet e.plaBase e.len x.plaBase x.len) || c.ppaTaken e, .formatFault, 0x05),
    (c.ppaForeign e, .rightsFault, 0x06),
    (e.keyValid && slot.st == .bound && slot.tenant != e.tenant, .rightsFault, 0x07),
    (e.keyValid && slot.st != .bound, .keyRetired, 0x08),
    (e.red && (c.card || !c.pairReady e), .unsupported, 0x09),
    (e.lent && (e.red || e.coh != 0 || e.keyValid || e.tchk != 0 || Nat.land e.rights 28 != 0 || c.card), .unsupported, 0x0A),
    (e.lent && (look c.ext.lenders e.lender.toNat).isNone && c.ext.lenders.length ≥ 1024, .queueFull, 0x0B),
    (c.journalFull, .busyRetry, 0)] with
  | some (st, k) => c.refuse bufExt d st k
  | none =>
    let before := c
    let c := c.writeExt h e
    let c := c.dropElb (fun x => x.handle == h)
    let c := if e.lent then
        (if (look c.ext.lenders e.lender.toNat).isSome then c
          else c.setExt { c.ext with lenders := put c.ext.lenders e.lender.toNat c.esc.bounds })
      else c.writeFolios e.backing e.len (.tenant e.tenant)
    Chip.okayJ before c bufExt d 0

/-! ### Revocation (R76 to R79) -/

/-- Steps 1 and 2 of R77: GEN and STATE written at once; COH scans the extent (09_coherence.md R274). A lent extent is never scrubbed. -/
def Chip.revokeStart (c : Chip) (h : Nat) (scrub : Bool) (d : Option Desc) : Chip :=
  let e := c.extent h
  let scrub := scrub && !e.lent
  let q := c.red.jseq
  let c := c.writeExt h { e with gen := e.gen + 1, st := .draining }
  let c := c.setExt { c.ext with revokes := put c.ext.revokes h { scrub := scrub, desc := d, jseq := q, beat := c.esc.bounds } }
  c.cohRevoke h scrub

def rvHandle (d : Desc) : Nat := d.bitsAt 16 0 18
def rvGen (d : Desc) : Byte := BitVec.ofNat 8 (d.bitsAt 16 18 8)

def Chip.extRevoke (c : Chip) (d : Desc) : Chip :=
  let h := rvHandle d
  let e := c.extent h
  let me := c.caller d
  let eq := rvGen d == e.gen
  let prev := rvGen d == e.gen - 1
  let busy := e.st == .draining && prev
  let done := (e.st == .free || e.st == .scrubbing) && prev
  let go := (e.st == .live || e.st == .held) && eq
  match firstFail [
    (!(d.ctx == e.ownerCtx || me.mgmt || (me.admin && me.tenant == e.tenant)), .rightsFault, 0x0F),
    (!d.zero 16 26 6 || !d.zero 20 1 7 || !d.zero 21 0 344, .formatFault, 0x10),
    (busy, .busyRetry, 0),
    (!done && !go, .extentRevoked, 0),
    (go && c.journalFull, .busyRetry, 0)] with
  | some (st, k) => c.refuse bufExt d st k
  | none => if done then c.okay bufExt d 0 else c.revokeStart h (d.bitsAt 20 0 1 == 1) (some d)

/-- The last ELB has acknowledged (R77 step 2). -/
def Chip.revocationPoint (c : Chip) (h : Nat) : Chip :=
  match look c.ext.revokes h with
  | none => c
  | some rv =>
    let c := c.dropElb (fun x => x.handle == h)
    c.setExt { c.ext with revokes := put c.ext.revokes h { rv with point := true } }

/-- The lender of an extent that has become FREE gets its release notice, and its slot is freed with its last extent (R78, R82). -/
def Chip.releaseLent (c : Chip) (e : Extent) : Chip :=
  if !e.lent then c
  else
    let c := c.emit (.msg { cls := clsRsp, opcode := 0x24, dest := e.lender, src := c.srcNode,
                            addr := BitVec.ofNat 64 (e.backing * 2 ^ 21) } 0)
    if c.usedExts.any (fun x => x.lent && x.lender == e.lender) then c
    else c.setExt { c.ext with lenders := del c.ext.lenders e.lender.toNat }

/-- The PPA lines of an extent. -/
def Extent.ownsLine (e : Extent) (line : Nat) : Bool := !e.lent && e.backing ≤ line / 32768 && line / 32768 < e.backing + e.len

/-- An extent whose drain has ended takes its disposition (R78). Its tile checks are stale (07_operators.md R219). -/
def Chip.dispose (c : Chip) (h : Nat) (scrub : Bool) : Chip :=
  let e := c.extent h
  let c := (c.dropElb (fun x => x.handle == h)).staleExtent e
  if scrub && !e.lent then
    let c := (c.lccDrop (fun x => e.ownsLine x.line)).abortRegions (fun r => r.handle == h)
    let c := c.writeExt h { e with st := .scrubbing }
    c.setInt { c.int with zero := c.int.zero ++ [⟨h, 0⟩] }
  else (c.writeExt h { e with st := .free }).releaseLent e

/-- The counter is zero at or after the revocation point (R77 steps 4 and 5). A counter with a parity error counts as non-zero until
the drain bound. -/
def Chip.drainEnd (c : Chip) (h : Nat) : Chip :=
  match look c.ext.revokes h with
  | none => c
  | some rv =>
    if !rv.point || c.inflight h != 0 || (c.ext.parity.contains h && !rv.bound) then c
    else
      let c := c.setExt { c.ext with revokes := del c.ext.revokes h, parity := c.ext.parity.filter (· != h) }
      let c := match rv.desc with
        | some d => Chip.okayJ (c.atJseq rv.jseq) c bufExt d 0
        | none => c
      c.dispose h rv.scrub

/-- A counted read none of whose lines has been issued to a stack or the partner ends with ABORTED. -/
def Chip.abortReads (c : Chip) (h : Nat) : Chip :=
  ((c.int.reads.filter (fun e => e.2.tgt.handle == h && !e.2.issued)).foldl (fun c e =>
    ((c.setInt { c.int with reads := del c.int.reads e.1 }).answerRead e.2 .aborted [] 0).subInflight h 1) c).panics

/-- A counted write that has been issued to no stack and no partner ends with ABORTED, and its merged lines leave the line cache. -/
def Chip.abortWrites (c : Chip) (h : Nat) : Chip :=
  (c.int.writes.filter (fun e => e.2.tgt.handle == h && !e.2.issued
      && e.2.mirrors.all (fun m => !(look c.red.mirrors m).any (fun x => x.sent)))).foldl (fun c e =>
    let ss := (c.int.stripes.filter (fun o => o.2.write == e.1)).map (fun o => o.2.stripe)
    let c := c.setInt { c.int with writes := del c.int.writes e.1, stripes := delIf c.int.stripes (fun _ o => o.write == e.1) }
    let c := c.setRed { c.red with mirrors := delIf c.red.mirrors (fun _ m => m.write == e.1) }
    let c := c.lccDrop (fun x => ss.contains (x.line / 8))
    (c.answerWrite { e.2 with status := .aborted }).subInflight h 1) c

/-- Coherent transactions that wait for their turn, and non-coherent accesses that wait for snoop answers, end with ABORTED. -/
def Chip.abortTxns (c : Chip) (h : Nat) : Chip :=
  (c.coh.txns.filter (fun e => e.2.tgt.handle == h && e.2.who != .none && (!e.2.started || ((e.2.kind == .read || e.2.kind == .write) && !e.2.asked)))).foldl (fun c e =>
    ((c.setCoh { c.coh with txns := del c.coh.txns e.1 }).subInflight h 1).cohRefuse e.2.who .aborted)
    ((c.coh.front.filter (fun t => t.tgt.handle == h)).foldl (fun c t => (c.subInflight h 1).cohRefuse t.who .aborted)
      (c.setCoh { c.coh with front := c.coh.front.filter (fun t => t.tgt.handle != h) }))

/-- Lent forwards that a test finds struck from their counters (R77, R82); their done notices are discarded. -/
def Chip.strikeLends (c : Chip) (p : Lend → Bool) : Chip :=
  (c.ext.lends.filter p).foldl (fun c l => c.subInflight l.handle 1)
    (c.setExt { c.ext with lends := c.ext.lends.filter (fun l => !p l) })

/-- Partner forwards outstanding for an extent struck: re-reads end without the partner, writes no longer wait for it. -/
def Chip.strikePartner (c : Chip) (h : Nat) : Chip :=
  let c := (c.red.rereads.filter (fun e => e.2.tgt.handle == h)).foldl (fun c e => c.rereadDone e.1 none []) c
  (c.int.writes.filter (fun e => e.2.tgt.handle == h)).foldl (fun c e => e.2.mirrors.foldl (fun c m => c.mirrorDone m) c) c

/-- The drain bound of 2 beats expires (R77 step 5). -/
def Chip.drainBound (c : Chip) (h : Nat) : Chip :=
  match look c.ext.revokes h with
  | none => c
  | some rv =>
    if rv.bound || !c.expired rv.beat 2 then c
    else
      let c := c.setExt { c.ext with revokes := put c.ext.revokes h { rv with bound := true } }
      let c := if c.ext.parity.contains h then c.report { cls := .counterParity, blk := .ext } else c
      let c := ((c.abortReads h).abortWrites h).abortTxns h
      let c := c.abortRegions (fun r => r.handle == h)
      (((c.strikeLends (fun l => l.handle == h)).strikePartner h).cohStrike h).cohPump

/-! ### Release (R81) -/

def Chip.extRelease (c : Chip) (d : Desc) : Chip :=
  let h := rvHandle d
  let e := c.extent h
  let me := c.caller d
  match firstFail [
    (!(d.ctx == e.ownerCtx || (me.admin && me.tenant == e.tenant)), .rightsFault, 0x0F),
    (!d.zero 16 26 6 || !d.zero 20 0 352, .formatFault, 0x10),
    (rvGen d != e.gen || (e.st != .held && e.st != .live), .extentRevoked, 0),
    (e.st == .held && c.journalFull, .busyRetry, 0)] with
  | some (st, k) => c.refuse bufExt d st k
  | none =>
    if e.st == .live then c.okay bufExt d 0
    else Chip.okayJ c ((c.writeExt h { e with st := .live }).dropElb (fun x => x.handle == h)) bufExt d 0

/-! ### Entries without a majority (R375) -/

/-- The entry as the image and the records after it give it. -/
def Chip.savedExt (c : Chip) (x : CkptImage) (h : Nat) : Extent :=
  c.red.journal.foldl (fun a r => match r.entry with | .extent k e => if k = h then e else a | _ => a) (lookD x.dir h {})
def Chip.savedCtx (c : Chip) (x : CkptImage) (n : Nat) : CtxE :=
  c.red.journal.foldl (fun a r => match r.entry with | .context k e => if k = n then e else a | _ => a) (lookD x.ctxs n (ctxDefault n))
def Chip.savedSlot (c : Chip) (x : CkptImage) (n : Nat) : SlotE :=
  c.red.journal.foldl (fun a r => match r.entry with | .slot k e => if k = n then e else a | _ => a) (lookD x.slots n {})

/-- The state an extent takes from its logic-die copy. A lent extent is never scrubbed (R78). -/
def Chip.rebuildExt (c : Chip) (h : Nat) : Chip :=
  let e := (c.extTri h).a.val
  match e.st with
  | .free => c.writeExt h e
  | .live | .held => c.writeExt h { e with st := .held }
  | _ =>
    let desc := (look c.ext.revokes h).bind (fun r => r.desc)
    let c := c.setExt { c.ext with revokes := del c.ext.revokes h }
    let c := match desc with
      | some d => c.okay bufExt d 0
      | none => c
    if e.lent then (c.writeExt h { e with gen := e.gen + 1, st := .free }).releaseLent e
    else
      let c := (c.staleExtent e).writeExt h { e with gen := e.gen + 1, st := .scrubbing }
      if c.int.zero.any (fun j => j.handle == h) then c else c.setInt { c.int with zero := c.int.zero ++ [⟨h, 0⟩] }

def Chip.entryRebuild (c : Chip) (kind n : Nat) : Chip :=
  if !c.ext.rebuild.contains (kind, n) then c
  else
    let c := (c.setExt { c.ext with rebuild := c.ext.rebuild.filter (· != (kind, n)) }).bump rRED_VOTE_NOMAJ 1
    let saved := if c.bit rRED_STATUS 1 then c.red.header else none
    let c := match saved, kind with
      | some x, 0 => c.putExt n (c.savedExt x.image n)
      | some x, 1 => c.putCtx n (c.savedCtx x.image n)
      | some x, _ => c.putSlot n (c.savedSlot x.image n)
      | none, 0 => c.rebuildExt n
      | none, 1 => (c.writeCtx n {}).ringsCheck n
      | none, _ => c.writeSlot n { (c.slotTri n).a.val with st := .retiring }
    let c := c.dropElb (fun x => (kind == 0 && x.handle == n) || (kind == 1 && x.ctx == n))
    if saved.isNone then c.report { cls := .vote, blk := .red, sev := some 1 } else c

/-! ### Lenders (R82) -/

/-- A lender reclaims the extents that start at an address of its memory. A malformed RECLAIM is answered by RELEASE with FORMAT_FAULT, and
one that finds the core in reset with BUSY_RETRY (10_fabric.md R294, R319); in QUIESCE it is a REQ like any other
(15_reset_clocks_power.md R453). -/
def Chip.reclaim (c : Chip) (m : Msg) : Chip :=
  if c.stopped then c
  else
    let c := c.wake
    if c.badMsg m then c.discardMsg m
    else if c.coreHeld || c.quiesced then c.sendRefusal m .busyRetry c.beatUs 0
    else
      (c.usedHandles.filter (fun h =>
          let e := c.extent h
          e.lent && e.lender == m.src && e.backing * 2 ^ 21 == m.addr.toNat && (e.st == .live || e.st == .held))).foldl
        (fun c h => c.revokeStart h false none) c

/-- A lender is lost: one fault record per extent of it, its LIVE extents HELD, its forwards struck. -/
def Chip.lenderLoss (c : Chip) (node : NodeId) (why : LossCause) : Chip :=
  let holds := match why with
    | .noRoute => !c.hasRoute node
    | .heartbeat => (look c.ext.lenders node.toNat).any (fun b => c.expired b c.heartbeatLimit)
    | .unanswered => false
  if !holds then c
  else
    let hs := c.usedHandles.filter (fun h => (c.extent h).lent && (c.extent h).lender == node)
    let c := hs.foldl (fun c h =>
      let e := c.extent h
      (c.holdExtent h).fault { status := .extentHeld, ctx := e.ownerCtx, kind := 5, addr := e.plaBase * 2 ^ 21, node := node.toNat,
                               handle := h, count := 1 } |>.1) c
    c.strikeLends (fun l => l.lender == node)

/-! ### Meanings -/

def execCtxSet (d : Desc) (s : State) : Host.Outcome State Fault Refusal :=
  .next { s with chip := s.chip.live .ext (fun c => c.ctxSet d) }

def execCtxClear (d : Desc) (s : State) : Host.Outcome State Fault Refusal :=
  .next { s with chip := s.chip.live .ext (fun c => c.ctxClear d) }

def execCtxChangePoint (ctx : Nat) (s : State) : Host.Outcome State Fault Refusal :=
  .next { s with chip := s.chip.live .ext (fun c => c.ctxPoint ctx) }

def execExtMap (d : Desc) (s : State) : Host.Outcome State Fault Refusal :=
  .next { s with chip := s.chip.live .ext (fun c => c.extMap d) }

def execExtRevoke (d : Desc) (s : State) : Host.Outcome State Fault Refusal :=
  .next { s with chip := s.chip.live .ext (fun c => c.extRevoke d) }

def execRevocationPoint (handle : Nat) (s : State) : Host.Outcome State Fault Refusal :=
  .next { s with chip := s.chip.live .ext (fun c => c.revocationPoint handle) }

def execDrainEnd (handle : Nat) (s : State) : Host.Outcome State Fault Refusal :=
  .next { s with chip := s.chip.live .ext (fun c => c.drainEnd handle) }

def execDrainBoundExpiry (handle : Nat) (s : State) : Host.Outcome State Fault Refusal :=
  .next { s with chip := s.chip.live .ext (fun c => c.drainBound handle) }

def execExtRelease (d : Desc) (s : State) : Host.Outcome State Fault Refusal :=
  .next { s with chip := s.chip.live .ext (fun c => c.extRelease d) }

def execDirectoryWalk (elb ctx pla : Nat) (s : State) : Host.Outcome State Fault Refusal :=
  .next { s with chip := s.chip.live .ext (fun c => (c.walk elb ctx pla).1) }

def execEntryRebuild (kind index : Nat) (s : State) : Host.Outcome State Fault Refusal :=
  .next { s with chip := s.chip.live .red (fun c => c.entryRebuild kind index) }

def execReclaim (_link : Nat) (m : Msg) (s : State) : Host.Outcome State Fault Refusal :=
  .next { s with chip := s.chip.reclaim m }

def execLenderLoss (node : NodeId) (why : LossCause) (s : State) : Host.Outcome State Fault Refusal :=
  .next { s with chip := s.chip.live .ext (fun c => c.lenderLoss node why) }

end Sys2Proof.Machine
end

