-- ==== Sys2Proof/Machine/Redundancy.lean ====
section
/-! DEFINITION. RED: journal and checkpoint, pair groups, resync, restore, takeover, rebuild, voted active copies
(13_redundancy.md R376 to R395). -/

namespace Sys2Proof.Machine

/-! ### Enabling (R386) -/

/-- A write of RED_CTL.ENABLE. While it is 0 no journal is kept and there is no valid header (DEDUCED, log 22). The checkpoint that
starts the journal begins at the next boundary. -/
def Chip.redEnable (c : Chip) (on : Bool) : Chip :=
  if on then c.setBit rRED_CTL 0 true
  else ((c.setBit rRED_CTL 0 false).setBit rRED_STATUS 1 false).setRed
    { c.red with journaling := false, header := none, ckpt := none, ckptTxns := [], deferred := false }

/-! ### Pair groups (R377, R381, R382) -/

/-- Whether a group's entry is VALID. -/
def Chip.groupOn (c : Chip) (g : Nat) : Bool := g < 4096 && c.bit (groupWord g 0) 31

/-- VALID cleared, or refused while an extent that is not FREE names the group. -/
def Chip.groupClear (c : Chip) (g : Nat) : Chip :=
  if !c.groupOn g then c
  else if c.usedExts.any (fun e => e.red && e.pairGroup == g) then c.setBit rRED_STATUS 5 true
  else ((c.setBit (groupWord g 0) 31 false).setRed { c.red with resyncs := c.red.resyncs.filter (fun r => r.group != g) }).journalGroup g

/-- Whether a cause makes the partner of a group lost, as the package's own state shows it. -/
def Chip.partnerGone (c : Chip) (g : Nat) (why : LossCause) : Bool :=
  match why with
  | .noRoute => !c.hasRoute (BitVec.ofNat 24 (c.get (groupWord g 0) 0 24))
  | _ => c.red.mirrors.any (fun e => e.2.group == g && (e.2.sent || e.2.retryAt.isSome) && c.expired e.2.firstBeat c.heartbeatLimit)

def Chip.partnerLoss (c : Chip) (g : Nat) (why : LossCause) : Chip :=
  if c.groupOn g && c.partnerGone g why then c.soloGroup g else c

/-- A mirror write answered with BUSY_RETRY is sent again, unchanged, once its retry time has passed. -/
def Chip.mirrorRetry (c : Chip) (id : Nat) : Chip :=
  match look c.red.mirrors id with
  | none => c
  | some m =>
    match m.retryAt with
    | none => c
    | some t =>
      if c.esc.now < t then c
      else (c.putMirror id { m with retryAt := none, sent := true }).emit (.msg (c.mirrorMsg id m) 0)

/-- The stored bytes of the eight data lines of a stripe, recovered where they can be. -/
def Chip.stripeData (c : Chip) (stripe : Nat) : List Byte :=
  let dec := decodeStripe (c.stripeViews stripe)
  (upTo 8).flatMap (fun d => (dec.getD d []).map (·.1))

/-- A piece of 4 KiB of a folio's stored lines read, charged to port 29, and written to the partner; it waits behind an earlier write of the same
line. -/
def Chip.sendPiece (c : Chip) (g folio i : Nat) : Chip × Nat :=
  let line := folio * 32768 + 64 * i
  let data := (upTo 8).flatMap (fun k => c.stripeData (line / 8 + k))
  let (id, c) := (c.charge 29 4096).redTxn
  (c.putMirror id ⟨g, line, data, 0, c.esc.bounds, false, none⟩, id)

/-- The next pieces of a folio, as the beat's grant for RED allows (R382; 12_integrity.md R362). -/
def Chip.sendFolio (c : Chip) (r : Resync) : Chip :=
  let n := min (512 - r.next) (c.int.rebuildGrant / 4096)
  let (c, ids) := (upTo n).foldl (fun (a : Chip × List Nat) i =>
    let (c, id) := a.1.sendPiece r.group r.folio (r.next + i)
    (c, a.2 ++ [id])) (c, [])
  let c := c.setInt { c.int with rebuildGrant := c.int.rebuildGrant - 4096 * n }
  (c.setRed { c.red with resyncs := c.red.resyncs.map (fun x =>
    if x.group == r.group && x.folio == r.folio then { x with next := r.next + n, outstanding := r.outstanding ++ ids } else x) }).sendMirrors

/-- A group's copy goes on, one folio at a time (DESIGN CHOICE, log 22); after the last folio the group is PAIRED. -/
def Chip.nextResync (c : Chip) (g : Nat) : Chip :=
  if c.groupPair g != 2 then c
  else match c.red.resyncs.find? (fun r => r.group == g) with
  | some r => c.sendFolio r
  | none => c.setGroupPair g 0

/-- The copies of every group go on. -/
def Chip.pumpResyncs (c : Chip) : Chip := ((c.red.resyncs.map (fun r => r.group)).dedup).foldl (fun c g => c.nextResync g) c

/-- The window of a group. -/
def Chip.windowLo (c : Chip) (g : Nat) : Nat := c.get (groupWord g 2) 0 20
def Chip.windowLen (c : Chip) (g : Nat) : Nat := c.get (groupWord g 3) 0 20
def Chip.inPair (c : Chip) (g folio : Nat) : Bool := c.windowLo g ≤ folio && folio < c.windowLo g + c.windowLen g

/-- RESYNC written: 1 copies the window's dirty folios, 2 marks every folio of the window first. -/
def Chip.resync (c : Chip) (g : Nat) (all : Bool) : Chip :=
  if !c.groupOn g || !c.bit rRED_CTL 0 then c
  else
    let c := if all then (upTo (c.windowLen g)).foldl (fun c i => c.markDirty (c.windowLo g + i)) c else c
    let c := c.setGroupPair g 2
    let todo := (c.red.dirty.filter (fun f => c.inPair g f)).filter
      (fun f => !c.red.resyncs.any (fun r => r.group == g && r.folio == f))
    (c.setRed { c.red with resyncs := c.red.resyncs ++ todo.map (fun f => ⟨g, f, 0, []⟩) }).nextResync g

/-- The last line of a copied folio is acknowledged: its dirty bit clears, and the group is PAIRED after the last folio. -/
def Chip.resyncDone (c : Chip) (g folio : Nat) : Chip :=
  if c.red.resyncs.any (fun r => r.group == g && r.folio == folio && r.next == 512
      && r.outstanding.all (fun id => (look c.red.mirrors id).isNone)) then
    (c.setRed { c.red with resyncs := c.red.resyncs.filter (fun r => !(r.group == g && r.folio == folio)),
                           dirty := c.red.dirty.filter (· != folio) }).nextResync g
  else c

/-! ### Entries of a restored table (R64, R384, R385, R388, R391) -/

/-- An extent entry from its bits. -/
def Extent.ofBits (x : Nat) : Extent :=
  let lent := bitOf x 164
  let st : ExtSt := match bitsOf x 161 3 with | 1 => .live | 2 => .draining | 3 => .held | 4 => .scrubbing | _ => .free
  { plaBase := bitsOf x 0 27, len := bitsOf x 27 20, ownerCtx := bitsOf x 48 16, backing := bitsOf x 64 (if lent then 27 else 20),
    lender := if lent then BitVec.ofNat 24 (bitsOf x 91 24) else 0, rights := bitsOf x 128 5, gen := BitVec.ofNat 8 (bitsOf x 136 8),
    keySlot := bitsOf x 144 10, keyValid := bitOf x 154, red := bitOf x 155, coh := bitsOf x 156 2, tchk := bitsOf x 158 2,
    spec := bitOf x 160, st := st, lent := lent, tenant := bitsOf x 166 10, pairGroup := bitsOf x 176 12,
    lenderCtx := if lent then bitsOf x 192 16 else 0 }

/-- A key slot's entry from its bits. -/
def SlotE.ofBits (x : Nat) : SlotE :=
  { st := match bitsOf x 0 2 with | 1 => .bound | 2 => .awaiting | 3 => .retiring | _ => .free, tenant := bitsOf x 2 10,
    kcv := BitVec.ofNat 64 (bitsOf x 64 64) }

/-- A table's image with one record applied (R385): it holds whole entries. -/
def CkptImage.apply (x : CkptImage) (e : JEntry) : CkptImage :=
  match e with
  | .extent h v => { x with dir := put x.dir h v }
  | .context n v => { x with ctxs := put x.ctxs n v }
  | .slot n v => { x with slots := put x.slots n v }
  | .folio f n v => { x with folios := (upTo n).foldl (fun m i =>
      if v = x.folioDefault then del m (f + i) else put m (f + i) v) x.folios }
  | .group n ws => { x with groups := ws.zipIdx.foldl (fun m w => put m (groupWord n w.2) w.1) x.groups }

/-- The record that a partner's bytes hold; other kinds are reserved. -/
def wireEntry (r : WireRec) : Option JEntry :=
  match r.kind with
  | 1 => some (.extent r.index (Extent.ofBits r.entry.toNat))
  | 2 => some (.context r.index (CtxE.ofBits r.entry.toNat))
  | 3 => some (.slot r.index (SlotE.ofBits r.entry.toNat))
  | 4 => some (.folio r.index r.count (match r.mark with | some t => .tenant t | none => .clean))
  | 5 => some (.group r.index ((upTo 8).map (fun k => BitVec.ofNat 32 (bitsOf r.entry.toNat (32 * k) 32))))
  | _ => none

/-- Records applied in order from a sequence number, up to the first gap or failing CRC (R388): the tables, and the sequence number that
follows the last record applied. -/
def applyRecs : List (Quad × Bool × Option JEntry) → Quad → CkptImage → CkptImage × Quad
  | [], n, x => (x, n)
  | (q, ok, e) :: r, n, x =>
    if q = n && ok then
      match e with
      | some j => applyRecs r (n + 1) (x.apply j)
      | none => (x, n)
    else (x, n)

/-- The package's own region: the current header's image, and the records after it that the stacks hold. A record counts as failing
while the stacks have not acknowledged it. -/
def Chip.localRestore (c : Chip) (h : Header) : CkptImage × Quad :=
  applyRecs ((c.red.journal.filter (fun r => h.jseq.toNat ≤ r.jseq.toNat)).map (fun r => (r.jseq, r.stored, some r.entry))) h.jseq h.image
def Chip.localTables (c : Chip) (h : Header) : CkptImage := (c.localRestore h).1

/-- The tables as a partner's copy gives them. -/
def restoredTables (r : Restored) : CkptImage :=
  let fol (x : Option Nat) : Folio := match x with | some t => .tenant t | none => .clean
  let x : CkptImage := { dir := r.dir.map (fun e => (e.1, Extent.ofBits e.2.toNat)), ctxs := r.ctxs.map (fun e => (e.1, CtxE.ofBits e.2.toNat)),
                         slots := r.slots.map (fun e => (e.1, SlotE.ofBits e.2.toNat)), folios := r.folios.map (fun e => (e.1, fol e.2)),
                         folioDefault := fol r.folioDefault, groups := r.groups }
  (applyRecs (r.records.map (fun w => (w.jseq, w.crcOk, wireEntry w))) r.jseq x).1

/-- The tables loaded as they stand in an image: one write of each copy. -/
def Chip.loadTables (c : Chip) (x : CkptImage) : Chip :=
  let c := c.setExt { c.ext with dir := x.dir.foldl (fun m e => put m e.1 (Tri.of e.2)) [],
                                 ctxs := x.ctxs.foldl (fun m e => put m e.1 (Tri.of e.2)) [], folios := x.folios, folioDefault := x.folioDefault }
  let slots := x.slots.foldl (fun (m : NMap (Tri SlotE)) (e : Nat × SlotE) =>
    put m e.1 (Tri.of (if e.2.st == .free then e.2 else { e.2 with st := .awaiting }))) []
  let c := { c with slots := slots }
  x.groups.foldl (fun c e => c.setWord e.1 e.2) { c with regs := delIf c.regs (fun o _ => rRED_GROUP ≤ o && o < 0x1140000) }

/-- The state that a restored extent takes (R391). A lent extent that was DRAINING becomes FREE, another SCRUBBING: the table does not
hold the disposition (DESIGN CHOICE, log 22). -/
def Chip.restoreExt (c : Chip) (takeover : Bool) (h : Nat) : Chip :=
  let e := c.extent h
  let zero (c : Chip) : Chip := (c.staleExtent e).setInt { (c.staleExtent e).int with zero := c.int.zero ++ [⟨h, 0⟩] }
  match e.st with
  | .free => c
  | .scrubbing => zero c
  | .draining =>
    let c := c.setExt { c.ext with revokes := del c.ext.revokes h }
    if e.lent then (c.writeExt h { e with st := .free }).releaseLent e else zero (c.writeExt h { e with st := .scrubbing })
  | _ =>
    if e.lent then
      let c := c.writeExt h { e with st := .held }
      if (look c.ext.lenders e.lender.toNat).isSome then c
      else c.setExt { c.ext with lenders := put c.ext.lenders e.lender.toNat c.esc.bounds }
    else if e.red then
      let c := if e.coh = 1 then c.writeExt h { e with st := .held } else c
      c.setRed { c.red with rebuilding := (c.red.rebuilding ++ [(h, e.backing * 4096)]).mergeSort (fun a b => a.2 ≤ b.2) }
    else if takeover then
      zero ((c.writeExt h { e with gen := e.gen + 1, st := .scrubbing }).report
        { cls := .readLost, blk := .int, addr := e.plaBase * 2 ^ 21, ctx := some e.ownerCtx, tenant := e.tenant, count := e.len })
    else if e.coh = 1 then c.writeExt h { e with st := .held }
    else c

def Chip.restoreStates (c : Chip) (takeover : Bool) : Chip := c.handles.foldl (fun c h => c.restoreExt takeover h) c

/-- After S reset (R388): the local image and journal, and READY. Without a header nothing is restored, and every folio is marked as last
held by tenant 0 (R386). -/
def Chip.tableRestore (c : Chip) : Chip :=
  if c.bit rRED_STATUS 0 then c
  else
    let c := match c.red.header with
      | some h => if c.bit rRED_REGION 0 then
          let next := (c.localRestore h).2
          let c := (((c.loadTables (c.localTables h)).restoreStates false).set64 0x1100040 h.beat.toNat).oweRed
            (8192 + 11157504 + 64 * c.red.journal.length)
          c.setRed { c.red with jseq := next,
                                journal := c.red.journal.filter (fun r => h.jseq.toNat ≤ r.jseq.toNat && r.jseq.toNat < next.toNat) }
        else c
      | none => c
    c.setBit rRED_STATUS 0 true

/-! ### Takeover (R389) -/

def Chip.restoreState (c : Chip) (n : Nat) : Chip := c.set rRED_STATUS 2 2 n

/-- An RD to the checkpoint partner of the package that is taken over. -/
def Chip.restoreRead (c : Chip) (off : Nat) : Chip :=
  let (t, c) := c.redTxn
  let src := c.get64 0x1100028
  c.emit (.msg
    { cls := clsReq, opcode := 0x01, dest := BitVec.ofNat 24 src, src := c.srcNode, txn := BitVec.ofNat 16 t,
      ctx := BitVec.ofNat 16 (src / 2 ^ 24), addr := BitVec.ofNat 64 (c.get64 0x1100030 % 2 ^ 48 + off), bytes := 64 } 0)

/-- START written: the restore runs, and both headers are asked of the partner (R389 step 2). -/
def Chip.restoreStart (c : Chip) : Chip :=
  if !c.bit rRED_CTL 0 || c.get rRED_STATUS 2 2 = 1 then c else ((c.restoreState 1).restoreRead 0).restoreRead 0x1000

/-- What the restore read has been applied, or it failed. -/
def Chip.restoreDone (c : Chip) (r : Option Restored) : Chip :=
  if c.get rRED_STATUS 2 2 != 1 then c
  else match r with
    | none => c.restoreState 3
    | some x =>
      if x.code != c.get 0x0 24 2 || !x.imageOk then c.restoreState 3
      else
        let c := ((c.loadTables (restoredTables x)).restoreStates true).restoreState 2
        (c.dropElb (fun _ => true)).setBit rRED_STATUS 0 true

/-! ### Rebuild (R392) -/

/-- The next stripe of the extent being rebuilt asked of the partner, under the stripe's lock, while the beat's grant allows another. -/
def Chip.rebuildAsk (c : Chip) : Chip :=
  match c.red.rebuilding with
  | [] => c
  | (h, next) :: _ =>
    let g := (c.extent h).pairGroup
    if c.red.fetch.isSome || c.groupPair g = 1 || !c.bit rRED_CTL 0 || c.int.rebuildGrant < 640 then c
    else
      let (c, free) := c.mayLock [next]
      if !free then c
      else
        let (t, c) := c.redTxn
        (c.setRed { c.red with fetch := some next }).emit (.msg
          { cls := clsReq, opcode := 0x01, dest := BitVec.ofNat 24 (c.get (groupWord g 0) 0 24), src := c.srcNode,
            txn := BitVec.ofNat 16 t, ctx := BitVec.ofNat 16 (c.get (groupWord g 1) 0 16),
            addr := BitVec.ofNat 64 (c.mirrorPla g (next * 8)), bytes := 512 } 0)

/-- The eight data lines of the stripe that the partner was asked for, as it gave them, written as a full stripe. -/
def Chip.rebuildStripe (c : Chip) (stripe : Nat) (lines : List (List Byte)) : Chip :=
  match c.red.rebuilding with
  | [] => c
  | (h, next) :: rest =>
    let e := c.extent h
    if c.red.fetch != some stripe || stripe != next || c.groupPair e.pairGroup = 1 || c.int.rebuildGrant < 640 || !c.mayAccess 29
      || lines.length != 8 || lines.any (fun l => l.length != 64) then c
    else
      let chgs := lines.zipIdx.map (fun l => (⟨l.2, l.1, allOn 64, false⟩ : LineChg))
      let (c, _) := c.writeStripe 29 stripe chgs
      let c := c.lccDrop (fun x => x.line / 8 == stripe)
      let t : Target := { ({ ctx := e.ownerCtx, handle := h, c := {}, e := e } : ElbE).target (e.plaBase * 2 ^ 21 + (stripe * 512 - e.backing * 2 ^ 21)) with handle := h }
      let c := if stripe % 8 = 7 then c.markStale 29 { t with ppa := stripe / 8 * 4096 } 4096 else c
      let done := next + 1 == (e.backing + e.len) * 4096
      ((c.setInt { c.int with rebuildGrant := c.int.rebuildGrant - 640 }).setRed
        { c.red with rebuilding := if done then rest else (h, next + 1) :: rest, fetch := none }).rebuildAsk

/-! ### Voted active copies (R376) -/

def Chip.rewriteActive (c : Chip) (off : Nat) : Chip :=
  match look c.act off with
  | some v => { c with act := put c.act off ⟨v.majority, v.majority, v.majority⟩ }
  | none => c

/-! ### Answers to RED's own requests (R379, R381, R386, R387) -/

/-- A journal or image write answered: sent again on BUSY_RETRY, otherwise acknowledged (DESIGN CHOICE, log 22). -/
def Chip.journalAnswer (c : Chip) (txn : Nat) (q : Quad) (busy : Bool) : Chip :=
  let c := c.setRed { c.red with jtxns := del c.red.jtxns txn }
  if busy then
    match c.red.journal.find? (fun r => r.jseq == q) with
    | some r =>
      let (c, t) := c.ckptWrite (0x4000000 + q.toNat % 2 ^ 20 * 64) r.bytes
      c.setRed { c.red with jtxns := put c.red.jtxns t q }
    | none => c
  else c.ackJournal q true

def Chip.imageAnswer (c : Chip) (txn i : Nat) (busy : Bool) : Chip :=
  let c := c.setRed { c.red with ckptTxns := del c.red.ckptTxns txn }
  match busy, c.red.ckpt with
  | true, some h =>
    let (c, t) := c.ckptWrite (imageAt h.seq + 4096 * i) (slice h.image.bytes (4096 * i) 4096)
    c.setRed { c.red with ckptTxns := put c.red.ckptTxns t i }
  | _, _ => c

/-- WR_ACK for one of RED's writes. -/
def Chip.redAck (c : Chip) (m : Msg) : Chip :=
  let t := m.txn.toNat
  let busy := m.status.toNat == Status.busyRetry.code
  match look c.red.mirrors t with
  | some x =>
    if m.status = 0 then c.mirrorDone t
    else if busy then c.putMirror t { x with retryAt := some (c.esc.now + m.info.toNat * 1250) }
    else c.soloGroup x.group
  | none =>
    match look c.red.jtxns t with
    | some q => c.journalAnswer t q busy
    | none =>
      match look c.red.ckptTxns t with
      | some i => c.imageAnswer t i busy
      | none => c

/-- A record acknowledged by the local stacks, or by the partner. -/
def Chip.jrecAck (c : Chip) (q : Quad) (partner : Bool) : Chip :=
  if !partner && c.red.owed != 0 then c else
  (if partner then c.setRed { c.red with jtxns := delIf c.red.jtxns (fun _ x => x == q) } else c).ackJournal q partner

/-! ### Meanings -/

def execRedEnable (who : Who) (val : Word) (s : State) : Host.Outcome State Fault Refusal :=
  .next { s with chip := s.chip.regCmd who rRED_CTL (fun c => c.redEnable (bitOf val.toNat 0)) }

def execRedGroupClear (who : Who) (group : Nat) (s : State) : Host.Outcome State Fault Refusal :=
  .next { s with chip := s.chip.regCmd who (groupWord group 0) (fun c => c.groupClear group) }

def execPartnerLoss (group : Nat) (why : LossCause) (s : State) : Host.Outcome State Fault Refusal :=
  .next { s with chip := s.chip.live .red (fun c => c.partnerLoss group why) }

def execMirrorRetry (id : Nat) (s : State) : Host.Outcome State Fault Refusal :=
  .next { s with chip := s.chip.live .red (fun c => c.mirrorRetry id) }

def execResyncDirty (who : Who) (group : Nat) (s : State) : Host.Outcome State Fault Refusal :=
  .next { s with chip := s.chip.regCmd who (groupWord group 0) (fun c => c.resync group false) }

def execResyncAll (who : Who) (group : Nat) (s : State) : Host.Outcome State Fault Refusal :=
  .next { s with chip := s.chip.regCmd who (groupWord group 0) (fun c => c.resync group true) }

def execResyncFolioDone (group folio : Nat) (s : State) : Host.Outcome State Fault Refusal :=
  .next { s with chip := s.chip.live .red (fun c => c.resyncDone group folio) }

def execJournalAck (jseq : Quad) (fromPartner : Bool) (s : State) : Host.Outcome State Fault Refusal :=
  .next { s with chip := s.chip.live .red (fun c => c.jrecAck jseq fromPartner) }

def execCheckpointHeader (s : State) : Host.Outcome State Fault Refusal :=
  .next { s with chip := s.chip.live .red (fun c => c.writeHeader) }

def execRestoreStart (who : Who) (s : State) : Host.Outcome State Fault Refusal :=
  .next { s with chip := s.chip.regCmd who 0x1100038 (fun c => c.restoreStart) }

def execRestoreDone (r : Option Restored) (s : State) : Host.Outcome State Fault Refusal :=
  .next { s with chip := s.chip.live .red (fun c => c.restoreDone r) }

def execRebuildStripe (stripe : Nat) (lines : List (List Byte)) (s : State) : Host.Outcome State Fault Refusal :=
  .next { s with chip := s.chip.live .int (fun c => c.rebuildStripe stripe lines) }

def execActiveCopyRewrite (off : Nat) (s : State) : Host.Outcome State Fault Refusal :=
  .next { s with chip := if s.chip.stopped then s.chip else s.chip.rewriteActive off }

end Sys2Proof.Machine
end

