-- ==== Sys2Proof/Machine/Stacks.lean ====
section
/-! DEFINITION. The stacks: refresh, temperature, training, failure, self-refresh; INT's own work: scrub, zeroing, self-test
(11_memory_stacks.md R330 to R347; 12_integrity.md R358 to R371). -/

namespace Sys2Proof.Machine

/-! ### State of a stack (R348) -/

def Chip.setStkState (c : Chip) (k n : Nat) : Chip := c.set (stkReg k 4) 0 3 n
def stkOff : Nat := 0
def stkSelf : Nat := 3
def stkFailed : Nat := 4

/-! ### Temperature (R340) -/

/-- A reading of a stack's temperature. In self-refresh AON sets only the stack's own rate (R346). -/
def Chip.tempRead (c : Chip) (k temp : Nat) : Chip :=
  if c.stkState k = stkSelf then
    if temp > 85 then c.putStk k { c.stkOf k with fast := true } else if temp < 80 then c.putStk k { c.stkOf k with fast := false } else c
  else
    let c := c.set (stkReg k 8) 0 8 (min temp 255)
    if temp > 85 then (c.setBit (stkReg k 4) 3 true).setBit (stkReg k 4) 5 true
    else if temp < 80 then (c.setBit (stkReg k 4) 3 false).setBit (stkReg k 4) 5 false
    else c

/-! ### Failure (R344, R358) -/

/-- The groups' states in INT_STATUS; a change is reported. -/
def Chip.showGroup (c : Chip) (g : Nat) : Chip :=
  let st := c.groupState g
  if c.get rINT_STATUS (1 + 2 * g) 2 = st then c
  else (c.set rINT_STATUS (1 + 2 * g) 2 st).report
    { cls := .groupState, blk := .int, inst := g, status := some (if st = 3 then .dataLost else .ok) }

/-- A stack marked FAILED: its queued reads go to their stripes, and its queued writes are lost with it. -/
def Chip.failStack (c : Chip) (k : Nat) : Chip :=
  if c.stackFailed k then c
  else
    let c := ((c.setStkState k stkFailed).setBit (stkReg k 4) 4 false).setBit rINT_STATUS (5 + k) true
    let c := c.report { cls := .stackFailed, blk := .stk k, inst := k, addr := k * 2 ^ 37 }
    let f (l : LineRd) : LineRd :=
      if (l.st == .issued || l.st == .held || l.st == .waiting) && (linePlace l.line).1 == k then { l with st := .failed, lat := l.lat + 122 } else l
    let g (r : ReadOp) : ReadOp := { r with lines := r.lines.map f, issued := r.issued || r.lines.any (fun l => f l != l) }
    let c := c.setInt { c.int with reads := mapVals c.int.reads (fun _ r => g r) }
    let s := c.stkOf k
    ((c.putStk k { s with rows := [], predicted := [], debt := [], wq := [], drain := [], force := [],
                          pause := { s.pause with running := false } }).panics).showGroup (k / 10)

/-! ### Training (R342 to R344) -/

/-- A pause ends. A failure is retried at the next three boundaries; the fourth marks the stack FAILED. -/
def Chip.pauseEnd (c : Chip) (k : Nat) (ok : Bool) : Chip :=
  let s := c.stkOf k
  if !s.pause.running then c
  else
    let c := c.setBit (stkReg k 4) 4 false
    if ok then c.putStk k { s with pause := ⟨(s.pause.channel + 1) % 32, 0, 0, false⟩ }
    else if s.pause.retries ≥ 3 then
      ((c.putStk k { s with pause := { s.pause with running := false } }).bump (stkReg k 0x20) 1).failStack k
    else c.putStk k { s with pause := { s.pause with running := false, retries := s.pause.retries + 1 } }

/-- Whether a channel holds a class 2 request (R333). -/
def Chip.urgentOn (c : Chip) (k ch : Nat) : Bool :=
  (c.queued k (fun l => channelOf l == ch)).any (fun x => x.cls == 2)

/-- What B+2 of a beat does to a stack's training (R343): `duePos` counts 32 for each beat, and a pause is due for each TRAIN_PERIOD in
it, so that every channel has one turn in a period (DEDUCED, log 23). -/
def Chip.startPause (c : Chip) (k : Nat) : Chip :=
  if c.stkState k != stkReady || !c.bit (stkReg k 0) 1 || c.quiesced then c
  else
    let s := c.stkOf k
    let period := c.get (stkReg k 0xC) 0 8
    let pos := min (s.duePos + 32) (period + 31)
    let go (c : Chip) (pos : Nat) : Chip :=
      (c.putStk k { s with duePos := pos, pause := { s.pause with running := true, deferrals := 0 } }).setBit (stkReg k 4) 4 true
    if s.pause.running then c.putStk k { s with duePos := pos }
    else if 0 < s.pause.retries then go c pos
    else if s.pause.deferrals = 0 && pos < period then c.putStk k { s with duePos := pos }
    else if s.pause.deferrals < 4 && c.urgentOn k s.pause.channel then
      (c.putStk k { s with duePos := if s.pause.deferrals = 0 then pos - period else pos,
                           pause := { s.pause with deferrals := s.pause.deferrals + 1 } }).bump (stkReg k 0x18) 1
    else go c (if s.pause.deferrals = 0 then pos - period else pos)

/-! ### Rows, urgency, promotion (R330, R333, R334) -/

/-- A row without a request for 64 STKCLK cycles (67 of CORECLK) is closed; a predicted one that nothing has used is charged to port 25. -/
def Chip.rowIdle (c : Chip) (k bank : Nat) : Chip :=
  let s := c.stkOf k
  if (look s.rows bank).isNone || (look s.seen bank).any (fun t => decide (c.esc.now < t + 67)) then c
  else
    let unused := s.predicted.contains bank
    let c := c.closeRow k bank
    if unused then c.charge 25 64 else c

/-- A request reaches a level of urgency; at level 4 T has passed, which is counted, and it stays at urgency 3. -/
def Chip.urgentLate (c : Chip) (k level : Nat) : Chip := if level = 4 then c.bump (stkReg k 0x14) 1 else c

/-- The oldest guaranteed request of a port in TARGET mode that waits at a stack one level below, and has waited long enough, reaches a level of
urgency: a read, a stripe operation at the front ends, or a line in a write queue (R334). -/
def Chip.urgencyRise (c : Chip) (k p level : Nat) : Chip :=
  if c.aget (rSTK_REG + 16 * p) 0 1 = 1 || level = 0 || 4 < level then c
  else
    let due (port urgency start : Nat) (guaranteed : Bool) : Bool :=
      port == p && guaranteed && urgency == level - 1 && c.urgentBy p start level
    let rd := c.int.reads.find? (fun e => due e.2.port e.2.urgency e.2.start e.2.guaranteed && e.2.waitsAt k)
    let st := c.int.stripes.find? (fun e => due e.2.q.port e.2.q.urgency e.2.q.start e.2.q.guaranteed && e.2.waitsAt k)
    let wr := (c.stkOf k).wq.find? (fun w => due w.q.port w.q.urgency w.q.start w.q.guaranteed)
    let ages := (rd.map (fun e => e.1)).toList ++ (st.map (fun e => e.1)).toList ++ (wr.map (fun w => w.q.age)).toList
    match ages.min? with
    | none => c
    | some age =>
      let c := c.urgentLate k level
      match look c.int.reads age, look c.int.stripes age with
      | some r, _ => c.putRead age { r with urgency := level }
      | none, some o => c.setInt { c.int with stripes := put c.int.stripes age { o with q := { o.q with urgency := level } } }
      | none, none => c.putStk k { c.stkOf k with wq := (c.stkOf k).wq.map (fun w =>
          if w.q.age = age then { w with q := { w.q with urgency := level } } else w) }

/-- A write that has waited a beat as best effort. -/
def Qos.promoted (q : Qos) (now : Nat) : Qos := if !q.guaranteed && 0 < q.waited then { q with guaranteed := true, start := now } else q

/-- A best-effort request that has waited a beat counts as guaranteed, and its urgency is measured from then on (R333): a read, or a write, by its
number, at the front ends or in the write queues. -/
def Chip.promote (c : Chip) (id : Nat) : Chip :=
  match look c.int.reads id, look c.int.stripes id with
  | some r, _ => if !r.guaranteed && 0 < r.waited then c.putRead id { r with guaranteed := true, start := c.esc.now } else c
  | none, some o => c.setInt { c.int with stripes := put c.int.stripes id { o with q := o.q.promoted c.esc.now } }
  | none, none =>
    { c with stk := mapVals c.stk (fun _ s => { s with wq := s.wq.map (fun w => if w.q.age = id then { w with q := w.q.promoted c.esc.now } else w) }) }

/-! ### Self-refresh (R345, R346) -/

/-- Whether the stacks are asked to enter self-refresh: an S or C reset is asserted, or RETAIN is entered. -/
def Chip.selfAsked (c : Chip) : Bool := c.rcu.asserted == some .s || c.rcu.asserted == some .c || c.pwr.retain

/-- Queued writes and postponed refreshes are issued, every bank is precharged, and the stack refreshes itself at the rate that HOT asks for.
Under S reset the training results are lost (R347), and HOT and DOUBLE read 0 from then on (R348, R442 step 6). -/
def Chip.selfRefresh (c : Chip) (k : Nat) : Chip :=
  if !c.selfAsked || c.stkState k != stkReady then c
  else
    let s := c.stkOf k
    let wiped := c.rcu.asserted == some .s
    let c := s.wq.foldl (fun c _ => c.count (20 + k) 64) c
    let c := s.debt.foldl (fun c d => c.event (.stk k) k 0x03 d.2 none) c
    let fast := c.bit (stkReg k 4) 3
    let c := (c.setStkState k stkSelf).setBit (stkReg k 4) 4 false
    let c := if wiped then (c.setBit (stkReg k 4) 3 false).setBit (stkReg k 4) 5 false else c
    (c.putStk k { s with debt := [], rows := [], predicted := [], wq := [], drain := [], force := [], holds := [], fast := fast,
                         pause := { s.pause with running := false }, trained := s.trained && !wiped }).panics

/-- INT_DONE where the stripes are adopted, and EXT_STATUS.READY where the tables stand (R371, R388, R445). -/
def Chip.readyUp (c : Chip) : Chip :=
  let up := (upTo 20).all (fun k => c.stkState k = stkReady || c.stkState k = stkFailed)
  let c := if up && c.bit 0x1000040 1 && !c.held.contains .int then c.setBit rINT_STATUS 0 true else c
  if c.bit rINT_STATUS 0 && c.bit rRED_STATUS 0 && !c.held.contains .ext then c.setBit rEXT_STATUS 0 true else c

/-- A stack has left self-refresh, or its full training has ended (R342): READY, or FAILED. -/
def Chip.stackReadyUp (c : Chip) (k : Nat) (ok : Bool) : Chip :=
  if 20 ≤ k || c.stkState k = stkReady || c.stkState k = stkFailed || c.selfAsked then c
  else if ok then
    let s := c.stkOf k
    ((c.putStk k { s with debt := [], trained := true }).setStkState k stkReady).readyUp
  else ((c.bump (stkReg k 0x20) 1).failStack k).readyUp

/-! ### Scrub (R361) -/

/-- The error of a consistent-length column without erasures: none, the line that is wrong with its value, or more than one. -/
inductive Silent
  | none
  | one (k value : Nat)
  | many
  deriving DecidableEq, Repr

def silentError (syms : List Nat) : Silent :=
  let s0 := syndrome coefP syms
  let s1 := syndrome coefQ syms
  if s0 = 0 && s1 = 0 then .none
  else if s1 = 0 then .one 8 (xorN (syms.getD 8 0) s0)
  else if s0 = 0 then .one 9 (xorN (syms.getD 9 0) s1)
  else match (upTo 8).find? (fun d => gfMul s0 (gfPow 2 d) == s1) with
    | some d => .one d (xorN (syms.getD d 0) s0)
    | none => .many

/-- The finding of one column: each line's symbol, and whether it was recovered, corrected or lost. -/
inductive Found'
  | same | recovered | silent | lost
  deriving DecidableEq, Repr

def scrubColumn (syms : List Nat) (erased : List Bool) : List (Nat × Found') × Bool :=
  if erased.any id then
    ((decodeColumn syms erased).map (fun x => (x.1, match x.2 with
      | .good => Found'.same | .recovered => .recovered | .lost => .lost)), false)
  else match silentError syms with
    | .none => (syms.map (fun x => (x, .same)), false)
    | .one k v => (syms.zipIdx.map (fun x => if x.2 = k then (v, .silent) else (x.1, .same)), false)
    | .many => (syms.map (fun x => (x, .same)), true)

/-- A scrub of one stripe: reports, corrections, the correctable-address table. A line is reported once for what was recovered in it and
once for what was silently wrong, a column once where it cannot be corrected (DEDUCED, log 23). -/
def Chip.scrubOne (c : Chip) (stripe : Nat) : Chip :=
  let vs := c.stripeViews stripe
  let cols := (upTo 64).map (fun b => scrubColumn (vs.map (fun v => (v.bytes.getD b 0).toNat)) (vs.map (fun v => v.erased.getD b false)))
  let at' (k : Nat) : List (Nat × Found') := cols.map (fun x => x.1.getD k (0, .same))
  let rpt (c : Chip) (cls : ErrClass) (p : Nat × Nat) (b : Nat) : Chip := c.report { cls := cls, blk := .int, addr := packPlace p.1 p.2 b }
  let c := (upTo 10).foldl (fun c k =>
    let p := placeOf stripe k
    if c.stackFailed p.1 then c else (c.touchRead p).charge 29 64) c
  let c := (upTo 10).foldl (fun c k =>
    let p := placeOf stripe k
    let l := at' k
    let first (f : Found') : Option Nat := (upTo 64).find? (fun b => (l.getD b (0, .same)).2 == f)
    if c.stackFailed p.1 then c
    else
      let c := match first .recovered with | some b => rpt c .scrubCorrected p b | none => c
      let c := match first .silent with | some b => rpt c .silentCorrected p b | none => c
      let mask := l.map (fun x => x.2 == .recovered || x.2 == .silent)
      if !mask.any id then c
      else
        let c := c.catHit p.1 p.2
        if c.bit rINT_CTL 1 then
          ((c.setMem (c.mem.write (stackAddr p) (l.map (fun x => BitVec.ofNat 8 x.1)) mask)).touchWrite p).charge 29 64
        else c) c
  let fixed := (upTo 10).filter (fun k => !c.stackFailed (placeOf stripe k).1 && (at' k).any (fun x => x.2 == .recovered || x.2 == .silent))
  let c := if c.bit rINT_CTL 1 then c.applyFlip stripe fixed else c
  (upTo 64).foldl (fun c b =>
    let col := cols.getD b ([], false)
    if col.2 then rpt c .scrubLost (placeOf stripe 8) b
    else if col.1.any (fun x => x.2 == .lost) then
      let e := (upTo 10).foldl (fun a k =>
        let stripeAt (j : Nat) := (placeOf stripe j).1 % 10
        if (vs.getD k ⟨[], []⟩).erased.getD b false && (match a with | none => true | some j => stripeAt k < stripeAt j) then some k else a) none
      rpt c .scrubLost (placeOf stripe (e.getD 8)) b
    else c) c

/-- The stripes of the package (R362). -/
def Chip.stripeCount (c : Chip) : Nat := c.folioCount * 4096

/-- INT scrubs the stripe of INT_SCRUB_NOW, or the next one of the walk within its grant, under the stripe's lock. -/
def Chip.scrubStripe (c : Chip) : Chip :=
  if !c.mayAccess 29 then c
  else match c.int.scrubNow with
  | some s =>
    let (c, free) := c.mayLock [s]
    if !free then c else (c.setInt { c.int with scrubNow := none }).scrubOne s
  | none =>
    let s := (c.word rINT_SCRUB_POS).toNat
    if !c.bit rINT_CTL 0 || c.int.walkGrant = 0 || c.quiesced then c
    else
      let (c, free) := c.mayLock [s]
      if !free then c
      else
      let c := (c.setInt { c.int with walkGrant := c.int.walkGrant - 1 }).scrubOne s
      if s + 1 ≥ c.stripeCount then (c.setWord rINT_SCRUB_POS 0).setWord rINT_SCRUB_PASSES (c.word rINT_SCRUB_PASSES + 1)
      else c.setWord rINT_SCRUB_POS (BitVec.ofNat 32 (s + 1))

/-! ### Zeroing (R364, R78) -/

/-- The stored bytes of zeros under the scrub key (14_security.md R413). -/
def Chip.zeroLine (c : Chip) (line : Nat) : List Byte := xtsEnc c.scrubKey line (zeros 64)

/-- What port 29 may still spend on zeroing in this beat (R362). -/
def Chip.zeroLeft (c : Chip) : Nat := min (c.guarLeft 29 - (c.int.walkGrant * 640 + c.int.rebuildGrant)) (c.capLeft 29)

/-- What a folio costs: 2,621,440 B, less the lines of FAILED stacks and the stripes of a LOST group (R355, R364). -/
def Chip.folioCost (c : Chip) : Nat :=
  sumOf ((upTo 2).map (fun g => if c.groupState g ≥ 3 then 0 else 2048 * 64 * (10 - c.failedIn g)))

/-- At the end of a beat the stripes of the next folio that the beat still had room for have been written. -/
def Chip.zeroSpend (c : Chip) : Chip :=
  if c.int.zero.isEmpty || c.held.contains .int then c
  else
    let n := min (c.zeroLeft / 640 * 640) (c.folioCost - c.int.paid)
    (c.setInt { c.int with paid := c.int.paid + n }).charge 29 n

/-- A stripe of zeros, mirrored where its extent is of a pair group; its cost is charged with its folio's. -/
def Chip.zeroStripe (c : Chip) (e : Extent) (stripe : Nat) : Chip :=
  let chgs := (upTo 8).map (fun d => (⟨d, c.zeroLine (stripe * 8 + d), allOn 64, false⟩ : LineChg))
  let (c, _) := c.writeStripe 32 stripe chgs
  if e.red then c.mirror e.pairGroup (stripe * 8) (chgs.flatMap (fun x => x.data)) 0 else c

/-- The oldest job's next folio written as zeros and marked CLEAN, unless a stripe of it could not be written; after the last the extent
is FREE. -/
def Chip.zeroFolio (c : Chip) : Chip :=
  match c.int.zero with
  | [] => c
  | j :: rest =>
    let e := c.extent j.handle
    let need := c.folioCost - c.int.paid
    if e.st != .scrubbing then c.setInt { c.int with zero := rest, paid := 0 }
    else if c.zeroLeft < need then c
    else
      let f := e.backing + j.next
      let lost := (upTo 2).any (fun g => c.groupState g ≥ 3)
      let c := ((upTo 4096).foldl (fun c i => c.zeroStripe e (f * 4096 + i)) c).charge 29 need
      let c := c.setInt { c.int with paid := 0 }
      let c := if lost then c.report { cls := .writebackLost, blk := .int, addr := f * 2 ^ 21 } else c.writeFolios f 1 .clean
      let c := match look c.unbinds e.tenant with
        | some u => c.setUnbinds (put c.unbinds e.tenant { u with folios := u.folios + 1 })
        | none => c
      if j.next + 1 < e.len then c.setInt { c.int with zero := { j with next := j.next + 1 } :: rest }
      else ((c.writeExt j.handle { e with st := .free }).dropElb (fun x => x.handle == j.handle)).setInt { c.int with zero := rest }

/-! ### Flips, the correctable-address table, the self-test (R368, R370, R371) -/

def Chip.flipArm (c : Chip) (val : Word) : Chip :=
  if !c.card || !bitOf val.toNat 0 then c
  else (c.setWord rINT_FLIP_CTL (writeWord rINT_FLIP_CTL (c.word rINT_FLIP_CTL) val)).setBit rINT_FLIP_CTL 1 false

def Chip.catClear (c : Chip) (n : Nat) : Chip := c.setInt { c.int with cat := del c.int.cat n }

/-- A failing row region entered as sticky. -/
def Chip.catSticky (c : Chip) (stack l : Nat) : Chip :=
  let loc := catPlace stack l
  if c.int.cat.any (fun e => e.2.loc == loc) then c
  else match catVictim c.int.cat with
    | none => c.bump rINT_CAT_MISSED 1
    | some n =>
      let stamp := c.int.catStamp + 1
      c.setInt { c.int with cat := put c.int.cat n ⟨loc, 1, c.esc.beat, c.esc.beat, true, stamp⟩, catStamp := stamp }

/-- The self-test of a P reset: every stripe written as zeros, the failing lines (stack, location) entered and counted. -/
def Chip.selfTest (c : Chip) (failing : List (Nat × Nat)) : Chip :=
  if c.bit 0x1000040 1 || !(upTo 20).all (fun k => c.stkState k = stkReady || c.stkState k = stkFailed) then c
  else
    let c := (c.setMem ⟨[], []⟩).set 0x1000040 0 1 (c.get 0x14 0 1)
    let c := c.setBit 0x1000040 1 true
    let c := failing.foldl (fun c x => c.catSticky x.1 x.2) c
    let c := match failing with
      | [] => c
      | x :: _ => ((c.setBit 0x1000040 2 true).bump 0x1000044 failing.length).report
          { cls := .selfTest, blk := .int, addr := packPlace x.1 x.2 0, count := failing.length }
    let c := (upTo 20).foldl (fun c k =>
      if (((failing.filter (fun x => x.1 == k)).map (fun x => catPlace k x.2)).dedup).length > 64 then c.failStack k else c) c
    let c := c.setExt { c.ext with folios := [], folioDefault := .clean }
    ((c.setBit rINT_STATUS 0 true).setBit rRED_STATUS 0 true).readyUp

/-! ### Meanings -/

def execTableRestore (s : State) : Host.Outcome State Fault Refusal :=
  .next { s with chip := s.chip.live .red (fun c => if c.bit rINT_STATUS 0 then c.tableRestore.readyUp else c) }

def execRefreshDue (stack bank : Nat) (s : State) : Host.Outcome State Fault Refusal :=
  .next { s with chip := s.chip.live (.stk stack) (fun c => c.refreshDue stack bank) }

def execRfmDue (stack bank : Nat) (s : State) : Host.Outcome State Fault Refusal :=
  .next { s with chip := s.chip.live (.stk stack) (fun c => c.rfmDue stack bank) }

def execTempRead (stack temp : Nat) (s : State) : Host.Outcome State Fault Refusal :=
  .next { s with chip := if stack < 20 then s.chip.tempRead stack temp else s.chip }

def execTrainPauseEnd (stack : Nat) (ok : Bool) (s : State) : Host.Outcome State Fault Refusal :=
  .next { s with chip := s.chip.live (.stk stack) (fun c => c.pauseEnd stack ok) }

def execRowIdleClose (stack bank : Nat) (s : State) : Host.Outcome State Fault Refusal :=
  .next { s with chip := s.chip.live (.stk stack) (fun c => c.rowIdle stack bank) }

def execUrgencyRise (stack port level : Nat) (s : State) : Host.Outcome State Fault Refusal :=
  .next { s with chip := s.chip.live (.stk stack) (fun c => c.urgencyRise stack port level) }

def execBestEffortPromote (id : Nat) (s : State) : Host.Outcome State Fault Refusal :=
  .next { s with chip := s.chip.live .int (fun c => c.promote id) }

def execSelfRefreshDone (stack : Nat) (s : State) : Host.Outcome State Fault Refusal :=
  .next { s with chip := s.chip.selfRefresh stack }

def execStackReady (stack : Nat) (ok : Bool) (s : State) : Host.Outcome State Fault Refusal :=
  .next { s with chip := s.chip.live (.stk stack) (fun c => c.stackReadyUp stack ok) }

def execScrubStripe (s : State) : Host.Outcome State Fault Refusal :=
  .next { s with chip := s.chip.live .int (fun c => c.scrubStripe) }

def execIntScrubNow (who : Who) (stripe : Word) (s : State) : Host.Outcome State Fault Refusal :=
  .next { s with chip := s.chip.regCmd who 0x1000020 (fun c =>
    if stripe.toNat < c.stripeCount then c.setInt { c.int with scrubNow := some stripe.toNat } else c) }

def execZeroFolio (s : State) : Host.Outcome State Fault Refusal :=
  .next { s with chip := s.chip.live .int (fun c => c.zeroFolio) }

def execIntFlipArm (who : Who) (val : Word) (s : State) : Host.Outcome State Fault Refusal :=
  .next { s with chip := s.chip.regCmd who rINT_FLIP_CTL (fun c => c.flipArm val) }

def execCatClear (who : Who) (n : Nat) (s : State) : Host.Outcome State Fault Refusal :=
  .next { s with chip := s.chip.regCmd who (0x1001000 + 16 * n) (fun c => c.catClear n) }

def execSelfTest (failing : List (Nat × Nat)) (s : State) : Host.Outcome State Fault Refusal :=
  .next { s with chip := s.chip.live .int (fun c => c.selfTest failing) }

end Sys2Proof.Machine
end

