-- ==== Sys2Proof/Machine/Requests.lean ====
section
/-! DEFINITION. Fabric reads and writes, BAR 4 accesses, their answers, and the package's own requests that time out (03_extents.md R72,
R82; 09_coherence.md R273; 10_fabric.md R293; 17_host_port_management.md R477 to R481). -/

namespace Sys2Proof.Machine

/-! ### Fabric requests -/

/-- An admitted access to a lent extent: forwarded; without a free entry a forward is answered with BUSY_RETRY (R311), and a request waits
and is presented again. -/
def Chip.lendMsg (c : Chip) (x : ElbE) (m : Msg) (pla : Nat) : Chip :=
  let (c', ok) := c.lend x m pla 9
  if ok then c' else if m.fwded then c.sendRefusal m .busyRetry c.beatUs 0 else c

/-- RD (R72, R293). -/
def Chip.readReq (c : Chip) (link : Nat) (m : Msg) : Chip :=
  c.request m (fun c pla =>
    let n := m.bytes.toNat
    let r := msgReq m pla n rRead false false
    let port := c.portOf link m.ctx.toNat false
    let (c, v, miss, late) := c.checkRead (elbLink link) port r
    match v with
    | .retry => c.sendRefusal m .busyRetry c.beatUs 0
    | .refuse k st h => c.refuseMsg m r k st h
    | .granted x =>
      if x.e.lent then c.lendMsg x m pla
      else if x.e.coh = 1 then
        if c.held.contains .coh then c.sendRefusal m .blockReset 0 0
        else c.orderAccess (.fabric link m) port x pla n false [] [] miss m.fwded
      else c.startRead (.fabric link m) port (x.target pla) n 0 miss late)

/-- WR and WR_BE (R293): the payload and the bytes it enables. A line that is written in part and that only the partner holds is asked of
it first, and the request is presented again (log 22). -/
def Chip.writeReq (c : Chip) (link : Nat) (m : Msg) (be : List Bool) : Chip :=
  c.request m (fun c pla =>
    let n := m.data.length
    let r := msgReq m pla n rWrite true false
    let port := c.portOf link m.ctx.toNat true
    let (c, v, miss) := c.check (elbLink link) r
    match v with
    | .retry => c.sendRefusal m .busyRetry c.beatUs 0
    | .refuse k st h => c.refuseMsg m r k st h
    | .granted x =>
      if x.e.lent then c.lendMsg x m pla
      else if x.e.coh = 1 then
        if c.held.contains .coh then c.sendRefusal m .blockReset 0 0
        else c.orderAccess (.fabric link m) port x pla n true m.data be miss m.fwded
      else
        let t := x.target pla
        let (c, have') := c.askLost t (partLines t.ppa n be)
        if !have' then c
        else
          let (c, _) := c.askedStatus t (partLines t.ppa n be) .ok
          (c.markStale port t n).startWrite (.fabric link m) port t m.data be ((if miss then 12 else 0) + (if port = 30 then 1 else 0)))

/-- The byte enables of WR_BE: bit i enables byte i (10_fabric.md R293). -/
def msgBe (m : Msg) : List Bool := (upTo 64).map (fun i => bitOf m.be.toNat i)

/-! ### BAR 4 (R477, R478) -/

/-- Where a function's window ends: at the lower of the BAR size and the protected capacity. The BAR of PF 0 is 2 TiB on H15 and 1 TiB on
H10; a VF's is 1 GiB after reset (R476). -/
def Chip.bar4End (c : Chip) (fn : Nat) : Nat :=
  min (c.folioCount * 2 ^ 21) (2 ^ (if fn = 0 then (if c.get 0x0 24 2 = 0 then 41 else 40) else lookD c.pci.bar4Log2 fn 30))

/-- The PLA and context of a BAR 4 access, unless it completes as an Unsupported Request. -/
def Chip.bar4At (c : Chip) (fn off n : Nat) : Option (Nat × Nat) :=
  let r := rPCI_FN + 16 * fn
  let pla := c.get (r + 8) 0 27 * 2 ^ 21 + off
  if 256 ≤ fn || !c.bit r 31 || off + n > c.bar4End fn || off ≥ c.bar4End fn || pla + n > 2 ^ 48 then none
  else some (pla, c.get r 0 16)

/-- The request of a BAR 4 access: it carries no generation (R70). -/
def bar4Req (fn ctx pla n need : Nat) (write : Bool) : Req :=
  { ctx := ctx, src := .pcie fn, pla := pla, bytes := n, gen := none, need := need, write := write, coh := false }

/-- A BAR 4 read that is not served: Completer Abort, which AER logs (R478). -/
def Chip.bar4Fail (c : Chip) (fn tag : Nat) (st : Status) : Chip :=
  (c.setPci { c.pci with aer := c.pci.aer + 1 }).emit (.bar4Read fn tag st [] 0)

/-- The forward of a BAR 4 access to a lender, under a transaction of the package's own (R82). -/
def Chip.bar4Lend (c : Chip) (x : ElbE) (fn tag pla n : Nat) (data : List Byte) (write : Bool) : Chip :=
  let (t, c1) := c.extTxn
  let (c', ok) := c1.lend x (c1.ownMsg (if write then 0x02 else 0x01) x.e.lender t 0 0 n data) pla 9
  if !ok then c
  else if write then c'.setPci { c'.pci with wrLent := put c.pci.wrLent t (fn, c.esc.bounds) }
  else c'.setPci { c'.pci with lent := put c.pci.lent t (fn, tag, c.esc.bounds) }

def Chip.bar4Read (c : Chip) (fn off n tag : Nat) (stream : Option Nat) : Chip :=
  if c.stopped then c
  else if !c.ideOk stream then c.emit (.bar4Unsupported fn tag)
  else match c.bar4At fn off n with
    | none => c.emit (.bar4Unsupported fn tag)
    | some (pla, ctx) =>
      let c := c.wake
      if c.coreHeld then c.bar4Fail fn tag .blockReset
      else if c.quiesced then c.bar4Fail fn tag .busyRetry
      else
        let r := bar4Req fn ctx pla n rRead false
        let (c, v, miss, late) := c.checkRead elbPci 24 r
        match v with
        | .retry => c.bar4Fail fn tag .busyRetry
        | .refuse k st h => (c.faultRequest r 2 off 0 k st h).bar4Fail fn tag st
        | .granted x =>
          if x.e.lent then c.bar4Lend x fn tag pla n [] false
          else if x.e.coh = 1 then
            if c.held.contains .coh then c.bar4Fail fn tag .blockReset
            else c.orderAccess (.bar4 fn tag) 24 x pla n false [] [] miss false
          else c.startRead (.bar4 fn tag) 24 (x.target pla) n 0 miss late

/-- The tag that stands for a posted write, which has no completion. -/
def postedTag : Nat := 2 ^ 16

def Chip.bar4Write (c : Chip) (fn off : Nat) (data : List Byte) (stream : Option Nat) : Chip :=
  let n := data.length
  if c.stopped || !c.ideOk stream then c
  else match c.bar4At fn off n with
    | none => c.emit (.bar4Unsupported fn postedTag)
    | some (pla, ctx) =>
      let c := c.wake
      let r := bar4Req fn ctx pla n rWrite true
      if c.coreHeld then c
      else if c.quiesced then c.faultRequest r 2 off 0 0 .busyRetry 0
      else
        let (c, v, miss) := c.check elbPci r
        match v with
        | .retry => c.faultRequest r 2 off 0 0 .busyRetry 0
        | .refuse k st h => c.faultRequest r 2 off 0 k st h
        | .granted x =>
          if x.e.lent then c.bar4Lend x fn postedTag pla n data true
          else if x.e.coh = 1 then
            if c.held.contains .coh then c.faultRequest r 2 off 0 0 .blockReset x.handle
            else c.orderAccess (.bar4 fn postedTag) 24 x pla n true data (allOn n) miss false
          else
            let t := x.target pla
            let (c, have') := c.askLost t (partLines t.ppa n (allOn n))
            if !have' then c
            else
              let (c, _) := c.askedStatus t (partLines t.ppa n (allOn n)) .ok
              (c.markStale 24 t n).startWrite (.bar4 fn postedTag) 24 t data (allOn n) (if miss then 12 else 0)

/-! ### Answers to the package's own requests -/

/-- The answer of a lender to a BAR 4 read, or to a unit's access. -/
def Chip.bar4Answer (c : Chip) (m : Msg) : Chip :=
  match look c.pci.lent m.txn.toNat with
  | none => c.unitAnswer m.txn.toNat ((Status.ofCode m.status.toNat).getD .dataLost) m.data
  | some (fn, tag, _) =>
    let st := (Status.ofCode m.status.toNat).getD .dataLost
    let c := c.setPci { c.pci with lent := del c.pci.lent m.txn.toNat }
    if st.good then c.tlpOut m.data.length (.bar4Read fn tag st m.data 0) else c.bar4Fail fn tag st

/-- The answer of a lender to a BAR 4 write, or to a unit's. -/
def Chip.writeEnd (c : Chip) (t : Nat) (st : Status) : Chip :=
  if (look c.pci.wrLent t).isSome then c.setPci { c.pci with wrLent := del c.pci.wrLent t } else c.unitAnswer t st []

/-- A block's part of an event: nothing while it is held in reset. -/
def Chip.inBlk (c : Chip) (b : Blk) (f : Chip → Chip) : Chip := if c.held.contains b then c else f c

/-- RD_RSP, by the space its transaction lies in (log 12). -/
def Chip.readAnswer (c : Chip) (m : Msg) : Chip :=
  c.response m (fun c =>
    let t := m.txn.toNat
    if t < 0x4000 then c.inBlk .rng (fun c => c.rngData m)
    else if t < 0x8000 then c.inBlk .red (fun c => (c.rereadDone t (Status.ofCode m.status.toNat) m.data).cohPump)
    else if t < 0xC000 then c.inBlk .mov (fun c => c.movReply m true)
    else c.bar4Answer m)

/-- WR_ACK. -/
def Chip.writeAnswer (c : Chip) (m : Msg) : Chip :=
  c.response m (fun c =>
    let t := m.txn.toNat
    if t < 0x4000 then c.inBlk .rng (fun c => c.rngAck m)
    else if t < 0x8000 then c.inBlk .red (fun c => (c.redAck m).cohPump)
    else if t < 0xC000 then c.inBlk .mov (fun c => c.movReply m false)
    else c.writeEnd t ((Status.ofCode m.status.toNat).getD .dataLost))

/-- LEND_DONE (R82): the access has finished with its backing; a notice that matches no forward is discarded. -/
def Chip.lendEnd (c : Chip) (m : Msg) : Chip :=
  c.response m (fun c =>
    match c.ext.lends.find? (fun l => l.txn == m.txn && l.lender == m.src) with
    | some l => (c.setExt { c.ext with lends := c.ext.lends.filter (fun x => x.txn != m.txn) }).subInflight l.handle 1
    | none => c)

/-- HEARTBEAT (R82, R257): the slots of the agents and of the lender at the node. -/
def Chip.heartbeat (c : Chip) (m : Msg) : Chip :=
  c.response m (fun c =>
    let c := c.inBlk .coh (fun c => c.setCoh { c.coh with agents := mapVals c.coh.agents (fun _ a =>
      if a.node = m.src && a.st != .free then { a with beat := c.esc.bounds } else a) })
    if (look c.ext.lenders m.src.toNat).isSome then c.setExt { c.ext with lenders := put c.ext.lenders m.src.toNat c.esc.bounds } else c)

/-! ### Data, stripes, timeouts -/

/-- Whether every live stack of a stripe's group can take a write (R357). -/
def Chip.groupServes (c : Chip) (stripe : Nat) : Bool :=
  (upTo 10).all (fun i => c.stackFailed (10 * (stripe % 2) + i) || c.stkServes (10 * (stripe % 2) + i))

def Chip.stripeIssue (c : Chip) (id : Nat) : Chip :=
  match look c.int.stripes id with
  | some o => if c.groupServes o.stripe then (c.issueStripe id).cohPump else c
  | none => c

/-- A request of the package's own that has had no answer within the context timeout (R145, R380): 0 a mover's burst, 1 a partner re-read
by its transaction, 2 a BAR 4 read or a unit's access forwarded to a lender by its transaction. -/
def Chip.ownTimeout (c : Chip) (kind id : Nat) : Chip :=
  match kind with
  | 0 => c.inBlk .mov (fun c => c.movTimeout (32 + id))
  | 1 =>
    match look c.red.rereads id with
    | some r => if c.expired r.beat (c.beatsFor r.tgt.ctx 0) then (c.rereadDone id none []).cohPump else c
    | none => c
  | 2 =>
    match look c.pci.lent id with
    | some (fn, tag, b) =>
      if c.expired b (c.beatsFor (c.get (rPCI_FN + 16 * fn) 0 16) 0) then
        (c.setPci { c.pci with lent := del c.pci.lent id }).bar4Fail fn tag .timeout
      else c
    | none =>
      match look c.pci.wrLent id, c.ext.units.find? (fun u => u.txn == id) with
      | some (fn, b), _ => if c.expired b (c.beatsFor (c.get (rPCI_FN + 16 * fn) 0 16) 0) then c.writeEnd id .timeout else c
      | none, some u => if c.expired u.beat (c.beatsFor u.ctx 0) then c.unitAnswer id .timeout [] else c
      | none, none => c
  | _ => c

/-! ### Meanings -/

def execRd (link : Nat) (m : Msg) (s : State) : Host.Outcome State Fault Refusal :=
  .next { s with chip := s.chip.readReq link m }

def execWr (link : Nat) (m : Msg) (s : State) : Host.Outcome State Fault Refusal :=
  .next { s with chip := s.chip.writeReq link m (allOn m.data.length) }

def execWrBe (link : Nat) (m : Msg) (s : State) : Host.Outcome State Fault Refusal :=
  .next { s with chip := s.chip.writeReq link m (msgBe m) }

def execRdRsp (_link : Nat) (m : Msg) (s : State) : Host.Outcome State Fault Refusal :=
  .next { s with chip := s.chip.readAnswer m }

def execWrAck (_link : Nat) (m : Msg) (s : State) : Host.Outcome State Fault Refusal :=
  .next { s with chip := s.chip.writeAnswer m }

def execLendDone (_link : Nat) (m : Msg) (s : State) : Host.Outcome State Fault Refusal :=
  .next { s with chip := s.chip.lendEnd m }

def execHeartbeat (_link : Nat) (m : Msg) (s : State) : Host.Outcome State Fault Refusal :=
  .next { s with chip := s.chip.heartbeat m }

def execBar4Read (fn off bytes tag : Nat) (stream : Option Nat) (s : State) : Host.Outcome State Fault Refusal :=
  .next { s with chip := s.chip.bar4Read fn off bytes tag stream }

def execBar4Write (fn off : Nat) (data : List Byte) (stream : Option Nat) (s : State) : Host.Outcome State Fault Refusal :=
  .next { s with chip := (s.chip.tlpIn data.length).bar4Write fn off data stream }

def execStackReadData (id line : Nat) (s : State) : Host.Outcome State Fault Refusal :=
  .next { s with chip := s.chip.live .int (fun c =>
    if c.stkServes (linePlace line).1 then (c.lineData id line).cohPump else c) }

def execLineReconstruct (id line : Nat) (s : State) : Host.Outcome State Fault Refusal :=
  .next { s with chip := s.chip.live .int (fun c => (c.lineRebuilt id line).cohPump) }

def execStripeWrite (id : Nat) (s : State) : Host.Outcome State Fault Refusal :=
  .next { s with chip := s.chip.live .int (fun c => c.lockStripe id) }

def execStripeWriteIssue (id : Nat) (s : State) : Host.Outcome State Fault Refusal :=
  .next { s with chip := s.chip.live .int (fun c => c.stripeIssue id) }

def execContextTimeout (kind id : Nat) (s : State) : Host.Outcome State Fault Refusal :=
  .next { s with chip := s.chip.live .spine (fun c => c.ownTimeout kind id) }

end Sys2Proof.Machine
end

