-- ==== Sys2Proof/Machine/Wire.lean ====
section
/-! DEFINITION. What a link carries: header, DATA and LINK flits, tag groups, blocks of ten slots, the RS(544,514) code, the inner Hamming
code and the eight wavelengths (10_fabric.md R285 to R292, R295). The code's own conventions are those of IEEE 802.3 (PRESUMED, log 42). -/

namespace Sys2Proof.Machine

/-! ### Flits (R286, R291, R292, R295) -/

/-- A flit from its fields: first byte, number of bytes, value, big-endian; every other byte is 0. -/
def flitOf (fields : List (Nat × Nat × Nat)) : Flit :=
  BitVec.ofNat 512 (sumOf (fields.map (fun (i, n, v) => v % 256 ^ n * 256 ^ (64 - i - n))))

/-- The header flit of a message on a channel (R291). -/
def headOf (m : Msg) (chan : Nat) : Flit :=
  flitOf [(0, 1, m.cls.toNat * 64 + chan % 4 * 16), (1, 1, m.opcode.toNat), (2, 3, m.dest.toNat), (5, 1, m.dport.toNat), (6, 3, m.src.toNat),
          (9, 1, m.sport.toNat + m.fwded.toNat * 32 + m.genValid.toNat * 64 + m.lent.toNat * 128), (10, 2, m.txn.toNat), (12, 2, m.ctx.toNat),
          (14, 1, m.gen.toNat), (15, 1, m.status.toNat), (16, 8, m.addr.toNat), (24, 1, ceilDiv m.data.length 64), (25, 2, m.bytes.toNat),
          (28, 8, m.be.toNat), (36, 12, m.spec.toNat), (48, 4, m.info.toNat)]

/-- A byte string as flits: byte 0 first, the last flit filled with zeros (R290). -/
def flitsOfBytes (l : List Byte) : List Flit :=
  (upTo (ceilDiv l.length 64)).map (fun i =>
    let d := slice l (64 * i) 64
    BitVec.ofNat 512 (ofBytesBE (d ++ zeros (64 - d.length))))

/-- The 64 bytes of a flit, in the order in which they are sent. -/
def flitBytes (x : Flit) : List Byte := bytesBE 64 x.toNat

/-- Whether a reserved bit of a header is set (R291). -/
def headRsvd (h : Flit) : Bool :=
  flitByte h 0 % 16 != 0 || flitByte h 5 / 32 != 0 || 128 ≤ flitByte h 24 || flitByte h 25 / 32 != 0 || flitByte h 27 != 0
  || flitField h 52 12 != 0

/-- The message of a header and its DATA flits. WR, FOLD_CONTRIB and RD_RSP carry BYTES bytes; what else has DATA flits carries a line. -/
def msgOf (h : Flit) (data : List Flit) : Msg :=
  let bytes := data.flatMap flitBytes
  let n := flitField h 25 2 % 8192
  let op := flitByte h 1
  { cls := BitVec.ofNat 2 (headCls h), chan := BitVec.ofNat 2 (headChan h), opcode := BitVec.ofNat 8 op, dest := headDest h,
    dport := BitVec.ofNat 5 (flitByte h 5), src := BitVec.ofNat 24 (flitField h 6 3), sport := BitVec.ofNat 5 (flitByte h 9),
    fwded := bitOf (flitByte h 9) 5, genValid := bitOf (flitByte h 9) 6, lent := bitOf (flitByte h 9) 7,
    txn := BitVec.ofNat 16 (flitField h 10 2), ctx := BitVec.ofNat 16 (flitField h 12 2), gen := BitVec.ofNat 8 (flitByte h 14),
    status := BitVec.ofNat 8 (flitByte h 15), addr := BitVec.ofNat 64 (flitField h 16 8), len := BitVec.ofNat 7 (headLen h),
    bytes := BitVec.ofNat 13 n, be := BitVec.ofNat 64 (flitField h 28 8), spec := BitVec.ofNat 96 (flitField h 36 12),
    info := BitVec.ofNat 32 (flitField h 48 4), rsvd := headRsvd h,
    data := if op = 0x02 || op = 0x10 || op = 0x20 then bytes.take n else bytes }

/-- The header with the channel of the next hop written (R307). -/
def withChan (h : Flit) (chan : Nat) : Flit := BitVec.ofNat 512 (withBits h.toNat 508 2 chan)

/-- A LINK flit (R295); LCTL's twelve counts stand with VC 0 most significant. -/
def LinkFlit.bits : LinkFlit → Flit
  | .lctl f => flitOf [(0, 1, 0x10), (1, 1, f.ackValid.toNat + f.nakValid.toNat * 2 + f.goingDown.toNat * 4), (2, 2, f.ackSeq.toNat),
      (4, 2, f.nakSeq.toNat), (6, 18, sumOf ((upTo 12).map (fun v => f.credit.getD v 0 % 4096 * 4096 ^ (11 - v)))), (24, 2, f.shared % 4096)]
  | .beat f => flitOf [(0, 1, 0x20), (1, 1, f.hops.toNat), (2, 3, f.master.toNat), (5, 1, f.prio.toNat), (6, 2, f.epoch.toNat),
      (8, 8, f.num.toNat), (16, 1, f.period.toNat), (17, 4, f.corr.toNat)]
  | .elect f => flitOf [(0, 1, 0x30), (2, 3, f.cand.toNat), (5, 1, f.prio.toNat), (6, 2, f.epoch.toNat), (8, 8, f.maxBeat.toNat)]
  | .abort vc => flitOf [(0, 1, 0x50), (1, 1, vc % 16)]

/-- The TAG flit of a group. -/
def Group.tagFlit (g : Group) : Flit := flitOf [(1, 1, g.slots.length), (8, 8, g.seq.toNat), (16, 16, g.tag.toNat)]

/-- MGMT flits: HELLO, TIME, and a fragment of a key message (14_security.md R426). -/
def helloFlit (f : HelloFlit) : Flit :=
  flitOf [(0, 1, 0x40), (2, 3, f.node.toNat), (5, 1, f.port.toNat + f.lightOk.toNat * 32), (6, 2, f.dedicated), (8, 2, f.shared)]
def timeFlit (t1 t2 t3 : Nat) : Flit := flitOf [(0, 1, 0x40), (1, 1, 2), (8, 8, t1), (16, 8, t2), (24, 8, t3)]
def keyFlits (kind : Nat) (l : List Byte) : List Flit :=
  let n := ceilDiv l.length 55
  (upTo n).map (fun i =>
    let d := slice l (55 * i) 55
    flitOf [(0, 1, 0x40), (1, 1, 1), (2, 1, kind), (4, 2, i), (6, 2, n), (8, 1, d.length), (9, 55, ofBytesBE (d ++ zeros (55 - d.length)))])

/-! ### Tag groups (R288) -/

/-- A LINK slot. -/
def linkSlot (x : Flit) : Slot := ⟨3, x⟩

/-- Whether a LINK flit closes its group: a BEAT flit. -/
def LinkFlit.marks : LinkFlit → Bool
  | .beat _ => true
  | _ => false

/-- The flits of a group sealed: AES-256-GCM under the sending key, the IV the salt and GROUP_SEQ, the slot kinds authenticated. -/
def sealGroup (k : LinkKeys) (seq : Quad) (mark : Bool) (slots : List Slot) : Group :=
  let iv := BitVec.ofNat 96 (k.txSalt.toNat * 2 ^ 64 + seq.toNat)
  let cipher := Config.gcm k.tx iv (slots.flatMap (fun s => flitBytes s.bits))
  { seq := seq, mark := mark,
    slots := (upTo slots.length).map (fun i => ⟨(slots.getD i ⟨0, 0⟩).kind, BitVec.ofNat 512 (ofBytesBE (slice cipher (64 * i) 64))⟩),
    tag := Config.gcmTag k.tx iv (slots.map (fun s => s.kind.setWidth 8) ++ cipher) }

/-- Flits in groups of at most 31, from a sequence number on. -/
def groupsOf (k : LinkKeys) (mark : Bool) : Quad → Nat → List Slot → List Group
  | _, 0, _ => []
  | seq, n + 1, l =>
    if l.isEmpty then [] else sealGroup k seq (mark && l.length ≤ 31) (l.take 31) :: groupsOf k mark (seq + 1) n (l.drop 31)

/-- The slots a group takes in a replay buffer: its flits and its TAG. -/
def Group.size (g : Group) : Nat := g.slots.length + 1

/-! ### Blocks (R285, R286, R295) -/

/-- An IDLE slot. -/
def idleSlot : Slot := ⟨0, 0⟩

/-- Slots in blocks of ten, the last one filled with IDLE slots. -/
def tens (l : List Slot) : List (List Slot) :=
  (upTo (ceilDiv l.length 10)).map (fun i =>
    let b := slice l (10 * i) 10
    b ++ List.replicate (10 - b.length) idleSlot)

/-- A flit that goes only in slot 9 of a block, after others. -/
def atNine (before : List Slot) (s : Slot) : List Slot := before ++ List.replicate (9 - before.length % 10) idleSlot ++ [s]

/-- The blocks of a group: its flits in order, a BEAT flit in slot 9, the TAG after them. -/
def Group.blocks (g : Group) : List (List Slot) :=
  let body := if g.mark then atNine g.slots.dropLast (g.slots.getLastD idleSlot) else g.slots
  tens (body ++ [linkSlot g.tagFlit])

/-- A number of `n` bits as symbols of 10 bits, in the order in which they are sent: a number's most significant bit goes first, and the bit
of a symbol that is sent first is its least significant one. -/
def symbolsOf (n x : Nat) : List Nat :=
  (upTo (n / 10)).map (fun i => sumOf ((upTo 10).map (fun j => bitsOf x (n - 1 - 10 * i - j) 1 * 2 ^ j)))

/-- The message of a block: its slot-kind field, then slots 0 to 9, as 514 symbols. -/
def blockSymbols (b : List Slot) : List Nat :=
  symbolsOf 5140 ((b.foldl (fun a s => a * 4 + s.kind.toNat) 0) * 2 ^ 5120 + b.foldl (fun a s => a * 2 ^ 512 + s.bits.toNat) 0)

/-- Multiplication in GF(2^10) modulo x^10 + x^3 + 1. -/
def rsDouble (a : Nat) : Nat := if a < 512 then 2 * a else xorN (2 * a) 0x409
def rsMul (a b : Nat) : Nat := (upTo 10).foldl (fun r i => if bitOf b (9 - i) then xorN (rsDouble r) a else rsDouble r) 0

/-- The generator of RS(544,514), the product of x − α^j for j from 0 to 29, without its leading 1, highest power first. -/
def rsGen : List Nat :=
  ((upTo 30).foldl (fun (a : List Nat × Nat) _ =>
    (List.zipWith xorN (a.1 ++ [0]) (0 :: a.1.map (rsMul a.2)), rsDouble a.2)) ([1], 1)).1.drop 1

/-- The 30 parity symbols of a message, the remainder of its polynomial times x^30. -/
def rsParity (gen l : List Nat) : List Nat :=
  l.foldl (fun r s =>
    let f := xorN s (r.headD 0)
    List.zipWith xorN (r.drop 1 ++ [0]) (gen.map (rsMul f))) (List.replicate 30 0)

def rsEncode (l : List Nat) : List Nat := l ++ rsParity rsGen l

/-- The 10 parity bits of a segment of 17 symbols under the shortened Hamming code with generator x^10 + x^3 + 1, as the symbol sent. -/
def hammingParity (seg : List Nat) : Nat :=
  let r := seg.foldl (fun r s => (upTo 10).foldl (fun r j => rsDouble (xorN r (bitsOf s j 1 * 512))) r) 0
  sumOf ((upTo 10).map (fun j => bitsOf r (9 - j) 1 * 2 ^ j))

/-- The 10-bit groups of a block: under standard FEC each segment of 17 is followed by its parity, 576 in all; under light FEC the 544 of the
codeword. -/
def blockGroups (light : Bool) (b : List Slot) : List Nat :=
  let code := rsEncode (blockSymbols b)
  if light then code
  else (upTo 32).flatMap (fun i => slice code (17 * i) 17 ++ [hammingParity (slice code (17 * i) 17)])

/-- What the eight wavelengths carry for a block: group s goes on λ(s mod 8). -/
def blockWaves (light : Bool) (b : List Slot) : List (List Nat) :=
  let gs := blockGroups light b
  (upTo 8).map (fun k => (upTo (gs.length / 8)).map (fun i => gs.getD (8 * i + k) 0))

/-- The blocks that carry an output of a link, with their FEC mode: a tag group, or the MGMT flits of training, a TIME flit in slot 9. -/
def Out.blocks : Out → List (Bool × List Slot)
  | .group _ light g => g.blocks.map (fun b => (light, b))
  | .resend _ light g => g.blocks.map (fun b => (light, b))
  | .hello _ f => (tens [linkSlot (helloFlit f)]).map (fun b => (false, b))
  | .time _ t1 t2 t3 light => (tens (atNine [] (linkSlot (timeFlit t1 t2 t3)))).map (fun b => (light, b))
  | .keyOffer _ data light => (tens ((keyFlits 0 data).map linkSlot)).map (fun b => (light, b))
  | .keyResponse _ ct light => (tens ((keyFlits 1 ct).map linkSlot)).map (fun b => (light, b))
  | .keyFinish _ sig light => (tens ((keyFlits 2 sig).map linkSlot)).map (fun b => (light, b))
  | _ => []

/-- The light of an output: for each of its blocks, the groups of the eight wavelengths. -/
def Out.waves (o : Out) : List (List (List Nat)) := o.blocks.map (fun b => blockWaves b.1 b.2)

end Sys2Proof.Machine
end

