-- ==== Sys2Proof/Machine/Links.lean ====
section
/-! DEFINITION. Links and the router: training, keys, tag groups and retry, credits, messages in transit and of the package's own
(10_fabric.md R282 to R321; 14_security.md R425 to R427). -/

namespace Sys2Proof.Machine

def rRTE_DROPS : Nat := 0xA00010

/-- A block's own part for the lasers, which no stop holds. -/
def Chip.onLasers (c : Chip) (f : Chip → Chip) : Chip := if c.held.contains .rte then c else f c.wake

/-- A block's own part for link `n`, where the link exists. -/
def Chip.onLink (c : Chip) (n : Nat) (f : Chip → Chip) : Chip := if n < 24 then c.live (.lnk n) f else c

/-! ### Credits (R301, R302) -/

/-- The credits a link's sender holds for a VC: an ADAPT VC may add shared ones. -/
def Link.holds (l : Link) (vc n : Nat) : Bool := n ≤ l.credit.getD vc 0 + (if vc % 3 = 0 then l.shared else 0)

/-- The shared credits among `n` that a message on a VC takes. -/
def Link.sharedOf (l : Link) (vc n : Nat) : Nat := n - min n (l.credit.getD vc 0)

def Link.spend (l : Link) (vc n : Nat) : Link :=
  { l with credit := setAt l.credit vc (fun x => x - (n - l.sharedOf vc n)), shared := l.shared - l.sharedOf vc n }

/-- Credits of a message that ends part-way taken back: `n` flits were not sent, the shared credits among them last (R301). -/
def Link.unspend (l : Link) (vc n shared : Nat) : Link :=
  { l with credit := setAt l.credit vc (fun x => x + (n - min n shared)), shared := l.shared + min n shared }

/-- The queue depth of an output (R306): the ADAPT credits in use downstream; nothing waits at an output (log 25). -/
def Link.depth (l : Link) : Nat :=
  sumOf ([0, 3, 6, 9].map (fun v => l.credit0 - l.credit.getD v 0)) + (l.shared0 - l.shared)

/-- An LCTL flit without contents. -/
def lctlNone : LctlFlit := { ackValid := false, nakValid := false, goingDown := false, ackSeq := 0, nakSeq := 0,
                             credit := List.replicate 12 0, shared := 0 }

/-- Two LCTL flits coalesced: the credits of both, the later acknowledgement and the later NAK (R299). -/
def lctlAdd (a b : LctlFlit) : LctlFlit :=
  { ackValid := a.ackValid || b.ackValid, nakValid := a.nakValid || b.nakValid, goingDown := a.goingDown || b.goingDown,
    ackSeq := if b.ackValid then b.ackSeq else a.ackSeq, nakSeq := if b.nakValid then b.nakSeq else a.nakSeq,
    credit := (upTo 12).map (fun v => a.credit.getD v 0 + b.credit.getD v 0), shared := a.shared + b.shared }

/-- What falls due on a link is coalesced into one LCTL, sent 8 cycles after the first of it (R299). -/
def Link.owe (l : Link) (now : Nat) (f : LctlFlit) : Link :=
  { l with owed := match l.owed with
      | some (g, t) => some (lctlAdd g f, t)
      | none => some (f, now + 8) }

def Chip.owe (c : Chip) (n : Nat) (f : LctlFlit) : Chip := c.putLink n ((c.link n).owe c.esc.now f)

/-- Buffer space freed: `n` flits of a VC returned, the shared ones it has in use first (DESIGN CHOICE, log 25). -/
def Link.giveBack (l : Link) (vc n : Nat) : Link × LctlFlit :=
  let sh := min n (lookD l.loans vc 0)
  ({ l with loans := if lookD l.loans vc 0 - sh = 0 then del l.loans vc else put l.loans vc (lookD l.loans vc 0 - sh) },
   { lctlNone with credit := setAt lctlNone.credit vc (fun _ => n - sh), shared := sh })

/-- The flits of a VC freed at a link's receiver, whose credits fall due. -/
def Chip.freeSpace (c : Chip) (n vc flits : Nat) : Chip :=
  if flits = 0 then c
  else
    let (l, f) := (c.link n).giveBack vc flits
    (c.putLink n l).owe n f

/-- The flits of a message in reception that stand in the input buffer. -/
def Partial.held (p : Partial) : Nat := if p.out = .hold then 1 + p.data.length else 0

/-- Flits of a VC that a link's receiver holds under credits. -/
def Link.heldIn (l : Link) (vc : Nat) : Nat :=
  sumOf ((lookD l.vcs vc []).map (fun t => if t.stale then 0 else 1 + t.data.length))
  + (match l.part with | some p => if p.vc = vc then p.held else 0 | none => 0)

/-- One more flit of a VC received: past its 72 dedicated ones, an ADAPT VC uses a shared one. -/
def Link.take (l : Link) (vc : Nat) : Link :=
  if vc % 3 = 0 && 72 ≤ l.heldIn vc - lookD l.loans vc 0 then { l with loans := put l.loans vc (lookD l.loans vc 0 + 1) } else l

/-! ### Sending (R288, R299, R319) -/

/-- The slots of a replay buffer that are taken, each flit still to come of a message on its way counted with a TAG of its own. -/
def Link.used (l : Link) : Nat := sumOf (l.replay.map Group.size) + 2 * l.feed

/-- Whether a LINK flit can go now: a group of its own has room, and none waits before it. -/
def Link.linkRoom (l : Link) : Bool := l.keys.isSome && l.used + 2 ≤ 4096

/-- Whether a message of `n` flits can start: no other is on its way, no LINK flit waits, and there is room beside the last 64 slots. -/
def Link.msgRoom (l : Link) (n : Nat) : Bool := l.keys.isSome && l.feed = 0 && l.later.isEmpty && l.used + 2 * n ≤ 4032

/-- Flits sent on a link in order: each group is sealed, kept for replay and sent; in RETRAIN it goes once the link is ACTIVE again. -/
def Chip.sendSlots (c : Chip) (n : Nat) (mark : Bool) (slots : List Slot) : Chip :=
  let l := c.link n
  match l.keys with
  | none => c
  | some k =>
    let gs := groupsOf k mark l.tx (ceilDiv slots.length 31) slots
    let c := c.putLink n { l with tx := l.tx + BitVec.ofNat 64 gs.length, replay := l.replay ++ gs,
                                  ackCyc := if l.replay.isEmpty then c.esc.now else l.ackCyc }
    if c.lnkState n = lsActive then gs.foldl (fun c g => c.emit (.group n (c.bit (lnkReg n 4) 4) g)) c else c

/-- The output that a LINK flit is. -/
def LinkFlit.out (n : Nat) : LinkFlit → Out
  | .lctl f => .lctl n f
  | .beat f => .beat n f
  | .elect f => .elect n f
  | .abort vc => .abort n vc

/-- A LINK flit sent in a group of its own, or kept until the replay buffer has room. -/
def Chip.sendLink (c : Chip) (n : Nat) (f : LinkFlit) : Chip :=
  let l := c.link n
  if l.later.isEmpty && l.linkRoom then (c.sendSlots n f.marks [linkSlot f.bits]).emit (f.out n)
  else c.putLink n { l with later := l.later ++ [f] }

/-- The first LINK flit that waits, sent where there is room. -/
def Chip.sendLater (c : Chip) (n : Nat) : Chip :=
  let l := c.link n
  match l.later with
  | f :: rest =>
    if c.lnkState n = lsActive && l.linkRoom then
      ((c.putLink n { l with later := rest }).sendSlots n f.marks [linkSlot f.bits]).emit (f.out n)
    else c
  | [] => c

/-- The LCTL that is due, sent where there is room. -/
def Chip.sendOwed (c : Chip) (n : Nat) : Chip :=
  let l := c.link n
  match l.owed with
  | some (f, t) =>
    if t ≤ c.esc.now && c.lnkState n = lsActive && l.later.isEmpty && l.linkRoom then
      (c.putLink n { l with owed := none }).sendLink n (.lctl f)
    else c
  | none => c

/-! ### Down (R296, R317, R318) -/

/-- Whether a message has no productive port, and only a lost port to escape by (R317). -/
def Chip.stranded (c : Chip) (lost : Nat) (head : Flit) : Bool :=
  let t := c.targetOf (headDest head)
  (c.productive t).isEmpty && (match c.dimsTo t with
    | d :: _ => c.aget (dimReg d (coordOf t d)) 29 1 = 1 && c.aget (dimReg d (coordOf t d)) 24 5 = lost
    | [] => false)

/-- The flits of messages that credits are returned for. -/
def creditFlits (l : List Transit) : Nat := sumOf (l.map (fun m => if m.stale then 0 else 1 + m.data.length))

/-- Stranded messages are discarded: those in the input VCs, those in reception, the package's own. -/
def Chip.dropStranded (c : Chip) (lost : Nat) : Chip :=
  let gone (c : Chip) (h : Flit) : Bool := !c.isOwnDest (headDest h) && c.stranded lost h
  let c := c.links.foldl (fun c e =>
    let n := e.1
    let c := (c.link n).vcs.foldl (fun c v =>
      let bad := v.2.filter (fun m => gone c m.head)
      if bad.isEmpty then c
      else
        let c := c.putLink n { c.link n with vcs := put (c.link n).vcs v.1 (v.2.filter (fun m => !gone c m.head)) }
        (c.freeSpace n v.1 (creditFlits bad)).bump rRTE_DROPS bad.length) c
    match (c.link n).part with
    | some p =>
      if p.out = .hold && gone c p.head then
        ((c.putLink n { c.link n with part := some { p with out := .lost } }).freeSpace n p.vc p.held).bump rRTE_DROPS 1
      else c
    | none => c) c
  { c with inject := { c.inject with q := mapVals c.inject.q (fun _ ms => ms.filter (fun m => !gone c (headOf m 0))) } }.bump rRTE_DROPS
    (sumOf (c.inject.q.map (fun (e : Nat × List Msg) => countIf (fun m => gone c (headOf m 0)) e.2)))

/-- A message on its way on an output ends there (R318): MSG_ABORT in its place, and the credits of the flits that were not sent. -/
def Chip.abortOut (c : Chip) (q vc shared : Nat) : Chip :=
  let l := c.link q
  (c.putLink q { (l.unspend vc l.feed shared) with feed := 0 }).sendLink q (.abort vc)

/-- The message in reception on a link ends part-way: its buffer space is freed, and an output that it has reached is told. -/
def Chip.abortPart (c : Chip) (n : Nat) : Chip :=
  match (c.link n).part with
  | none => c
  | some p =>
    let c := (c.putLink n { c.link n with part := none }).freeSpace n p.vc p.held
    match p.out with
    | .port q chan sh => c.abortOut q (3 * headCls p.head + chan) sh
    | _ => c

/-- Messages on their way to an output that has gone DOWN: what is still to come of them is discarded. -/
def Chip.loseOutput (c : Chip) (q : Nat) : Chip :=
  { c with links := mapVals c.links (fun _ l => { l with part := l.part.map (fun p => match p.out with
      | .port x _ _ => if x = q then { p with out := .lost } else p
      | _ => p) }) }

/-- A link goes DOWN: transmitter dark, keys zeroised, replay contents and credits discarded; RTE drops the port and says so, with an
error record but at the peer of a commanded DOWN (R317, R319). Messages received whole are still routed, and return no credits; one in
reception ends. -/
def Chip.linkDown (c : Chip) (n : Nat) (planned : Bool) : Chip :=
  let told := planned && (c.link n).peerClosing
  let c := c.abortPart n
  let l := c.link n
  let c := (c.setLnkState n lsDown).bump (lnkReg n 0x30) 1
  let c := ((c.setBit (lnkReg n 4) 4 false).setBit (lnkReg n 4) 7 false).set (lnkReg n 4) 8 8 0
  let c := (c.setBit (lnkReg n 4) 16 planned).emit (.transmitter n false)
  let c := c.putLink n { vcs := mapVals l.vcs (fun _ ms => ms.map (fun m => { m with stale := true })), turn := l.turn, bad := l.bad }
  let c := (c.loseOutput n).setBit rRTE_STATUS 2 true
  (if told then c else c.report { cls := .route, blk := .rte }).dropStranded n

/-- The DOWN of an ACTIVE link is planned where its peer said so, or where it was commanded here and GOING_DOWN has been sent. -/
def Chip.lnkPlanned (c : Chip) (n : Nat) : Bool := (c.link n).peerClosing || (c.link n).said

/-- LINK_CMD.DOWN takes effect: once its current message has gone, GOING_DOWN falls due, and once every group is acknowledged the link goes
down (R319). -/
def Chip.tryClose (c : Chip) (n : Nat) : Chip :=
  let l := c.link n
  if !l.closing || l.feed != 0 then c
  else if !l.said then (c.putLink n { l with said := true }).owe n { lctlNone with goingDown := true }
  else if l.owed.isNone && l.later.isEmpty && l.replay.isEmpty then c.linkDown n true
  else c

/-! ### Training (R284, R296 to R298) -/

def Chip.enterLock (c : Chip) (n : Nat) : Chip := ((c.setLnkState n lsLock).set (lnkReg n 4) 8 8 0).setBit (lnkReg n 4) 4 false

/-- CTL.ENABLE written. A link that is disabled while it trains or runs goes DOWN (DEDUCED, log 25). -/
def Chip.linkEnable (c : Chip) (n : Nat) (on : Bool) : Chip :=
  let c := c.setBit (lnkReg n 0) 0 on
  let st := c.lnkState n
  if on then (if st = lsDisabled && !c.card then c.setLnkState n lsDark else c)
  else if st = lsDark then c.setLnkState n lsDisabled
  else if st = lsDisabled || st = lsDown then c
  else c.linkDown n false

/-- Whether a link's transmitter may emit: it is neither DISABLED nor DOWN, and its laser is good. -/
def Chip.mayLight (c : Chip) (n : Nat) : Bool := c.lnkState n != lsDisabled && c.lnkState n != lsDown && c.bit (lnkReg n 4) 6

/-- Light for 5 µs: a transmitter that loss of signal, or DARK, keeps dark is turned on, and DARK is left. -/
def Chip.lightOn (c : Chip) (n : Nat) : Chip :=
  let dark := c.lnkState n = lsDark || c.bit (lnkReg n 4) 5
  let c := c.setBit (lnkReg n 4) 5 false
  let c := if c.mayLight n && dark then c.emit (.transmitter n true) else c
  if c.lnkState n = lsDark && c.bit (lnkReg n 4) 6 then c.enterLock n else c

/-- No light for 1 µs. -/
def Chip.lightOff (c : Chip) (n : Nat) : Chip :=
  let c := (c.setBit (lnkReg n 4) 5 true).emit (.transmitter n false)
  if c.lnkState n = lsActive || c.lnkState n = lsRetrain then c.linkDown n (c.lnkPlanned n) else c

/-- The six links of a laser. -/
def laserLinks (k : Nat) : List Nat := if k < 4 then (upTo 6).map (fun i => 6 * k + i) else []

def Chip.laserLost (c : Chip) (k : Nat) : Chip :=
  (laserLinks k).foldl (fun c n =>
    let c := c.setBit (lnkReg n 4) 6 false
    if c.lnkState n = lsDisabled || c.lnkState n = lsDown then c else c.linkDown n false) c

def Chip.laserOk (c : Chip) (k : Nat) : Chip := (laserLinks k).foldl (fun c n => c.setBit (lnkReg n 4) 6 true) c

/-- A probe burst of a transmitter that is dark for want of light. -/
def Chip.probeBurst (c : Chip) (n : Nat) : Chip :=
  if c.mayLight n && (c.lnkState n = lsDark || c.bit (lnkReg n 4) 5) then c.emit (.probe n) else c

/-- The package's HELLO (R295, R301, R390). -/
def Chip.ownHello (c : Chip) (n : Nat) : HelloFlit :=
  { node := c.node, port := BitVec.ofNat 5 n, lightOk := !(c.link n).standard, dedicated := 72, shared := 3232 }

/-- Block lock: `locked` says on which wavelengths. With all eight, LOCK goes on to PARAM and sends its two HELLOs (`standard` says that this end
asks for standard FEC), and RETRAIN becomes ACTIVE again, with the FEC it had unless it fell back (R297); the groups of the replay
buffer, of which none can have arrived since RETRAIN began, are sent again, unchanged (DEDUCED from R299, log 25). With fewer the link
stays, and its time runs out. -/
def Chip.lockDone (c : Chip) (n : Nat) (locked : Byte) (low : Bool) : Chip :=
  let st := c.lnkState n
  if st != lsLock && st != lsRetrain then c
  else
    let c := c.set (lnkReg n 4) 8 8 locked.toNat
    if locked != 255 then c
    else if st = lsLock then
      let c := (c.putLink n { c.link n with hellos := [], standard := !(low && c.bit (lnkReg n 0) 1) }).setLnkState n lsParam
      (c.emit (.hello n (c.ownHello n))).emit (.hello n (c.ownHello n))
    else
      let c := (c.setLnkState n lsActive).putLink n { c.link n with ackCyc := c.esc.now }
      (c.link n).replay.foldl (fun c g => c.emit (.resend n (c.bit (lnkReg n 4) 4) g)) c

/-- Whether SEC establishes link keys: not in its error state, nor after an invasive debug unlock (14_security.md R433, R435). -/
def Chip.secServes (c : Chip) : Bool := !c.held.contains .sec && c.sec.testsOk && !c.bit 0x30000 5 && !c.bit 0x30000 6

/-- A failed check of key establishment (R425). -/
def Chip.keyFailed (c : Chip) (n : Nat) : Chip := (c.linkDown n false).report { cls := .security, blk := .sec }

/-- The first `n` bytes of an opaque string, which has that length in the standard. -/
def sized (n : Nat) (l : List Byte) : List Byte := (l ++ zeros n).take n

/-- The bytes of an OFFER: NONCE, ANCHOR, ANCHOR_PK, IDENTITY_PK, ENDORSEMENT, EK. -/
def offerBytes (o : Offer) : List Byte :=
  bytesBE 32 o.nonce.toNat ++ [o.anchor] ++ sized 2592 o.anchorPk ++ sized 2592 o.identityPk ++ sized 4627 o.endorsement ++ sized 1568 o.ek

/-- The package's own OFFER on a link, under anchor slot 0, Utzan's device root (R425). -/
def Chip.ownOffer (c : Chip) (n : Nat) : Offer :=
  ⟨(c.link n).nonce, 0, Config.anchorPk, Config.identityPk c.fuses.seed, Config.endorsement c.fuses.seed, (c.link n).ek, true⟩

/-- The links whose key establishment SEC runs. -/
def Chip.keyRuns (c : Chip) : Nat := countIf (fun n => c.lnkState n = lsKey && (c.link n).begun) (upTo 24)

/-- A RESPONSE to the peer's OFFER: an encapsulation to its EK. -/
def Chip.respond (c : Chip) (n : Nat) (o : Offer) : Chip :=
  let (r, c) := c.draw
  let ct := sized 1568 (Config.encapsCt o.ek r)
  (c.putLink n { c.link n with offer := some o, ct := ct, secret := Config.encapsSecret o.ek r }).emit (.keyResponse n ct (c.bit (lnkReg n 4) 4))

/-- The peer's OFFER checked: its anchor's hash is a fused one that is not revoked, and the endorsement verifies. -/
def Chip.offerCheck (c : Chip) (n : Nat) (o : Offer) : Chip :=
  if look c.fuses.anchors o.anchor.toNat != some (Config.sha3 (sized 2592 o.anchorPk)) || 8 ≤ o.anchor.toNat
    || c.fuses.anchorsRevoked.contains o.anchor.toNat || !o.endorsed then c.keyFailed n
  else c.respond n o

/-- SEC takes up a link in KEY: a fresh key pair and nonce, the OFFER, and what the peer's OFFER asks if it has come. -/
def Chip.keyBegin (c : Chip) (n : Nat) : Chip :=
  if !c.secServes then c.linkDown n false
  else
    let (nonce, c) := c.draw
    let (seed, c) := c.draw
    let c := c.putLink n { c.link n with begun := true, nonce := nonce.setWidth 256, ek := sized 1568 (Config.ephemeralEk seed) }
    let c := c.emit (.keyOffer n (offerBytes (c.ownOffer n)) (c.bit (lnkReg n 4) 4))
    match (c.link n).offer with
    | some o => c.offerCheck n o
    | none => c

/-- KEY begins: at once where SEC runs fewer than four links. -/
def Chip.enterKey (c : Chip) (n : Nat) : Chip :=
  let c := (c.putLink n { c.link n with begun := false, offer := none, resp := none }).setLnkState n lsKey
  if c.keyRuns < 4 then c.keyBegin n else c

/-- A link that waits in KEY is taken up as soon as one of SEC's four runs has ended: in a cycle in which no command runs (DESIGN CHOICE,
log 25). -/
def Chip.keyNext (c : Chip) : Chip :=
  match (upTo 24).find? (fun n => c.lnkState n = lsKey && !(c.link n).begun) with
  | some n => if c.keyRuns < 4 then c.keyBegin n else c
  | none => c

/-- A HELLO in PARAM: the second one decides the FEC mode and gives the credits. -/
def Chip.helloIn (c : Chip) (n : Nat) (f : HelloFlit) : Chip :=
  if c.lnkState n != lsParam then c
  else
    let c := c.setWord (lnkReg n 8) (BitVec.ofNat 32 (f.node.toNat + f.port.toNat * 2 ^ 24 + f.lightOk.toNat * 2 ^ 29))
    if f.dedicated < 72 then c.linkDown n false
    else
      let l := c.link n
      let hs := l.hellos ++ [f]
      if hs.length < 2 then c.putLink n { l with hellos := hs }
      else
        let light := !l.standard && hs.all (fun h => h.lightOk)
        let ded := List.replicate 12 f.dedicated
        let c := c.putLink n { l with hellos := hs, credit := ded, credit0 := f.dedicated, shared := f.shared, shared0 := f.shared }
        (c.setBit (lnkReg n 4) 4 light).enterKey n

/-! ### Key establishment (R425, R426) -/

/-- Whether the fragments came in order, without a gap or a repeat. -/
def fragsWhole (f : Frags) : Bool := 0 < f.count && f.indices == upTo f.count

/-- The transcript hash: the OFFER and the RESPONSE of the end with the lower node ID first. -/
def Chip.transcript (c : Chip) (n : Nat) : BitVec 384 :=
  let l := c.link n
  let mine := offerBytes (c.ownOffer n) ++ l.ct
  let theirs := match l.offer, l.resp with
    | some o, some (ct, _) => offerBytes o ++ sized 1568 ct
    | _, _ => []
  Config.sha3 (if c.node.toNat < c.get (lnkReg n 8) 0 24 then mine ++ theirs else theirs ++ mine)

/-- An OFFER, held until SEC takes the link up. -/
def Chip.offerIn (c : Chip) (n : Nat) (fr : Frags) (o : Offer) : Chip :=
  let l := c.link n
  if c.lnkState n != lsKey || l.offer.isSome then c
  else if !fragsWhole fr || !c.secServes then c.linkDown n false
  else if l.begun then c.offerCheck n o
  else c.putLink n { l with offer := some o }

/-- A RESPONSE: the secret that the package decapsulates; the FINISH goes out. -/
def Chip.responseIn (c : Chip) (n : Nat) (fr : Frags) (ct : List Byte) (secret : BitVec 256) : Chip :=
  let l := c.link n
  if c.lnkState n != lsKey || l.offer.isNone || l.resp.isSome || !l.begun then c
  else if !fragsWhole fr || !c.secServes then c.linkDown n false
  else
    let c := c.putLink n { l with resp := some (ct, secret) }
    c.emit (.keyFinish n (Config.sign c.fuses.seed (bytesBE 48 (c.transcript n).toNat)) (c.bit (lnkReg n 4) 4))

/-- Bytes `off` to `off + len − 1` of the 72 derived bytes. -/
def derived (k : BitVec 1024) (off len : Nat) : Nat := bitsOf k.toNat (1024 - 8 * (off + len)) (8 * len)

/-- The time of a link's clock in 1/16 ns: 12.8 units a cycle (R312). -/
def Chip.time16 (c : Chip) : Nat := c.esc.now * 64 / 5

/-- A TIME flit sent: this end's time, the echo of the peer's and the time since it arrived (R295). -/
def Chip.sendTime (c : Chip) (n echo turn : Nat) : Chip := c.emit (.time n c.time16 echo turn (c.bit (lnkReg n 4) 4))

/-- A FINISH: the keys and salts of both directions, and DELAY. `l.secret` is the one the package encapsulated. -/
def Chip.finishIn (c : Chip) (n : Nat) (fr : Frags) (sigOk : Bool) : Chip :=
  let l := c.link n
  match l.resp with
  | none => c
  | some (_, theirs) =>
    if c.lnkState n != lsKey then c
    else if !fragsWhole fr || !c.secServes then c.linkDown n false
    else if !sigOk then c.keyFailed n
    else
      let low := decide (c.node.toNat < c.get (lnkReg n 8) 0 24)
      let ss := if low then l.secret.toNat * 2 ^ 256 + theirs.toNat else theirs.toNat * 2 ^ 256 + l.secret.toNat
      let k := Config.kmac (BitVec.ofNat 512 ss) "tronal link" (bytesBE 48 (c.transcript n).toNat)
      let up : BitVec 256 := BitVec.ofNat 256 (derived k 0 32)
      let dn : BitVec 256 := BitVec.ofNat 256 (derived k 32 32)
      let us : Word := BitVec.ofNat 32 (derived k 64 4)
      let ds : Word := BitVec.ofNat 32 (derived k 68 4)
      let keys : LinkKeys := if low then ⟨up, dn, us, ds⟩ else ⟨dn, up, ds, us⟩
      let c := c.putLink n { l with keys := some keys, tx := 0, rx := 0, delays := [] }
      ((c.setBit (lnkReg n 4) 7 true).setLnkState n lsDelay).sendTime n 0 0

/-- A TIME exchange: `t1` the peer's send time, `t2` the echo of this end's, `t3` the turnaround, with the arrival time, in 1/16 ns. The
sixteenth gives the delay, and the link is ACTIVE. -/
def Chip.timeIn (c : Chip) (n t1 t2 t3 arrival : Nat) : Chip :=
  if c.lnkState n != lsDelay then c
  else
    let l := c.link n
    let ds := l.delays ++ [(arrival - t2 - t3) / 2]
    if ds.length < 16 then (c.putLink n { l with delays := ds }).sendTime n t1 (c.time16 - arrival)
    else
      let d := ds.foldl min (ds.headD 0)
      let c := (c.set (lnkReg n 0xC) 0 24 d).putLink n { l with delays := ds, ackCyc := c.esc.now, fails := [] }
      c.setLnkState n lsActive

/-! ### RETRAIN, timeouts, DOWN's end -/

def Chip.retrain (c : Chip) (n : Nat) : Chip :=
  if c.lnkState n != lsActive then c
  else (c.setLnkState n lsRetrain).set (lnkReg n 4) 8 8 0

def Chip.trainTimeout (c : Chip) (n : Nat) : Chip :=
  let st := c.lnkState n
  if st = lsLock || st = lsParam || st = lsKey || st = lsDelay || st = lsRetrain then c.linkDown n (st = lsRetrain && c.lnkPlanned n) else c

def Chip.downHold (c : Chip) (n : Nat) : Chip :=
  if c.lnkState n != lsDown then c
  else c.setLnkState n (if c.bit (lnkReg n 0) 0 && !c.card then lsDark else lsDisabled)

/-- CMD.DOWN: no message starts any more, the current one finishes, GOING_DOWN is sent, and the link goes down once every group is
acknowledged. -/
def Chip.cmdDown (c : Chip) (n : Nat) : Chip :=
  if c.lnkState n != lsActive then c else (c.putLink n { c.link n with closing := true }).tryClose n

/-! ### Reception and retry (R288, R289, R299) -/

/-- A NAK for the next group expected: later groups are discarded until it arrives again; where it fails again it is NAKed again. -/
def Chip.nak (c : Chip) (n : Nat) (again : Bool) : Chip :=
  let l := c.link n
  if l.waiting && !again then c
  else
    (((c.putLink n { l with waiting := true }).bump (lnkReg n 0x28) 1).event (.lnk n) n 0x03 1 none).owe n
      { lctlNone with nakValid := true, nakSeq := l.rx.setWidth 16 }

/-- A tag that fails is an uncorrectable block too (R297); three within one second take the link DOWN (R289). -/
def Chip.tagFailed (c : Chip) (n : Nat) (again : Bool) : Chip :=
  let l := c.link n
  let fs := (l.fails ++ [c.esc.now]).filter (fun t => c.esc.now < t + 1250000000)
  let c := (c.bump (lnkReg n 0x2C) 1).putLink n { l with fails := fs, bad := l.bad + 1 }
  if fs.length ≥ 3 then
    ((c.linkDown n false).report { cls := .security, blk := .lnk n, inst := n }).report { cls := .link, blk := .lnk n, inst := n }
  else c.nak n again

/-- A message in reception that is whole: a transit message enters its input VC; one for the package goes to its ingress, whose rows carry
it, and its buffer space is free at once; in a stopped package it waits in its VC (16_observation.md R471). One that was sent on as it came
has left. -/
def Chip.closePart (c : Chip) (n : Nat) : Chip :=
  let l := c.link n
  match l.part with
  | none => c
  | some p =>
    if p.data.length < headLen p.head then c
    else
      let c := c.putLink n { l with part := none }
      match p.out with
      | .lost => c
      | .port q chan _ => (c.emit (.transit q chan { head := withChan p.head chan, data := p.data })).tryClose q
      | .hold =>
        if c.isOwnDest (headDest p.head) && !c.stopped then
          (c.freeSpace n p.vc (1 + p.data.length)).emit (.deliver n (msgOf p.head p.data))
        else c.putLink n { c.link n with vcs := put l.vcs p.vc (lookD l.vcs p.vc [] ++ [{ head := p.head, data := p.data }]) }

/-- A DATA flit of a message that is sent on as it comes: it leaves at once. -/
def Chip.passOn (c : Chip) (n vc q : Nat) (x : Flit) : Chip :=
  let c := c.putLink q { c.link q with feed := (c.link q).feed - 1 }
  (((c.sendSlots q false [⟨1, x⟩]).count (96 + q) 1).event (.lnk q) q 0x02 1 none).freeSpace n vc 1

/-- One slot of a verified group: HEAD opens a message, DATA extends it; a LINK flit has a row of its own. A HEAD whose LEN is above 64
opens none (R290; DEDUCED, log 25): its space is free at once, and it is a malformed message where it is for the package. -/
def Chip.slotIn (c : Chip) (n : Nat) (s : Slot) : Chip :=
  let l := c.link n
  let got (c : Chip) : Chip := (c.count (72 + n) 1).event (.lnk n) n 0x01 1 none
  if s.kind = 2 then
    let c := got (c.putLink n (l.take (headVc s.bits)))
    if 64 < headLen s.bits then
      (c.freeSpace n (headVc s.bits) 1).bump (if c.isOwnDest (headDest s.bits) then rRTE_BAD_MSGS else rRTE_DROPS) 1
    else (c.putLink n { c.link n with part := some { vc := headVc s.bits, head := s.bits, data := [] } }).closePart n
  else if s.kind = 1 then
    match l.part with
    | some p =>
      let c := got (c.putLink n { l.take p.vc with part := some { p with data := p.data ++ [s.bits] } })
      (match p.out with
      | .hold => c
      | .port q _ _ => c.passOn n p.vc q s.bits
      | .lost => c.freeSpace n p.vc 1).closePart n
    | none => c
  else c

/-- A TAG flit closes a group: the next expected one with a good tag is released and acknowledged; any other is NAKed or discarded. -/
def Chip.tagIn (c : Chip) (n : Nat) (g : TagIn) (seq : Quad) (tagOk : Bool) : Chip :=
  let c := c.bump (lnkReg n 0x20) g.fixed
  let l := c.link n
  if c.lnkState n != lsActive then c
  else if !tagOk then c.tagFailed n (seq = l.rx)
  else if seq != l.rx then c.nak n false
  else
    let c := c.putLink n { l with rx := l.rx + 1, waiting := false }
    (g.slots.foldl (fun c s => c.slotIn n s) c).owe n { lctlNone with ackValid := true, ackSeq := seq.setWidth 16 }

/-- The groups from a NAKed one on are sent again, unchanged; the eighth NAK of one group retrains the link. -/
def Chip.nakIn (c : Chip) (n : Nat) (seq : BitVec 16) : Chip :=
  let l := c.link n
  let again := l.replay.dropWhile (fun g => g.seq.setWidth 16 != seq)
  match again with
  | [] => c.bump (lnkReg n 0x28) 1
  | g :: _ =>
    let mark (x : Group) : Group := if x.seq = g.seq then { x with naks := x.naks + 1 } else x
    let c := ((c.bump (lnkReg n 0x28) 1).event (.lnk n) n 0x03 1 none).putLink n { l with replay := l.replay.map mark }
    if g.naks + 1 ≥ 8 then c.retrain n else again.foldl (fun c g => c.emit (.resend n (c.bit (lnkReg n 4) 4) g)) c

/-- An LCTL flit (R299, R301). -/
def Chip.lctlIn (c : Chip) (n : Nat) (f : LctlFlit) : Chip :=
  if c.lnkState n != lsActive then c
  else
    let l := c.link n
    let acked := f.ackValid && l.replay.any (fun g => g.seq.setWidth 16 == f.ackSeq)
    let left := if acked then (l.replay.dropWhile (fun g => g.seq.setWidth 16 != f.ackSeq)).drop 1 else l.replay
    let l := { l with replay := left, ackCyc := if acked then c.esc.now else l.ackCyc,
                      credit := (upTo 12).map (fun v => l.credit.getD v 0 + f.credit.getD v 0), shared := l.shared + f.shared,
                      peerClosing := l.peerClosing || f.goingDown }
    let c := c.putLink n l
    let c := if f.nakValid then c.nakIn n f.nakSeq else c
    (c.sendLater n).tryClose n

/-- 64 µs with groups outstanding and no ACK_SEQ advancing. -/
def Chip.replayLate (c : Chip) (n : Nat) : Chip :=
  let l := c.link n
  if !l.replay.isEmpty && l.ackCyc + 80000 ≤ c.esc.now then c.retrain n else c

/-- A block that RS cannot correct: the first affected group, `seq`, is NAKed. -/
def Chip.badBlock (c : Chip) (n : Nat) (seq : Quad) : Chip :=
  let c := (c.bump (lnkReg n 0x24) 1).putLink n { c.link n with bad := (c.link n).bad + 1 }
  if c.lnkState n = lsActive then c.nak n (seq = (c.link n).rx) else c

/-- More than 16 uncorrectable blocks of one beat under light FEC: standard FEC until the next DOWN (R297). -/
def Chip.fecFallback (c : Chip) (n : Nat) : Chip :=
  if c.lnkState n = lsActive && c.bit (lnkReg n 4) 4 && 16 < (c.link n).bad then
    ((c.putLink n { c.link n with standard := true }).setBit (lnkReg n 4) 4 false).retrain n
  else c

/-- MSG_ABORT: the partial message of a VC is discarded, its credits are returned, and the abort goes where the message went (R318). -/
def Chip.msgAbort (c : Chip) (n vc : Nat) : Chip :=
  match (c.link n).part with
  | some p => if p.vc = vc && c.lnkState n = lsActive then c.abortPart n else c
  | none => c

/-! ### The router (R298, R302, R306) -/

/-- RTE_CTL.ENABLE written: at a write of 1 with no ACTIVE link, the package is in the card configuration. The configuration is decided
where ENABLE rises: a write of 1 to an ENABLE that is 1 already decides nothing again (01_architecture.md R33; DESIGN CHOICE, log 25). -/
def Chip.rteEnable (c : Chip) (on : Bool) : Chip :=
  if !on then c.setBit rRTE_CTL 0 false
  else if c.bit rRTE_CTL 0 then c
  else
    let c := c.setBit rRTE_CTL 0 true
    if (upTo 24).any (fun n => c.lnkState n = lsActive) then c
    else (upTo 24).foldl (fun c n =>
      if c.lnkState n = lsDisabled then c else (c.setLnkState n lsDisabled).emit (.transmitter n false)) (c.setBit rRTE_STATUS 1 true)

/-- Whether an output can start a message now: credits for all of it, and room. -/
def Chip.canSend (c : Chip) (p vc n : Nat) : Bool := (c.link p).holds vc n && !(c.link p).closing && (c.link p).msgRoom n

/-- Where a message goes: to the package itself, out by a port and channel (`tie`: the rotating pointer chose it), nowhere yet, nowhere. -/
inductive Choice
  | own
  | port (p chan : Nat) (tie : Bool)
  | wait
  | drop
  deriving DecidableEq, Repr

/-- The router's choice for a message of `n` flits of a class (R304, R306, R307): `inp` and `chan` say where it came from, `ptr` is its input's
rotating pointer. -/
def Chip.choose (c : Chip) (dest : NodeId) (cls n inp chan ptr : Nat) : Choice :=
  if c.isOwnDest dest then .own
  else
    let t := c.targetOf dest
    let prod := c.productive t
    let ok := prod.filter (fun p => c.canSend p (3 * cls) n)
    let least := ok.foldl (fun a p => match a with
      | none => some (c.link p).depth
      | some d => some (min d (c.link p).depth)) none
    let ties := ok.filter (fun p => some (c.link p).depth == least)
    match (match ties.find? (fun p => ptr ≤ p) with | some p => some p | none => ties.head?) with
    | some p => .port p 0 (decide (1 < ties.length))
    | none =>
      match c.escape t inp chan with
      | some (p, e) => if c.canSend p (3 * cls + e) n then .port p e false else .wait
      | none => if prod.isEmpty then .drop else .wait

/-- The start of a message on an output: credits for all `n` flits spent, the flits there are sent, a hop on an ESC channel counted. -/
def Chip.startOut (c : Chip) (p chan cls n : Nat) (slots : List Slot) : Chip :=
  let c := c.putLink p { ((c.link p).spend (3 * cls + chan) n) with feed := n - slots.length }
  let c := ((c.sendSlots p false slots).count (96 + p) slots.length).event (.lnk p) p 0x02 slots.length none
  if chan = 0 then c else c.bump 0xA00018 1

/-- A whole message sent: its header with the channel of the hop, and its DATA flits. -/
def Chip.sendTransit (c : Chip) (p chan : Nat) (m : Transit) : Chip :=
  let h := withChan m.head chan
  (c.startOut p chan (headCls h) (1 + m.data.length) (⟨2, h⟩ :: m.data.map (fun d => ⟨1, d⟩))).emit (.transit p chan { head := h, data := m.data })

/-- The rotating pointer after a tie. -/
def Chip.turnTo (c : Chip) (inp p : Nat) (tie : Bool) : Chip :=
  if !tie then c
  else if inp = ownPort then { c with inject := { c.inject with turn := (p + 1) % 24 } }
  else c.putLink inp { c.link inp with turn := put (c.link inp).turn 0 ((p + 1) % 24) }

/-- The head message of an input VC, received whole: sent on, delivered to the package itself, discarded, or left waiting. -/
def Chip.routeWhole (c : Chip) (inp vc : Nat) (m : Transit) (rest : List Transit) : Chip :=
  let leave (c : Chip) : Chip :=
    let l := c.link inp
    (c.putLink inp { l with vcs := if rest.isEmpty then del l.vcs vc else put l.vcs vc rest }).freeSpace inp vc (creditFlits [m])
  match c.choose (headDest m.head) (headCls m.head) (1 + m.data.length) inp (vc % 3) (lookD (c.link inp).turn 0 0) with
  | .own => if c.stopped then c else (leave c).emit (.deliver inp (msgOf m.head m.data))
  | .port p chan tie => ((leave c).sendTransit p chan m).turnTo inp p tie
  | .wait => c
  | .drop => (leave c).bump rRTE_DROPS 1

/-- A message whose header has arrived and that has no other before it is sent on as it comes (cut-through, R306): credits are held for all of
it before it starts (R302). -/
def Chip.routePart (c : Chip) (inp : Nat) (p : Partial) : Chip :=
  let n := 1 + headLen p.head
  match c.choose (headDest p.head) (headCls p.head) n inp (p.vc % 3) (lookD (c.link inp).turn 0 0) with
  | .own | .wait => c
  | .port q chan tie =>
    let sh := if chan = 0 then (c.link q).sharedOf (3 * headCls p.head) n else 0
    let c := (c.putLink inp { c.link inp with part := some { p with out := .port q chan sh } }).freeSpace inp p.vc (1 + p.data.length)
    (c.startOut q chan (headCls p.head) n (⟨2, withChan p.head chan⟩ :: p.data.map (fun d => ⟨1, d⟩))).turnTo inp q tie
  | .drop => ((c.putLink inp { c.link inp with part := some { p with out := .lost } }).freeSpace inp p.vc p.held).bump rRTE_DROPS 1

/-- The first own message of a class, routed like any other (R304, R306): `m` leaves the injection queue, is delivered to the package itself, or
waits. -/
def Chip.routeOwn (c : Chip) (cls : Nat) : Chip :=
  match lookD c.inject.q cls [] with
  | [] => c
  | m :: rest =>
    let gone : Chip := { c with inject := { c.inject with q := if rest.isEmpty then del c.inject.q cls else put c.inject.q cls rest } }
    let h := headOf m 0
    let t : Transit := { head := h, data := flitsOfBytes m.data }
    match c.choose m.dest cls (1 + t.data.length) ownPort 0 c.inject.turn with
    | .own => gone.emit (.deliver ownPort m)
    | .port p chan tie => (gone.sendTransit p chan t).turnTo ownPort p tie
    | .wait => c
    | .drop => gone.bump rRTE_DROPS 1

/-- The head of an input VC (R306), or of an injection queue. -/
def Chip.routeHead (c : Chip) (inp vc : Nat) : Chip :=
  if inp = ownPort then (if c.stopped then c else c.routeOwn (vc / 3))
  else match lookD (c.link inp).vcs vc [], (c.link inp).part with
    | m :: rest, _ => c.routeWhole inp vc m rest
    | [], some p => if p.vc = vc && p.out = .hold then c.routePart inp p else c
    | [], none => c

/-- The router's own work of a cycle: LINK flits and the LCTLs that are due, DOWNs that are commanded, the package's own messages. -/
def Chip.rteCycle (c : Chip) : Chip :=
  if c.held.contains .rte then c
  else
    let c := c.activeLinks.foldl (fun c n => ((c.sendLater n).sendOwed n).tryClose n) c
    if !c.bit rRTE_CTL 0 || c.stopped then c
    else (upTo 4).foldl (fun c k => (lookD c.inject.q k []).foldl (fun c _ => c.routeOwn k) c) c

/-! ### Meanings -/

def execLinkEnable (who : Who) (link : Nat) (val : Word) (s : State) : Host.Outcome State Fault Refusal :=
  .next { s with chip := if link < 24 then s.chip.regCmd who (lnkReg link 0) (fun c => c.linkEnable link (bitOf val.toNat 0)) else s.chip }

def execLinkCmdRetrain (who : Who) (link : Nat) (s : State) : Host.Outcome State Fault Refusal :=
  .next { s with chip := if link < 24 then s.chip.regCmd who (lnkReg link 0x10) (fun c => c.retrain link) else s.chip }

def execLinkCmdDown (who : Who) (link : Nat) (s : State) : Host.Outcome State Fault Refusal :=
  .next { s with chip := if link < 24 then s.chip.regCmd who (lnkReg link 0x10) (fun c => c.cmdDown link) else s.chip }

def execLightDetected (link : Nat) (s : State) : Host.Outcome State Fault Refusal :=
  .next { s with chip := s.chip.onLink link (fun c => c.lightOn link) }

def execLossOfSignal (link : Nat) (s : State) : Host.Outcome State Fault Refusal :=
  .next { s with chip := s.chip.onLink link (fun c => c.lightOff link) }

def execLaserLoss (laser : Nat) (s : State) : Host.Outcome State Fault Refusal :=
  .next { s with chip := s.chip.onLasers (fun c => c.laserLost laser) }

def execLaserOkSet (laser : Nat) (s : State) : Host.Outcome State Fault Refusal :=
  .next { s with chip := s.chip.onLasers (fun c => c.laserOk laser) }

def execProbeBurst (link : Nat) (s : State) : Host.Outcome State Fault Refusal :=
  .next { s with chip := s.chip.onLink link (fun c => c.probeBurst link) }

def execLinkLockDone (link : Nat) (locked : Byte) (lowErrors : Bool) (s : State) : Host.Outcome State Fault Refusal :=
  .next { s with chip := s.chip.onLink link (fun c => c.lockDone link locked lowErrors) }

def execHello (link : Nat) (f : HelloFlit) (s : State) : Host.Outcome State Fault Refusal :=
  .next { s with chip := s.chip.onLink link (fun c => c.helloIn link f) }

def execKeyOffer (link : Nat) (fr : Frags) (o : Offer) (s : State) : Host.Outcome State Fault Refusal :=
  .next { s with chip := s.chip.onLink link (fun c => c.offerIn link fr o) }

def execKeyResponse (link : Nat) (fr : Frags) (ct : List Byte) (secret : BitVec 256) (s : State) : Host.Outcome State Fault Refusal :=
  .next { s with chip := s.chip.onLink link (fun c => c.responseIn link fr ct secret) }

def execKeyFinish (link : Nat) (fr : Frags) (sigOk : Bool) (s : State) : Host.Outcome State Fault Refusal :=
  .next { s with chip := s.chip.onLink link (fun c => c.finishIn link fr sigOk) }

def execTime (link t1 t2 t3 arrival : Nat) (s : State) : Host.Outcome State Fault Refusal :=
  .next { s with chip := s.chip.onLink link (fun c => c.timeIn link t1 t2 t3 arrival) }

def execLinkTrainTimeout (link : Nat) (s : State) : Host.Outcome State Fault Refusal :=
  .next { s with chip := s.chip.onLink link (fun c => c.trainTimeout link) }

def execDownHoldExpiry (link : Nat) (s : State) : Host.Outcome State Fault Refusal :=
  .next { s with chip := s.chip.onLink link (fun c => c.downHold link) }

def execTag (link : Nat) (g : TagIn) (seq : Quad) (tagOk : Bool) (s : State) : Host.Outcome State Fault Refusal :=
  .next { s with chip := s.chip.onLink link (fun c => c.tagIn link g seq tagOk) }

def execLctl (link : Nat) (f : LctlFlit) (s : State) : Host.Outcome State Fault Refusal :=
  .next { s with chip := s.chip.onLink link (fun c => c.lctlIn link f) }

def execReplayTimeout (link : Nat) (s : State) : Host.Outcome State Fault Refusal :=
  .next { s with chip := s.chip.onLink link (fun c => c.replayLate link) }

def execLightFecFallback (link : Nat) (s : State) : Host.Outcome State Fault Refusal :=
  .next { s with chip := s.chip.onLink link (fun c => c.fecFallback link) }

def execMsgAbort (link vc : Nat) (s : State) : Host.Outcome State Fault Refusal :=
  .next { s with chip := s.chip.onLink link (fun c => c.msgAbort link vc) }

def execUncorrectableBlock (link : Nat) (seq : Quad) (s : State) : Host.Outcome State Fault Refusal :=
  .next { s with chip := s.chip.onLink link (fun c => c.badBlock link seq) }

def execRteEnable (who : Who) (val : Word) (s : State) : Host.Outcome State Fault Refusal :=
  .next { s with chip := s.chip.regCmd who rRTE_CTL (fun c => c.rteEnable (bitOf val.toNat 0)) }

def execMessageRoute (port vc : Nat) (s : State) : Host.Outcome State Fault Refusal :=
  .next { s with chip := s.chip.live .rte (fun c => if c.bit rRTE_CTL 0 && port < 25 then c.routeHead port vc else c) }

end Sys2Proof.Machine
end

