-- ==== Sys2Proof/Machine/Security.lean ====
section
/-! DEFINITION. SEC: attestation, signed commands, tenant binding and unbinding, content keys, the DRBG and the self-tests, boot and
measurement, IDE keys and DOE (14_security.md; 17_host_port_management.md R481 to R490). What cryptography finds in bytes that arrive is
an operand (log 6); what the package computes is opaque (log 4). -/

namespace Sys2Proof.Machine

/-! ### State of SEC (R435, R436) -/

def rSEC_STATUS : Nat := 0x30000
def rSEC_FW : Nat := 0x30004
def rSEC_MBOX_CTL : Nat := 0x30020
def rMGT_STATUS : Nat := 0x40000
def rMGT_BOOT : Nat := 0x40004

def Chip.secReady (c : Chip) : Bool := c.bit rSEC_STATUS 0
def Chip.secError (c : Chip) : Bool := c.bit rSEC_STATUS 6
def Chip.invasive (c : Chip) : Bool := c.bit rSEC_STATUS 5
def Chip.bootState (c : Chip) : Nat := c.get rSEC_STATUS 1 2
def Chip.recovery (c : Chip) : Bool := c.bit rMGT_STATUS 1
def Chip.inhibit (c : Chip) : Bool := c.bit 0x20010 3
def Chip.activeSlot (c : Chip) : Nat := c.get rSEC_FW 0 1
def Chip.bootId (c : Chip) : BitVec 128 := BitVec.ofNat 128 (c.get64 0x30010 + c.get64 0x30018 * 2 ^ 64)

/-- A measurement register extended with an object's digest (R402). -/
def Chip.extend (c : Chip) (k : Nat) (digest : BitVec 384) : Chip :=
  c.setSec { c.sec with m := setAt c.sec.m k (fun m => Config.sha3 (bytesBE 48 m.toNat ++ bytesBE 48 digest.toNat)) }

/-- The module's error state (R435). -/
def Chip.enterError (c : Chip) : Chip :=
  ((c.setBit rSEC_STATUS 6 true).setSec { c.sec with testsOk := false }).report { cls := .security, blk := .sec }

/-- READY: the self-tests have passed and M4 is final. -/
def Chip.secUp (c : Chip) : Chip := if c.sec.testsOk && c.bootState = 2 then c.setBit rSEC_STATUS 0 true else c

/-! ### Attestation (R404 to R407) -/

/-- The public colophon (R399). -/
def Fuses.colophon (f : Fuses) : List Byte :=
  bytesLE 1 1 ++ bytesLE 1 f.code ++ bytesLE 1 f.stepping ++ bytesLE 1 f.debugLocked.toNat ++ bytesLE 8 f.serial.toNat
  ++ bytesLE 6 f.mac.toNat ++ bytesLE 2 f.therm ++ zeros 4 ++ bytesBE 48 f.rootHash.toNat ++ zeros 24

/-- The key slot of a tenant. -/
def Chip.slotOf (c : Chip) (t : Nat) : Option Nat :=
  (c.slots.find? (fun e => (c.slot e.1).st != .free && (c.slot e.1).tenant == t)).map (·.1)

def Chip.coreInReset (c : Chip) : Bool := c.rcu.asserted == some .c || c.rcu.releasing == some .c

/-- Bytes 0 to 4,687 of the report (R405). -/
def Chip.reportBody (c : Chip) (tenant : Nat) (valid : Bool) (nonce : BitVec 256) : List Byte :=
  let flags := (c.bit rSEC_STATUS 3).toNat + c.coreInReset.toNat * 2 + (c.get 0x30008 0 16 != 0).toNat * 4 + c.invasive.toNat * 8
    + c.card.toNat * 16 + c.sec.testsOk.toNat * 32 + c.esc.lock.unlockedFlag.toNat * 64
  let staged : BitVec 384 := if c.bit rSEC_STATUS 3 then ((c.sec.staged.map (·.1)).getD 0) else 0
  let slot := if valid then c.slotOf tenant else none
  let e : SlotE := match slot with | some n => c.slot n | none => {}
  bytesLE 2 1 ++ bytesLE 2 flags ++ bytesLE 4 9315 ++ bytesBE 32 nonce.toNat ++ bytesLE 16 c.bootId.toNat
  ++ bytesLE 8 c.esc.beat.toNat ++ bytesLE 3 c.node.toNat ++ zeros 1 ++ bytesLE 2 (c.get rSEC_FW 16 16) ++ bytesLE 2 c.fuses.therm
  ++ c.fuses.colophon ++ (c.sec.m.flatMap (fun m => bytesBE 48 m.toNat)) ++ bytesBE 48 staged.toNat
  ++ bytesLE 2 (tenant + valid.toNat * 2 ^ 15) ++ bytesLE 1 e.st.code ++ zeros 1 ++ bytesLE 2 (slot.getD 0) ++ zeros 2
  ++ bytesLE 8 e.kcv.toNat ++ zeros 8 ++ sized 1568 (Config.kemPk c.fuses.seed) ++ sized 2592 (Config.identityPk c.fuses.seed)

/-- The context string of the signature. -/
def attestContext : List Byte := "MVP2040 attest".toList.map (fun x => BitVec.ofNat 8 x.toNat)

def Chip.report' (c : Chip) (tenant : Nat) (valid : Bool) (nonce : BitVec 256) : List Byte :=
  let b := c.reportBody tenant valid nonce
  b ++ sized 4627 (Config.sign c.fuses.seed (attestContext ++ b))

/-- How a request is answered (R406, R489): its status and retry time. -/
def Chip.attestStatus (c : Chip) : Status × Nat :=
  if c.secError || c.recovery then (.unsupported, 0) else if !c.secReady then (.busyRetry, 50000) else (.ok, 0)

/-- Words of a byte string written from an offset of the map. -/
def Chip.fillWords (c : Chip) (off : Nat) (bytes : List Byte) : Chip :=
  (upTo (ceilDiv bytes.length 4)).foldl (fun c i => c.setWord (off + 4 * i) (BitVec.ofNat 32 (ofBytesLE (slice bytes (4 * i) 4)))) c

/-- A mailbox command has ended (R436). -/
def Chip.mboxDone (c : Chip) (st : Status) : Chip :=
  (((c.set rSEC_MBOX_CTL 8 8 st.code).setBit rSEC_MBOX_CTL 1 false).setBit rSEC_MBOX_CTL 2 true).pfEvent 1

/-- Whether a request comes through the management service. -/
def ethVia : Transport → Bool
  | .ethernet _ => true
  | _ => false

/-- Whether the mailbox serves a command: it takes no other one meanwhile (R436). -/
def Chip.mboxBusy (c : Chip) : Bool := c.bit rSEC_MBOX_CTL 1

/-- A request answered with a status and a retry time: the header, then the report; the mailbox holds it from byte 0, so that the report
opens at byte 8 (DEDUCED, log 26). A transport whose block is in reset carries none. -/
def Chip.attestAnswer (c : Chip) (r : AttestReq) (st : Status) (us : Nat) : Chip :=
  let bytes := bytesLE 1 st.code ++ zeros 3 ++ bytesLE 4 us ++ (if st == .ok then c.report' r.tenant r.valid r.nonce else [])
  match r.via with
  | .mailbox => (((c.fillWords 0x34000 bytes).set rSEC_MBOX_CTL 16 16 bytes.length).mboxDone st)
  | .doe _ => if c.held.contains .pci then c else c.emit (.report r.via st us bytes)
  | .ethernet _ => if c.held.contains .mgt then c else c.emit (.report r.via st us bytes)

/-- A request (R406, R407): held while its report is made, where the package can answer with one and fewer than four are held; otherwise
answered at once, a fifth one with a retry time of 2,000 µs. A second one of the management service is answered BUSY_RETRY by MGT, with a retry
time that R483 does not state (a free value, log 2). -/
def Chip.attest (c : Chip) (r : AttestReq) : Chip :=
  let (st, us) := c.attestStatus
  if r.via == .mailbox && c.mboxBusy then c
  else if st != .ok then c.attestAnswer r st us
  else if ethVia r.via && c.sec.attests.any (fun x => ethVia x.via) then
    let (v, c) := c.free
    c.attestAnswer r .busyRetry (v.toNat % 2 ^ 32)
  else if 4 ≤ c.sec.attests.length then c.attestAnswer r .busyRetry 2000
  else
    let c := c.setSec { c.sec with attests := c.sec.attests ++ [r] }
    if r.via == .mailbox then c.setBit rSEC_MBOX_CTL 1 true else c

/-- The oldest request held is answered, as the package then stands; the responder answers one in each cycle in which no command runs
(DESIGN CHOICE, log 26). -/
def Chip.attestDone (c : Chip) : Chip :=
  match c.sec.attests with
  | [] => c
  | r :: rest =>
    if c.held.contains .sec then c else
    let c := c.setSec { c.sec with attests := rest }
    c.attestAnswer r c.attestStatus.1 c.attestStatus.2

/-! ### Signed commands (R429 to R433) -/

/-- The boot record in force: the valid one with the higher SEQ, and whether it is record A (R487). -/
def Flash.current (f : Flash) : Option (BootRec × Bool) :=
  match f.recA, f.recB with
  | some a, some b => if b.seq.toNat < a.seq.toNat then some (a, true) else some (b, false)
  | some a, none => some (a, true)
  | none, some b => some (b, false)
  | none, none => none

def BootRec.bytes (r : BootRec) : List Byte :=
  let b := bytesLE 8 r.seq.toNat ++ bytesLE 1 r.active ++ bytesLE 1 r.prev ++ bytesLE 1 r.st
  b ++ bytesLE 4 (crc32c b).toNat

/-- A new boot record over the other one, in its own sector. -/
def Chip.writeBootRec (c : Chip) (active prev st : Nat) : Chip :=
  let (seq, overA) : Quad × Bool := match c.flash.current with | some (r, isA) => (r.seq + 1, !isA) | none => (1, true)
  let r : BootRec := ⟨seq, active, prev, st⟩
  let at' := if overA then 0 else 0x10000
  ((c.setFlash (if overA then { c.flash with recA := some r } else { c.flash with recB := some r })).emit (.flashErase at')).emit
    (.flashProgram at' r.bytes)

/-- A signed command ends: through the mailbox, or as the answer of the management service. -/
def Chip.signedDone (c : Chip) (x : SignedCmd) (st : Status) : Chip :=
  match x.eth with
  | some id => c.emit (.eth id (bytesLE 1 st.code))
  | none => c.mboxDone st

/-- Whether the command verifies: the key of a management slot that is not revoked, or none while all four are empty (`claim`: a
MGMT_KEY_SET); this package and boot; COUNTER above the last accepted. -/
def Chip.verifies (c : Chip) (x : SignedCmd) (claim : Bool) : Bool :=
  let k := x.keyIndex.toNat
  let key := if k = 255 then claim && c.fuses.mgmt.isEmpty
    else look c.fuses.mgmt k == some x.keyHash && !c.fuses.mgmtRevoked.contains k && x.sigOk
  key && x.serial == c.fuses.serial && x.bootId == c.bootId
  && (match c.sec.counter with | some n => n.toNat < x.counter.toNat | none => true)

/-- A signed command checked in the order layout, signature, inhibition, payload (DEDUCED, log 27), and accepted: M4 is extended. `fuses`:
it programs fuses or changes the boot record. -/
def Chip.signed (c : Chip) (x : SignedCmd) (claim fuses : Bool) (bad : Option Status) (f : Chip → Chip) : Chip :=
  if x.eth.isSome && (c.held.contains .mgt || c.recovery) then c
  else if c.secError then c.signedDone x .unsupported
  else if !c.secReady then c.signedDone x .busyRetry
  else if !x.lenOk || x.rsvd || (4 ≤ x.keyIndex.toNat && x.keyIndex.toNat < 255) then c.signedDone x .formatFault
  else if !c.verifies x claim then c.signedDone x .rightsFault
  else if fuses && c.inhibit then c.signedDone x .busyRetry
  else match bad with
    | some st => c.signedDone x st
    | none => ((f (c.setSec { c.sec with counter := some x.counter })).extend 4 x.digest).signedDone x .ok

def Chip.slotValid (c : Chip) (slot : Nat) : Bool := c.bit rMGT_STATUS (2 + slot)

/-- Whether an image's first stage and firmware verify (R401). -/
def Chip.imageOk (c : Chip) (i : Image) : Bool := i.rootHash == c.fuses.rootHash && i.firstOk && i.mgtOk && i.seqOk

/-- FW_STAGE: the inactive slot, valid and verified, is activated by the next S reset. -/
def Chip.fwStage (c : Chip) (x : SignedCmd) (slot : Nat) (i : Image) : Chip :=
  c.signed x false true
    (if slot ≥ 2 || slot = c.activeSlot || !c.slotValid slot then some .formatFault
     else if !c.imageOk i then some .rightsFault
     else if i.svn < c.fuses.therm then some .unsupported else none)
    (fun c => ((c.writeBootRec slot c.activeSlot 1).setSec { c.sec with staged := some (i.whole, slot) }).setBit rSEC_STATUS 3 true)

def Chip.fwCancel (c : Chip) (x : SignedCmd) : Chip :=
  c.signed x false true none
    (fun c => ((c.writeBootRec c.activeSlot (1 - c.activeSlot) 0).setSec { c.sec with staged := none }).setBit rSEC_STATUS 3 false)

def Chip.svnAdvance (c : Chip) (x : SignedCmd) : Chip :=
  c.signed x false true none (fun c => c.setFuses { c.fuses with therm := max c.fuses.therm (min 64 (c.get rSEC_FW 16 16)) })

/-- A key hash slot programmed once, or revoked. -/
def Chip.mgmtKeySet (c : Chip) (x : SignedCmd) (slot : Nat) (k : KeySet) : Chip :=
  match k with
  | .program h => c.signed x true true (if slot ≥ 4 || (look c.fuses.mgmt slot).isSome then some .formatFault else none)
      (fun c => c.setFuses { c.fuses with mgmt := put c.fuses.mgmt slot h })
  | .revoke => c.signed x true true (if slot ≥ 4 then some .formatFault else none)
      (fun c => c.setFuses { c.fuses with mgmtRevoked := (c.fuses.mgmtRevoked ++ [slot]).dedup })

def Chip.anchorSet (c : Chip) (x : SignedCmd) (slot : Nat) (k : KeySet) : Chip :=
  match k with
  | .program h => c.signed x false true
      (if slot = 0 || slot ≥ 8 || (look c.fuses.anchors slot).isSome then some .formatFault else none)
      (fun c => c.setFuses { c.fuses with anchors := put c.fuses.anchors slot h })
  | .revoke => c.signed x false true (if slot = 0 || slot ≥ 8 then some .formatFault else none)
      (fun c => c.setFuses { c.fuses with anchorsRevoked := (c.fuses.anchorsRevoked ++ [slot]).dedup })

/-- Key slots that were BOUND are AWAITING, and no key is held (R433, R434). -/
def Chip.zeroiseKeys (c : Chip) : Chip :=
  let c := c.slots.foldl (fun c e => if (c.slot e.1).st == .bound then c.writeSlot e.1 { c.slot e.1 with st := .awaiting } else c) c
  let c := { c with keys := [], scrubKey := 0, links := mapVals c.links (fun _ l => { l with keys := none }) }
  c.setSec { c.sec with session := none, streams := [] }

/-- Every link that is enabled goes DOWN. -/
def Chip.allLinksDown (c : Chip) : Chip :=
  (upTo 24).foldl (fun c n => if c.lnkState n = lsDisabled || c.lnkState n = lsDown then c else c.linkDown n false) c

/-- DEBUG_UNLOCK (R433): level 0, or level 1 after the zeroisation. -/
def Chip.debugUnlock (c : Chip) (x : SignedCmd) (level : Nat) : Chip :=
  c.signed x false false (if level > 1 then some .formatFault else if level = 1 && c.fuses.debugLocked then some .unsupported else none)
    (fun c => if level = 0 then c.setBit 0x50000 0 true
      else ((c.zeroiseKeys.allLinksDown).setBit rSEC_STATUS 5 true).setBit 0x50000 1 true)

/-! ### Binding (R414 to R417) -/

def tbTenant (d : Desc) : Nat := d.bitsAt 16 0 10
def tbSlot (d : Desc) : Nat := d.bitsAt 18 0 10
def tbBad (d : Desc) : Bool :=
  !d.zero 16 10 6 || !d.zero 18 10 6 || !d.zero 20 0 32 || byteWordBad d 24 || byteWordBad d 32 || opPla d 24 % 64 != 0
  || opPla d 32 % 32 != 0 || !d.zero 40 0 192 || tbTenant d = 0

/-- SEC's accesses to pool memory go through the sequencers' ELB and port (DESIGN CHOICE, log 28). -/
def secReq (d : Desc) (off n : Nat) (write : Bool) : Req :=
  unitReq d.ctx (opPla d off) n (some (opGen d off)) (if write then rWrite else rRead) write

/-- An access at an offset from an operand word's PLA. -/
def secAt (d : Desc) (off at' n : Nat) (write : Bool) : Req :=
  unitReq d.ctx (opPla d off + at') n (some (opGen d off)) (if write then rWrite else rRead) write

/-- A SEC descriptor refused, with the operand word that failed, if any. -/
def Chip.secRefuse (c : Chip) (d : Desc) (st : Status) (detail : Nat) (off : Option Nat := none) : Chip :=
  match off with
  | some o => c.finish bufSec d st detail 0 (c.operandFault d.ctx st (opPla d o) (opGen d o))
  | none => c.refuse bufSec d st detail

/-- SEC executes one descriptor at a time (R416): one that waits for snoops is presented again before another begins. An unbind in progress
is no such descriptor (DEDUCED, log 29). -/
def Chip.secTurn (c : Chip) (d : Desc) (f : Chip → Chip) : Chip :=
  if c.sec.now.any (fun x => x != d) then c else f (c.setSec { c.sec with now := none })
def Chip.secWait (c : Chip) (d : Desc) : Chip := c.setSec { c.sec with now := some d }

/-- Step 1 of R416 and R424. -/
def Chip.secStep1 (c : Chip) (noDebug : Bool) : Option Status :=
  if c.secError || (noDebug && c.invasive) then some .unsupported else if !c.secReady then some .busyRetry else none

/-- Whether the tenant has a VALID context, and whether it has an extent that is not FREE. -/
def Chip.hasCtx (c : Chip) (t : Nat) : Bool := c.ext.ctxs.any (fun e => (c.ctx e.1).valid && (c.ctx e.1).tenant == t)
def Chip.hasExt (c : Chip) (t : Nat) : Bool := c.usedExts.any (fun e => e.tenant == t)

/-- KCV of a data key (R410). -/
def kcvOf (key : BitVec 512) : Quad := BitVec.ofNat 64 (derived (Config.kmac key "kcv" []) 0 8)

/-- Steps 5 to 11 of R416. -/
def Chip.bindFails (c : Chip) (d : Desc) (b : BindBlob) : Option (Status × Nat) :=
  let t := tbTenant d
  let s := c.slot (tbSlot d)
  let o : BindSealed := b.opened.getD { dataKey := 0, adminId := 0, rebind := false, adminEntry := 0, confirm := 0 }
  let free := s.st == .free
  firstFail [
    (s.st == .retiring || c.unbinding t, .busyRetry, 0x84),
    (!((free && (c.slotOf t).isNone) || (s.st == .awaiting && s.tenant == t)), .formatFault, 0x85),
    (free && (c.hasCtx t || c.hasExt t), .formatFault, 0x86),
    (b.bootId != c.bootId || b.tenant != t || b.slot != tbSlot d, .rightsFault, 0x87),
    (b.opened.isNone, .rightsFault, 0x88),
    (if free then o.rebind else !o.rebind || s.kcv != kcvOf o.dataKey, .rightsFault, 0x89),
    (free && ((c.ctx o.adminId.toNat).valid || bitsOf o.adminEntry.toNat 5 3 != 0 || bitsOf o.adminEntry.toNat 108 20 != 0),
      .formatFault, 0x8A),
    (c.journalFull, .busyRetry, 0)]

/-- The bind itself: the key, the metadata, and for a FREE slot the admin context. -/
def Chip.bindSlot (c : Chip) (d : Desc) (o : BindSealed) : Chip :=
  let t := tbTenant d
  let n := tbSlot d
  let free := (c.slot n).st == .free
  let c := { c.writeSlot n { st := .bound, tenant := t, kcv := kcvOf o.dataKey } with keys := put c.keys n o.dataKey }
  if free then
    let e := { CtxE.ofBits o.adminEntry.toNat with valid := true, admin := true, mgmt := false, tenant := t }
    (c.writeCtx o.adminId.toNat e).ringsCheck o.adminId.toNat
  else c

/-- TENANT_BIND. An access that waits for snoops leaves the descriptor to be presented again. -/
def Chip.tenantBind (c : Chip) (d : Desc) (b : BindBlob) : Chip :=
  match firstFail [
    ((c.secStep1 true).isSome, (c.secStep1 true).getD .ok, 0x80),
    (!(c.caller d).mgmt, .rightsFault, 0x81),
    (tbBad d, .formatFault, 0x82)] with
  | some (st, k) => c.secRefuse d st k
  | none =>
    match c.poolRead elbSeq 27 (secReq d 24 1712 false) with
    | (c, .wait) => c.secWait d
    | (c, .got st _ _ _) =>
      if !st.good then c.secRefuse d st 0x83 (some 24)
      else match c.wouldAdmit elbSeq (secReq d 32 32 true) with
        | (c, some (st, _), _) => c.secRefuse d st 0x83 (some 32)
        | (c, none, _) =>
          match c.bindFails d b with
          | some (st, k) => c.secRefuse d st k
          | none =>
            let o : BindSealed := b.opened.getD { dataKey := 0, adminId := 0, rebind := false, adminEntry := 0, confirm := 0 }
            match c.poolWrite elbSeq 27 (secReq d 32 32 true) (bytesBE 32 o.confirm.toNat) with
            | (c, .wait) => c.secWait d
            | (c', .got st _ _ _) =>
              let c' := c'.bindSlot d o
              if st.good then Chip.okayJ c c' bufSec d 0 else c'.secRefuse d st 0x83 (some 32)

/-! ### Unbinding (R418 to R420) -/

def Chip.tenantHandles (c : Chip) (t : Nat) : List Nat := c.usedHandles.filter (fun h => (c.extent h).tenant == t)

/-- Rings whose RING_CTX belongs to a tenant and that are not DISABLED. -/
def Chip.tenantRings (c : Chip) (t : Nat) : List Nat :=
  (c.rng.rings.filter (fun r => r.2.st != .disabled && r.2.keep.isNone && (c.ctx r.2.ctx).valid && (c.ctx r.2.ctx).tenant == t)).map (·.1)

/-- Whether a tenant has nothing left. -/
def Chip.nothingLeft (c : Chip) (t : Nat) : Bool :=
  (c.slotOf t).isNone && !c.hasCtx t && !c.hasExt t && !c.kve.prefixes.any (fun e => e.2 == t)
  && !c.kve.quires.any (fun h => (Kt.quire ⟨c, none⟩ h).2.tenant == t)

/-- The regions that contexts of a tenant armed close at once (06_fold_arithmetic.md R179). -/
def Chip.abortArmed (c : Chip) (t : Nat) : Chip := c.abortRegions (fun g => (c.ctx g.d.ctx).tenant == t)

/-- Steps 1 to 3: the tenant is marked, its quires are dropped, its regions closed, its extents revoked; one that is DRAINING will be scrubbed (DEDUCED, log
29). -/
def Chip.unbindStart (c : Chip) (d : Desc) (t : Nat) : Chip :=
  let c := ((c.setUnbinds (put c.unbinds t { descs := [d] })).kvDropTenant t).abortArmed t
  (c.tenantHandles t).foldl (fun c h =>
    match (c.extent h).st with
    | .live | .held => c.revokeStart h true none
    | .draining =>
      match look c.ext.revokes h with
      | some rv => c.setExt { c.ext with revokes := put c.ext.revokes h { rv with scrub := !(c.extent h).lent } }
      | none => c
    | _ => c) c

def Chip.tenantUnbind (c : Chip) (d : Desc) : Chip :=
  let t := tbTenant d
  let me := c.caller d
  match firstFail [
    ((c.secStep1 false).isSome, (c.secStep1 false).getD .ok, 0x80),
    (!(me.mgmt || (me.admin && me.tenant == t)), .rightsFault, 0x81),
    (t = 0 || !d.zero 16 10 6 || !d.zero 18 0 368, .formatFault, 0x82)] with
  | some (st, k) => c.secRefuse d st k
  | none =>
    match look c.unbinds t with
    | some u => c.setUnbinds (put c.unbinds t { u with descs := u.descs ++ [d] })
    | none =>
      if c.nothingLeft t then c.okay bufSec d 0
      else if c.journalFull then c.secRefuse d .busyRetry 0
      else c.unbindStart d t

/-- Step 4, once every revocation point has passed. -/
def Chip.unbindRings (c : Chip) (t : Nat) : Chip :=
  match look c.unbinds t with
  | none => c
  | some u =>
    if u.aborted || (c.tenantHandles t).any (fun h => match look c.ext.revokes h with | some rv => !rv.point | none => false) then c
    else
      let c := (c.setUnbinds (put c.unbinds t { u with aborted := true })).abortArmed t
      (c.tenantRings t).foldl (fun c r =>
        if u.descs.any (fun d => d.ring == r) || (c.ring r).st == .aborting then c else c.beginAbort r none) c

/-- The tenant's agents become FREE with their partitions emptied; a leave that waits ends. -/
def Chip.dropAgents (c : Chip) (t : Nat) : Chip :=
  c.coh.agents.foldl (fun c e =>
    if e.2.st == .free || e.2.tenant != t then c
    else
      let c := ((c.putAgent e.1 {}).putPart e.1 []).setCoh { ((c.putAgent e.1 {}).putPart e.1 []).coh with
        snps := delIf c.coh.snps (fun _ s => s.agent == e.1), queue := c.coh.queue.filter (fun s => s.agent != e.1) }
      match e.2.leave with
      | some d => c.okay bufCoh d e.2.binvs
      | none => c) c

/-- Steps 5 to 7. Quires that an operation of the tenant made since step 2 are dropped here (08_kv_store.md R253: before the key slot retires). -/
def Chip.unbindRetire (c : Chip) (t : Nat) : Chip :=
  match look c.unbinds t with
  | none => c
  | some u =>
    let carries (r : Nat) : Bool := u.descs.any (fun d => d.ring == r)
    if !u.aborted || u.retired || (c.tenantHandles t).any (fun h => (c.extent h).st == .draining)
      || (c.tenantRings t).any (fun r => !carries r) then c
    else
      let c := (c.setUnbinds (put c.unbinds t { u with retired := true })).kvDropTenant t
      let c := match c.slotOf t with
        | some n => c.writeSlot n { c.slot n with st := .retiring }
        | none => c
      let c := u.descs.foldl (fun c d =>
        if (c.tenantRings t).contains d.ring then
          let x := c.ring d.ring
          c.putRing d.ring { x.dropFetches with st := .stopped, keep := some (c.ringFn x, d.index) }
        else c) c
      let c := c.ext.ctxs.foldl (fun c e =>
        if (c.ctx e.1).valid && (c.ctx e.1).tenant == t then
          (((c.writeCtx e.1 {}).dropElb (fun x => x.ctx == e.1)).ringsCheck e.1).xltCtxCleared e.1
        else c) c
      (((c.dropAgents t).cohPump).abortRegions (fun g => g.tenant == t)).lccDrop (fun x => x.tenant == t)

/-- Step 9, when the last extent is FREE. -/
def Chip.unbindDone (c : Chip) (t : Nat) : Chip :=
  match look c.unbinds t with
  | none => c
  | some u =>
    if !u.retired || !(c.tenantHandles t).isEmpty then c
    else
      let before := c
      let c := match c.slotOf t with
        | some n => { c.writeSlot n {} with keys := del c.keys n }
        | none => c
      u.descs.foldl (fun c d => Chip.okayJ before c bufSec d (min u.folios 0xFFFFFF)) (c.setUnbinds (del c.unbinds t))

/-! ### Content keys (R421 to R424) -/

def ckTiles (d : Desc) : Nat := d.bitsAt 40 0 24
def ckBad (d : Desc) (e : Envelope) : Bool :=
  plainTileBad d 16 || plainTileBad d 24 || plainTileBad d 32 || !d.zero 43 0 168 || ckTiles d = 0 || ckTiles d != e.tiles
  || e.count = 0 || e.count > 256

/-- How the tiles of a load end: it waits for snoops; an access of an address under an operand word fails; tiles or a tag run out. -/
inductive TilesEnd
  | wait
  | failed (st : Status) (off pla : Nat)
  | stops
  deriving DecidableEq, Repr

/-- The tiles in order: each is read with its tag and written, until one's tag fails or an access does; with the number written. -/
def Chip.loadTiles (c : Chip) (d : Desc) : Nat → List (List Byte) → Chip × Nat × TilesEnd
  | n, [] =>
    if ckTiles d ≤ n then (c, n, .stops)
    else match c.poolRead elbSeq 27 (secAt d 24 (4096 * n) 4096 false) with
      | (c, .wait) => (c, n, .wait)
      | (c, .got st _ _ _) => (c, n, if st.good then .stops else .failed st 24 (opPla d 24 + 4096 * n))
  | n, t :: r =>
    match c.poolRead elbSeq 27 (secAt d 24 (4096 * n) 4096 false) with
    | (c, .wait) => (c, n, .wait)
    | (c, .got st _ _ _) =>
      if !st.good then (c, n, .failed st 24 (opPla d 24 + 4096 * n))
      else match c.poolRead elbSeq 27 (secAt d 24 (4096 * ckTiles d + 16 * n) 16 false) with
        | (c, .wait) => (c, n, .wait)
        | (c, .got st _ _ _) =>
          if !st.good then (c, n, .failed st 24 (opPla d 24 + 4096 * ckTiles d + 16 * n))
          else match c.poolWrite elbSeq 27 (secAt d 32 (4096 * n) 4096 true) t with
            | (c, .wait) => (c, n, .wait)
            | (c, .got st _ _ _) => if st.good then c.loadTiles d (n + 1) r else (c, n, .failed st 32 (opPla d 32 + 4096 * n))

/-- CONTENT_KEY_LOAD. -/
def Chip.contentLoad (c : Chip) (d : Desc) (e : Envelope) : Chip :=
  match firstFail [
    ((c.secStep1 true).isSome, (c.secStep1 true).getD .ok, 0x90),
    (ckBad d e, .formatFault, 0x91)] with
  | some (st, k) => c.secRefuse d st k
  | none =>
    let n := ckTiles d
    match c.poolRead elbSeq 27 (secReq d 16 (96 + 1656 * e.count) false) with
    | (c, .wait) => c.secWait d
    | (c, .got st _ _ _) =>
      if !st.good then c.secRefuse d st 0x92 (some 16) else
      match c.wouldAdmit elbSeq (secReq d 24 (n * 4112) false) with
      | (c, some (st, _), _) => c.secRefuse d st 0x92 (some 24)
      | (c, none, _) =>
        match c.wouldAdmit elbSeq (secReq d 32 (n * 4096) true) with
        | (c, some (st, _), _) => c.secRefuse d st 0x92 (some 32)
        | (c, none, x) =>
          let slot := c.slotOf (c.caller d).tenant
          let bound := slot.any (fun k => (c.slot k).st == .bound)
          let keyed := x.any (fun y => y.e.keyValid && some y.e.keySlot == slot)
          match firstFail [
            (!bound, .keyRetired, 0x93),
            (!keyed, .rightsFault, 0x93),
            (!e.names, .rightsFault, 0x94),
            (!e.unwraps, .rightsFault, 0x95)] with
          | some (st, k) => c.secRefuse d st k
          | none =>
            match c.loadTiles d 0 (e.plain.take n) with
            | (c, _, .wait) => c.secWait d
            | (c, k, .failed st off pla) => c.finish bufSec d st 0 k (c.operandFault d.ctx st pla (opGen d off))
            | (c, k, .stops) => if k < n then c.finish bufSec d .rightsFault 0x96 k { status := .rightsFault } else c.okay bufSec d k

/-! ### The DRBG and the self-tests (R398, R413, R435) -/

/-- SEC leaves P or S reset: the DRBG is instantiated, BOOT_ID and the scrub key are drawn. -/
def Chip.secBegin (c : Chip) : Chip :=
  let c := c.setSec { c.sec with draws := 0, entropyFails := 0 }
  let (id, c) := c.draw
  let (key, c) := c.draw
  ({ c with scrubKey := key }.set64 0x30010 (bitsOf id.toNat 0 64)).set64 0x30018 (bitsOf id.toNat 64 64)

/-- A continuous health test fails: the second failure in succession reseeds, the third ends in the error state. -/
def Chip.entropyFail (c : Chip) : Chip :=
  let n := c.sec.entropyFails + 1
  let c := c.setSec { c.sec with entropyFails := n, draws := if n = 2 then 0 else c.sec.draws }
  if n ≥ 3 && !c.secError then c.enterError else c

def Chip.reseed (c : Chip) : Chip :=
  if c.sec.draws < 2 ^ 24 then c else c.setSec { c.sec with draws := 0, entropyFails := 0 }

def Chip.selfTests (c : Chip) (ok : Bool) : Chip :=
  if c.sec.testsOk || c.secError then c
  else if ok then (c.setSec { c.sec with testsOk := true }).secUp else c.enterError

/-! ### Boot (R401, R402, R487 to R490) -/

/-- The security configuration that M4 opens with; the layout is the model's (log 4). -/
def Fuses.security (f : Fuses) : List Byte :=
  (upTo 4).flatMap (fun k => bytesBE 48 (lookD f.mgmt k 0).toNat) ++ (upTo 8).flatMap (fun k => bytesBE 48 (lookD f.anchors k 0).toNat)
  ++ bytesLE 1 (sumOf (f.mgmtRevoked.map (fun k => 2 ^ k))) ++ bytesLE 1 (sumOf (f.anchorsRevoked.map (fun k => 2 ^ k)))

/-- The clock domain of a block that has one of its own (15_reset_clocks_power.md R448). -/
def Blk.domain : Blk → Nat
  | .stk k => 1 + k | .lnk n => 21 + n | .pci => 45 | .mgt => 46 | .sec => 48 | .dbg => 50 | _ => 0

/-- What keeps a block held although it would be released: its clock is lost (15_reset_clocks_power.md R450), or PERST# holds the port (R437). -/
def Chip.stays (c : Chip) (b : Blk) : Bool := c.rcu.lost.contains b.domain || (b == .pci && c.rcu.perst)

/-- Blocks released. -/
def Chip.release (c : Chip) (p : Blk → Bool) : Chip := { c with held := c.held.filter (fun b => !p b || c.stays b) }

/-- The host port released; `link` is PCI_LINK as it trained. -/
def Chip.releasePci (c : Chip) (link : Word) : Chip :=
  let c := c.release (· == .pci)
  if c.held.contains .pci then c else c.setWord 0x1400004 (link &&& 0x7FF)

/-- Whether a slot's image boots. -/
def Chip.boots (c : Chip) (i : Image) : Bool := c.imageOk i && c.fuses.therm ≤ i.svn

/-- The ROM boots the slot that the current record names, or the other one; without a valid record it starts with A (DESIGN CHOICE, log
30). Where neither verifies, MGT runs the recovery path. -/
def Chip.romBoot (c : Chip) (a b : Image) : Chip :=
  if c.bootState != 0 || c.held.contains .sec then c
  else
    let r : BootRec := match c.flash.current with | some (r, _) => r | none => ⟨0, 0, 1, 0⟩
    let trial := decide (r.st = 1)
    let tried := c.bit rMGT_BOOT 0
    let first := if trial && tried then r.prev else r.active
    let c := if trial && !tried then c.setBit rMGT_BOOT 0 true else c
    let img (k : Nat) : Image := if k = 0 then a else b
    let pick := if c.boots (img first) then some first else if c.boots (img (1 - first)) then some (1 - first) else none
    let c := (c.extend 0 Config.romDigest).extend 5 Config.trimDigest
    match pick with
    | none => ((c.set rSEC_STATUS 1 2 3).setBit rMGT_STATUS 1 true).release (· == .mgt)
    | some k =>
      let i := img k
      let c := ((c.extend 1 i.first).extend 2 i.mgt).extend 3 i.seq
      let c := c.extend 4 (Config.sha3 c.fuses.security)
      let c := c.setSec { c.sec with mgtDigest := i.mgt, seqDigest := i.seq, seqVersion := i.seqVersion }
      let c := (((c.set rSEC_FW 0 1 k).set rSEC_FW 1 7 c.fuses.therm).set rSEC_FW 16 16 i.svn).set rSEC_STATUS 1 2 2
      let c := c.setFlash { c.flash with bootedPrev := trial && k = r.prev }
      ((c.setBit rMGT_STATUS 0 true).release (fun b => match b with | .mgt | .seq | .lnk _ => true | _ => false)).secUp

/-- A reloaded image whose digest is the one extended at boot is released; another is not, with an error record (R403, R454). -/
def Chip.digestCheck (c : Chip) (mgt : Bool) (digest : BitVec 384) : Chip :=
  let b : Blk := if mgt then .mgt else .seq
  if !c.held.contains b || c.bootState != 2 || c.rcu.asserted.isSome || c.pwr.retain then c
  else if digest = (if mgt then c.sec.mgtDigest else c.sec.seqDigest) then
    (if mgt then c.setBit rMGT_STATUS 0 true else c).release (· == b)
  else c.report { cls := .security, blk := .sec }

/-- The Ethernet port comes up, in the mode of its strap, while its clock is good. -/
def Chip.ethUp (c : Chip) : Chip :=
  if c.rcu.lost.contains 47 then c else c.set rMGT_STATUS 4 2 (if c.bit 0x14 1 then 2 else 1)

/-- MGT writes the boot record of R487 once it runs, and brings up Ethernet and PCI: `link` is PCI_LINK as the port trained. -/
def Chip.bootRecord (c : Chip) (link : Word) : Chip :=
  if c.bootState != 2 || c.held.contains .mgt || c.sec.confirmed || c.inhibit then c
  else
    let k := c.activeSlot
    let c := (c.writeBootRec k (1 - k) (if c.flash.bootedPrev then 2 else 0)).setBit rMGT_BOOT 0 false
    (c.setSec { c.sec with confirmed := true }).ethUp.releasePci link

/-! ### IDE and DOE (R428, R481, R482) -/

def Chip.ideOpen (c : Chip) (ct : List Byte) (secret : BitVec 256) : Chip :=
  if !c.secReady || c.secError || c.held.contains .pci then c
  else c.setSec { c.sec with session := some (BitVec.ofNat 256 (derived (Config.kmac (secret.setWidth 512) "ide session" (sized 1568 ct)) 0 32)) }

/-- The link stream is 0, the selective ones 1 to 4. -/
def Chip.ideKm (c : Chip) (n : Nat) (key : BitVec 256) : Chip :=
  if c.sec.session.isNone || c.secError || n ≥ 5 || c.held.contains .pci then c
  else (c.setSec { c.sec with streams := put c.sec.streams n key }).pumpHost

def Chip.ideLost (c : Chip) (n : Nat) : Chip :=
  if (look c.sec.streams n).isNone then c else (c.setSec { c.sec with streams := del c.sec.streams n }).pfEvent 6

/-- The data object types of a function; the framing is PCIe's (log 31). -/
def doeTypes (fn : Nat) : List Byte := if fn = 0 then [0, 1, 2] else [0, 1]

/-! ### Meanings -/

def execAttest (via : Transport) (tenant : Nat) (tenantValid : Bool) (nonce : BitVec 256) (s : State) : Host.Outcome State Fault Refusal :=
  .next { s with chip := if s.chip.held.contains .sec then s.chip else s.chip.attest ⟨via, tenant, tenantValid, nonce⟩ }

/-- SEC is no core block: a stop leaves it running (16_observation.md R471). -/
def Chip.onSec (c : Chip) (f : Chip → Chip) : Chip := if c.held.contains .sec then c else f c

/-- A signed command comes through the mailbox, which serves one at a time (R436), or the management service. -/
def Chip.onSigned (c : Chip) (x : SignedCmd) (f : Chip → Chip) : Chip := if x.eth.isNone && c.mboxBusy then c else c.onSec f

def execFwStage (c : SignedCmd) (slot : Nat) (img : Image) (s : State) : Host.Outcome State Fault Refusal :=
  .next { s with chip := s.chip.onSigned c (fun x => x.fwStage c slot img) }

def execFwCancel (c : SignedCmd) (s : State) : Host.Outcome State Fault Refusal :=
  .next { s with chip := s.chip.onSigned c (fun x => x.fwCancel c) }

def execSvnAdvance (c : SignedCmd) (s : State) : Host.Outcome State Fault Refusal :=
  .next { s with chip := s.chip.onSigned c (fun x => x.svnAdvance c) }

def execMgmtKeySet (c : SignedCmd) (slot : Nat) (k : KeySet) (s : State) : Host.Outcome State Fault Refusal :=
  .next { s with chip := s.chip.onSigned c (fun x => x.mgmtKeySet c slot k) }

def execAnchorSet (c : SignedCmd) (slot : Nat) (k : KeySet) (s : State) : Host.Outcome State Fault Refusal :=
  .next { s with chip := s.chip.onSigned c (fun x => x.anchorSet c slot k) }

def execDebugUnlock (c : SignedCmd) (level : Nat) (s : State) : Host.Outcome State Fault Refusal :=
  .next { s with chip := s.chip.onSigned c (fun x => x.debugUnlock c level) }

def execTenantBind (d : Desc) (b : BindBlob) (s : State) : Host.Outcome State Fault Refusal :=
  .next { s with chip := s.chip.live .sec (fun c => c.secTurn d (fun c => c.tenantBind d b)) }

def execTenantUnbind (d : Desc) (s : State) : Host.Outcome State Fault Refusal :=
  .next { s with chip := s.chip.live .sec (fun c => c.secTurn d (fun c => c.tenantUnbind d)) }

def execUnbindRingsAbort (tenant : Nat) (s : State) : Host.Outcome State Fault Refusal :=
  .next { s with chip := s.chip.live .rng (fun c => c.unbindRings tenant) }

def execUnbindRetire (tenant : Nat) (s : State) : Host.Outcome State Fault Refusal :=
  .next { s with chip := s.chip.live .ext (fun c => c.unbindRetire tenant) }

def execUnbindComplete (tenant : Nat) (s : State) : Host.Outcome State Fault Refusal :=
  .next { s with chip := s.chip.live .rng (fun c => c.unbindDone tenant) }

def execContentKeyLoad (d : Desc) (e : Envelope) (s : State) : Host.Outcome State Fault Refusal :=
  .next { s with chip := s.chip.live .sec (fun c => c.secTurn d (fun c => c.contentLoad d e)) }

def execEntropyHealthFail (s : State) : Host.Outcome State Fault Refusal :=
  .next { s with chip := s.chip.onSec (fun c => c.entropyFail) }

def execDrbgReseed (s : State) : Host.Outcome State Fault Refusal :=
  .next { s with chip := s.chip.onSec (fun c => c.reseed) }

def execSecSelfTest (ok : Bool) (s : State) : Host.Outcome State Fault Refusal :=
  .next { s with chip := s.chip.onSec (fun c => c.selfTests ok) }

def execRomBoot (a b : Image) (s : State) : Host.Outcome State Fault Refusal :=
  .next { s with chip := s.chip.onSec (fun c => c.romBoot a b) }

def execSeqDigestCheck (mgt : Bool) (digest : BitVec 384) (s : State) : Host.Outcome State Fault Refusal :=
  .next { s with chip := s.chip.onSec (fun c => c.digestCheck mgt digest) }

def execBootRecordWrite (link : Word) (s : State) : Host.Outcome State Fault Refusal :=
  .next { s with chip := s.chip.bootRecord link }

def execIdeSessionOpen (ct : List Byte) (secret : BitVec 256) (s : State) : Host.Outcome State Fault Refusal :=
  .next { s with chip := s.chip.onSec (fun c => c.ideOpen ct secret) }

def execIdeKm (stream : Nat) (key : BitVec 256) (s : State) : Host.Outcome State Fault Refusal :=
  .next { s with chip := s.chip.onSec (fun c => c.ideKm stream key) }

def execIdeStreamInsecure (stream : Nat) (s : State) : Host.Outcome State Fault Refusal :=
  .next { s with chip := s.chip.ideLost stream }

def execDoeDiscovery (fn : Nat) (s : State) : Host.Outcome State Fault Refusal :=
  .next { s with chip := if s.chip.held.contains .pci || 256 ≤ fn then s.chip else s.chip.emit (.doe fn (doeTypes fn)) }

end Sys2Proof.Machine
end

