-- ==== Sys2Proof/Machine/Cycle.lean ====
section
/-! DEFINITION. A cycle in which no command runs: what the package does of itself (log 8). -/

namespace Sys2Proof.Machine

/-- A cycle passes: an attestation request is answered (14_security.md R407), a link that waits in KEY is taken up (R425), held doorbells are taken up (05_host_translation.md R132), and
the router does its own work. -/
def Chip.idleCycle (c : Chip) : Chip :=
  let c := c.tick.attestDone.keyNext
  (if c.rng.bells.isEmpty then c else c.live .rng Chip.pumpBells).rteCycle

end Sys2Proof.Machine
end

