-- ==== Sys2Proof/Machine/Manage.lean ====
section
/-! DEFINITION. The line cache's sweep (18_register_map.md R502), the boot flash behind MGT and the management service
(17_host_port_management.md R483 to R486). -/

namespace Sys2Proof.Machine

/-! ### The line cache (R502) -/

/-- INVALIDATE written: the lines are dropped at once, and INV_BUSY stays until the sweep ends (DEDUCED, log 32). -/
def Chip.lccSweep (c : Chip) : Chip :=
  if c.bit rLCC_STATUS 1 then c else (c.lccDrop (fun _ => true)).setBit rLCC_STATUS 1 true

/-! ### Flash (R485, R486) -/

def rMGT_FLASH_STAT : Nat := 0x40018

/-- The slot that an address lies in. -/
def slotAt (addr : Nat) : Option Nat :=
  if 0x100000 ≤ addr && addr < 0x1F00000 then some 0 else if 0x1F00000 ≤ addr && addr < 0x3D00000 then some 1 else none

def slotBase (slot : Nat) : Nat := if slot = 0 then 0x100000 else 0x1F00000

/-- Whether an operation may not touch an address: a boot record, the endorsement, or the active slot outside the recovery path (R486,
R489). -/
def Chip.flashProtected (c : Chip) (addr : Nat) : Bool :=
  addr < 0x30000 || (slotAt addr == some c.activeSlot && !c.recovery)

/-- The STATUS of each outcome code, and its retry time. -/
def flashStatus (code : Nat) : Status × Nat :=
  if code = 0 then (.ok, 0) else if code = 1 then (.rightsFault, 0) else if code = 2 then (.busyRetry, 1000) else (.timeout, 0)

/-- An operation ends: MGT_FLASH_STAT, or the answer of the management service. -/
def Chip.flashEnd (c : Chip) (src : FlashFrom) (code : Nat) : Chip :=
  match src with
  | .register _ => ((c.setBit rMGT_FLASH_STAT 0 false).setBit rMGT_FLASH_STAT 1 true).set rMGT_FLASH_STAT 2 2 code
  | .service id _ =>
    let (st, us) := flashStatus code
    c.emit (.eth id (bytesLE 1 st.code ++ bytesLE 1 code ++ zeros 2 ++ bytesLE 4 us))

/-- A slot is no longer valid, until its first page is written again. -/
def Chip.spoilSlot (c : Chip) (slot : Option Nat) : Chip :=
  match slot with
  | some k => (c.setBit rMGT_STATUS (2 + k) false).setFlash { c.flash with begun := c.flash.begun.filter (· != k) }
  | none => c

/-- A request for flash: refused, or started. While an operation runs, a register command is ignored and a service message is answered
BUSY_RETRY, with a retry time that is not stated (R483; DEDUCED, log 33). -/
def Chip.flashStart (c : Chip) (erase : Bool) (src : FlashFrom) (data : List Byte) : Chip :=
  let silent := c.held.contains .mgt || (c.recovery && c.bit 0x10014 1)
  let raw := match src with | .register _ => c.get 0x40010 0 26 | .service _ a => a % 2 ^ 26
  let addr := if erase then raw / 65536 * 65536 else raw / 256 * 256
  let bytes := match src with
    | .register _ => (upTo 64).flatMap (fun i => bytesLE 4 (c.word (0x41000 + 4 * i)).toNat)
    | .service _ _ => sized 256 data
  if silent then c
  else if c.flash.op.isSome then
    match src with
    | .register _ => c
    | .service id _ =>
      let (v, c) := c.free
      c.emit (.eth id (bytesLE 1 Status.busyRetry.code ++ zeros 3 ++ bytesLE 4 v.toNat))
  else if c.flashProtected addr then c.flashEnd src 1
  else if c.inhibit then c.flashEnd src 2
  else
    let c := match src with | .register _ => c.setBit rMGT_FLASH_STAT 0 true | _ => c
    let c := c.setFlash { c.flash with op := some ⟨erase, addr, bytes, src⟩ }
    if erase then (c.spoilSlot (slotAt addr)).emit (.flashErase addr) else c.emit (.flashProgram addr bytes)

/-- The device has ended the operation: the pages change, and a slot whose first page was written becomes valid with its last. -/
def Chip.flashDone (c : Chip) (ok : Bool) : Chip :=
  match c.flash.op with
  | none => c
  | some o =>
    let c := c.setFlash { c.flash with op := none }
    if !ok then c.flashEnd o.src 3
    else
      let c := if o.erase then c.setFlash { c.flash with pages := delIf c.flash.pages (fun a _ => o.addr ≤ a && a < o.addr + 65536) }
        else
          let c := c.setFlash { c.flash with pages := put c.flash.pages o.addr o.data }
          match slotAt o.addr with
          | some k =>
            let c := if o.addr = slotBase k then c.setFlash { c.flash with begun := (c.flash.begun ++ [k]).dedup } else c
            if o.addr = slotBase k + 0x1DFFF00 && c.flash.begun.contains k then c.setBit rMGT_STATUS (2 + k) true else c
          | none => c
      c.flashEnd o.src 0

/-- A page program that a supply trip aborts, by the device's reset commands (19_package_electrical.md R519): its slot is invalid (15_reset_clocks_power.md R456). -/
def Chip.flashAbort (c : Chip) : Chip :=
  match c.flash.op with
  | some o => if o.erase then c
    else (((c.emit .flashReset).setFlash { c.flash with op := none }).spoilSlot (slotAt o.addr)).flashEnd o.src 2
  | none => c

/-! ### The management service (R483) -/

/-- The answer to STATUS: the public colophon and four words. -/
def Chip.ethAnswer (c : Chip) : List Byte :=
  c.fuses.colophon ++ [rSEC_STATUS, 0x20000, 0x10008, rMGT_STATUS].flatMap (fun o => bytesLE 4 (c.readWord .mgt o).toNat)

/-! ### Meanings -/

def execLccInvalidate (who : Who) (s : State) : Host.Outcome State Fault Refusal :=
  .next { s with chip := s.chip.regCmd who 0xB00000 (fun c => c.lccSweep) }

def execLccSweepDone (s : State) : Host.Outcome State Fault Refusal :=
  .next { s with chip := s.chip.live .lcc (fun c => c.setBit rLCC_STATUS 1 false) }

/-- A request for flash: through MGT_FLASH_CMD it is an access to the window, which discards the requester's latch (00_scope.md R6). -/
def Chip.flashAsk (c : Chip) (erase : Bool) (src : FlashFrom) (data : List Byte) : Chip :=
  match src with
  | .register who => c.regCmd who 0x40014 (fun c => c.flashStart erase src data)
  | .service _ _ => c.flashStart erase src data

def execMgtFlashErase (src : FlashFrom) (s : State) : Host.Outcome State Fault Refusal :=
  .next { s with chip := s.chip.flashAsk true src [] }

def execMgtFlashProgram (src : FlashFrom) (data : List Byte) (s : State) : Host.Outcome State Fault Refusal :=
  .next { s with chip := s.chip.flashAsk false src data }

def execEthStatus (id : Word) (s : State) : Host.Outcome State Fault Refusal :=
  .next { s with chip := if s.chip.held.contains .mgt then s.chip else s.chip.emit (.eth id s.chip.ethAnswer) }

end Sys2Proof.Machine
end

