-- ==== Sys2Proof/Machine/Resets.lean ====
section
/-! DEFINITION. RCU: the sources of reset, entry and release of each level, fuses, clocks (15_reset_clocks_power.md R437 to R451;
14_security.md R434). -/

namespace Sys2Proof.Machine

/-! ### Levels and blocks (R440, R442, R443) -/

/-- The blocks of the core (R440). -/
def coreBlks : List Blk :=
  [.spine, .ext, .rng, .xlt, .mov, .fld, .seq, .kve, .coh, .lcc, .int, .red] ++ (List.range 20).map Blk.stk

/-- The blocks that S resets beside them; DBG keeps its state and is not held. -/
def outerBlks : List Blk := [.rte, .sec, .mgt, .pci] ++ (List.range 24).map Blk.lnk

def Chip.shutBlks (c : Chip) (l : List Blk) : Chip := { c with held := c.held ++ l.filter (fun b => !c.held.contains b) }

/-- The registers and their active copies take the values of their tables; STATUS of a stack follows the stack (R345). -/
def Chip.resetRegs (c : Chip) (l : Level) : Chip :=
  let stk (off : Nat) : Bool := rSTK ≤ off && off < 0xE80000 && off % 0x20000 = 4
  { c with regs := mapVals c.regs (fun off v => if stk off then v else resetTo l off v),
           act := mapVals c.act (fun off v => ⟨resetTo l off v.a, resetTo l off v.b, resetTo l off v.d⟩) }

/-- The registers of one block reset alone, as S reset leaves them. -/
def Chip.resetWindow (c : Chip) (lo hi : Nat) : Chip :=
  { c with regs := mapVals c.regs (fun off v => if lo ≤ off && off < hi then resetTo .s off v else v) }

/-- What the core blocks hold is lost: rings, queues and operators without a completion (R94), regions (R179), domains (R135), the line
cache (R441), reports, pending commits (R52). Zeroing jobs and the correctable-address table are kept. -/
def Chip.clearCore (c : Chip) : Chip :=
  let c := (c.setUnbinds (mapVals c.unbinds (fun _ u => { u with descs := [] }))).setSec { c.sec with now := none }
  let c := c.setRng { rings := [], fqs := [], eqs := [], bufs := [], turn := 0, lastRing := [], recTxns := [], fetchTxns := [],
                      nextTxn := c.rng.nextTxn, bells := [] }
  let c := c.setXlt ⟨[], [], [], [], [], [], none, []⟩
  let c := c.setEng ⟨[], [], [], [], [], c.eng.nextTxn, c.eng.nextOp, 0, false⟩
  let c := c.setKve ⟨[], c.kve.nextId, 0, 0, [], [], [], [], false⟩
  let c := c.setInt { c.int with reads := [], writes := [], stripes := [], reports := [], scrubNow := none, walkGrant := 0, rebuildGrant := 0, paid := 0 }
  let c := c.setRed { c.red with mirrors := [], rereads := [], asked := [], jtxns := [], ckptTxns := [], ckpt := none, deferred := false,
                                 jwaits := [], resyncs := c.red.resyncs.map (fun r => { r with next := 0, outstanding := [] }), fetch := none }
  let c := c.setExt { c.ext with elbs := [], inflight := [], parity := [], ctxChanges := [], lends := [], units := [],
                                 revokes := mapVals c.ext.revokes (fun _ r => { r with desc := none }) }
  ({ c with lcc := [] }.setReg ⟨[], []⟩).setCom ⟨0, [], 0, 0, 0, 0, 0, 0⟩

/-- The transfers outstanding complete with BLOCK_RESET through the wrappers (R442 step 2, R444). -/
def Chip.blockReset (c : Chip) : Chip :=
  let c := c.int.reads.foldl (fun c e => c.answerRead e.2 .blockReset [] 0) c
  let c := c.int.writes.foldl (fun c e => c.answerWrite { e.2 with status := .blockReset }) c
  let c := c.coh.txns.foldl (fun c e => c.cohRefuse e.2.who .blockReset) c
  c.coh.front.foldl (fun c t => c.cohRefuse t.who .blockReset) c

/-- The islands that RETAIN switches off and that C reset spares, on again (R454); MGT waits for its digest check (R403). -/
def Chip.powerUp (c : Chip) : Chip := c.release (fun b => match b with | .rte | .pci | .dbg | .lnk _ => true | _ => false)

/-- PWR after C reset, which ends RETAIN: in RUN (R452, R460), but for the QUIESCE of a thermal level, which is kept with it (R457). -/
def Chip.pwrUp (c : Chip) : Chip :=
  (if c.pwr.retain then c.powerUp else c).setPwr { ({} : Pwr) with hot := c.pwr.hot, limited := c.pwr.limited }

/-- Entry of C reset. -/
def Chip.enterC (c : Chip) : Chip := (((((c.blockReset).cohResetC).clearCore).shutBlks coreBlks).resetRegs .c).pwrUp

/-- Every transmitter that may be lit is darkened (10_fabric.md R316). -/
def Chip.darken (c : Chip) : Chip :=
  (upTo 24).foldl (fun c n => if c.lnkState n = lsDisabled then c else c.emit (.transmitter n false)) c

/-- EXT_ILV_COORD_n and EXT_ILV_BASE_n after S reset: the package's own node ID (03_extents.md R88). -/
def Chip.ownIlv (c : Chip) : Chip :=
  let w := c.node.setWidth 32
  ((upTo 16).flatMap (fun n => [0x100104 + 16 * n, 0x100108 + 16 * n])).foldl (fun c o =>
    { c with regs := put c.regs o w, act := put c.act o ⟨w, w, w⟩ }) c

/-- Entry of S reset. The tables are lost but for what RED can restore: the header and the records after it, where it journalled
(13_redundancy.md R386, R388). -/
def Chip.enterS (c : Chip) : Chip :=
  let kept := c.bit rRED_CTL 0 && c.bit rRED_REGION 0 && c.red.header.isSome
  let c := c.blockReset.darken.clearCore
  let c := c.setExt ⟨[], [], [], .tenant 0, [], [], [], [], [], [], [], [], []⟩
  let c := c.setRed { c.red with dirty := [], resyncs := [], journaling := false, rebuilding := [], jseq := 0, owed := 0,
                                 header := if kept then c.red.header else none, journal := if kept then c.red.journal else [] }
  let c := c.setInt { c.int with zero := [] }
  let c := c.setCoh ⟨[], [], [], [], [], c.coh.nextId, 0, [], [], 0, [], []⟩
  let c := { c with slots := [], keys := [], scrubKey := 0, links := [], inject := ⟨[], 0⟩, latch := [] }
  let c := { c.setPci ⟨[], [], [], 0, [], [], c.pci.nextTxn⟩ with hostWait := [] }
  let c := ((c.setSec {}).setPwr {}).setUnbinds []
  let c := c.setEsc { c.esc with lock := .free, goodMarks := 0, markThisBeat := false, holdover := 0, offset := 0, ahead := false,
                                 master := 0, isMaster := false, adopt := none, trim := 0, nextLen := none, accepted := [] }
  ((c.setElec ⟨0, none, 0, false, 0, 0, none, false⟩).shutBlks (coreBlks ++ outerBlks)).resetRegs .s |>.ownIlv

/-- P reset, which releases GSTOP_N (19_package_electrical.md R510): what outlives it are the fuses, the boot flash and the counters of free values (log 2). -/
def Chip.enterP (c : Chip) : Chip :=
  let d := if c.stopped && c.bit 0x50010 4 then c.darken.emit (.gstopN true) else c.darken
  let rcu : Rcu := { asserted := some .p, releasing := none, sysPin := c.rcu.sysPin, perst := c.rcu.perst }
  { Chip.reset with fuses := c.fuses, flash := { c.flash with op := none }, out := d.out, fresh := c.fresh, rcu := rcu }

/-! ### Assertion (R437, R439, R442, R443) -/

/-- Whether an assertion of a level is absorbed by a reset in progress, a storm or the fuse-fault state. -/
def Chip.absorbs (c : Chip) (l : Level) : Bool :=
  c.bit 0x10014 1 || c.rcu.asserted == some .p || c.rcu.asserted == some .s || c.rcu.releasing == some .p
  || (l == .c && (c.rcu.asserted == some .c || c.rcu.fusing))

/-- A source asserts S or C reset: its bit is set; the reset is counted, and the ninth within a second is a storm, held in S reset. -/
def Chip.assertReset (c : Chip) (l : Level) (cause : Nat) : Chip :=
  let c := c.setBit 0x10008 cause true
  if c.absorbs l then c
  else
    let rs := c.recentResets ++ [c.esc.now]
    let storm := decide (rs.length ≥ 9)
    let l := if storm then .s else l
    let c := (c.set 0x10008 12 2 (if l == .s then 1 else 2)).bump 0x1000C 1
    let c := if storm then c.setBit 0x10010 0 true else c
    let c := (if l == .s then c.enterS else c.enterC).emit .ibi
    c.setRcu { c.rcu with asserted := some l, releasing := none, fusing := c.rcu.fusing || l == .s, resets := rs, kick := c.esc.now }

/-- What a host port had outstanding for the core completes with BLOCK_RESET (R444): the reads of movers, list groups read ahead, and
descriptor fetches, which stop their rings; `loc` is the location of the rings (04_rings_and_descriptors.md R91). -/
def Chip.portReads (c : Chip) (loc : Nat) : Chip :=
  let here (c : Chip) (n : Nat) : Bool := (c.opOf n).any (fun o => (c.ring o.d.ring).loc == loc)
  let c := (upTo 32).foldl (fun c k =>
    let u := 32 + k
    let c := match (c.unit u).ahead with
      | some (n, _) => if here c n then c.listAhead u none else c
      | none => c
    match (c.unit u).run with
    | some x =>
      let waits := match x.st with | .list _ _ => true | .read => true | _ => false
      if waits && !c.unitBusy u && here c x.cmd.op then c.movFail u .blockReset else c
    | none => c) c
  c.rng.rings.foldl (fun c r =>
    if (c.ring r.1).loc = loc && (c.ring r.1).fetches.any (fun e => e.2.2.isNone) then c.stopRing r.1 1 else c) c

/-- PERST# low (R437): the port, and C or S reset as PERST_LEVEL says. A block reset alone is recorded (R444). -/
def Chip.resetPci (c : Chip) : Chip :=
  let unbar (w : Requester) : Requester := match w with | .bar4 _ _ => .none | x => x
  let c := c.setInt { c.int with reads := mapVals c.int.reads (fun _ r => { r with who := unbar r.who }),
                                 writes := mapVals c.int.writes (fun _ w => { w with who := unbar w.who }) }
  let c := c.setCoh { c.coh with txns := mapVals c.coh.txns (fun _ t => { t with who := unbar t.who }),
                                 front := c.coh.front.map (fun t => { t with who := unbar t.who }) }
  let c := { (c.setPci ⟨[], [], [], 0, [], [], c.pci.nextTxn⟩).setSec { c.sec with session := none, streams := [] } with hostWait := [] }
  ((c.portReads 0).shutBlks [.pci]).resetWindow 0x1400000 0x1500000

def Chip.perstLow (c : Chip) : Chip :=
  let c := (c.setRcu { c.rcu with perst := true }).setBit 0x10008 1 true
  match c.get 0x10000 0 2 with
  | 2 => c.assertReset .s 1
  | 1 => if c.absorbs .c then c.resetPci else c.resetPci.assertReset .c 1
  | _ => c.resetPci.report { cls := .blockReset, blk := .pci }

/-! ### Release (R445, R450) -/

/-- The core is released after C reset or RETAIN: all but SEQ, which waits for its digest check (R403). Extents that were DRAINING take
their disposition (03_extents.md R69); COH asks for the lines of 09_coherence.md R278; tables that stand are usable when the stacks are. -/
def Chip.coreUp (c : Chip) : Chip :=
  let c := c.release (fun b => coreBlks.contains b && b != .seq)
  let c := c.ext.revokes.foldl (fun c e => (c.setExt { c.ext with revokes := del c.ext.revokes e.1 }).dispose e.1 e.2.scrub) c
  c.cohRelease.readyUp

/-- MGT and DBG alone run, with the recovery path (R439, R447; 17_host_port_management.md R489). -/
def Chip.recoveryOnly (c : Chip) : Chip := (c.release (fun b => b == .mgt || b == .dbg)).setBit rMGT_STATUS 1 true

/-- The source has released the reset: once every stack that is not FAILED is in self-refresh. `link` is PCI_LINK as a port that PERST#
had reset trained. -/
def Chip.releaseReset (c : Chip) (link : Word) : Chip :=
  let quiet := (upTo 20).all (fun k => c.stkState k != stkReady)
  let pciUp (c : Chip) : Chip :=
    let c := c.setRcu { c.rcu with perst := false }
    if c.held.contains .pci && c.sec.confirmed && !c.pwr.retain then c.releasePci link else c
  match c.rcu.asserted with
  | none => pciUp c
  | some .p => c.setRcu { c.rcu with asserted := none, releasing := some .p, fusing := true, sysPin := false, perst := false }
  | some .s =>
    if !quiet || c.rcu.refLost then c
    else
      let c := c.setRcu { c.rcu with sysPin := false, perst := false }
      if c.bit 0x10010 0 then c.recoveryOnly else c.setRcu { c.rcu with asserted := none, releasing := some .s, fusing := true }
  | some .c =>
    if !quiet || c.rcu.lost.contains 0 then c else pciUp ((c.setRcu { c.rcu with asserted := none }).coreUp)

/-- STORM cleared by MGT or through I3C: the S reset is released (R439). -/
def Chip.clearStorm (c : Chip) : Chip :=
  if !c.bit 0x10010 0 then c
  else
    let c := c.setBit 0x10010 0 false
    if c.rcu.asserted == some .s && !c.rcu.refLost then
      ((c.shutBlks [.mgt]).setBit rMGT_STATUS 1 false).setRcu { c.rcu with asserted := none, releasing := some .s, fusing := true }
    else c

/-! ### Fuses (R446, R447) -/

/-- The load of the fuse array. Verified, the stacks that are not FAILED begin their full training (R342, R346), it shows the colophon's fields and the straps, and every block is released but SEQ, MGT, PCI and
the links, which SEC and MGT release as they boot (R445, R488). The third failure in succession is the fuse-fault state. -/
def Chip.loadFuses (c : Chip) (ok : Bool) : Chip :=
  if !c.rcu.fusing || c.rcu.asserted.isSome || c.bit 0x10014 1 then c
  else if ok then
    let f := c.fuses
    let c := ((c.set 0x10014 2 2 0).setBit 0x10014 0 true).setRcu { c.rcu with fusing := false, releasing := none }
    let c := ((c.set 0x0 24 2 f.code).set 0x0 16 8 f.stepping).set64 0x8 f.serial.toNat
    let c := c.set 0x10 0 20 (if f.code = 0 then 786432 else 524288)
    let c := (c.setBit 0x14 0 f.strapFull).setBit 0x14 1 f.strapEth
    let good := sumOf (((upTo 52).filter (fun d => !c.rcu.lost.contains d)).map (fun d => 2 ^ d))
    let c := c.set64 0x10020 good
    let c := ((upTo 20).filter (fun k => !c.rcu.lost.contains (1 + k) && c.stkState k != 4)).foldl (fun c k => c.set (stkReg k 4) 0 3 1) c
    (c.release (fun b => match b with | .seq | .mgt | .pci | .lnk _ => false | _ => true)).secBegin
  else
    let n := c.get 0x10014 2 2 + 1
    let c := c.set 0x10014 2 2 n
    if n < 3 then c
    else ((c.setBit 0x10014 1 true).setBit 0x10008 7 true).setRcu { c.rcu with fusing := false } |>.recoveryOnly

/-! ### Clocks (R450, R451) -/

/-- A domain's clock is lost. Loss of AONCLK, on which RCU itself runs, has no effect here (log 34). -/
def Chip.loseClock (c : Chip) (d : Nat) : Chip :=
  if d ≥ 52 || d = 49 || c.rcu.lost.contains d then c
  else
    let c := c.setRcu { c.rcu with lost := c.rcu.lost ++ [d] }
    let w := if d < 32 then 0x10020 else 0x10024
    let c := ((c.setBit w (d % 32) false).setBit (w + 8) (d % 32) true).bump 0x10030 1
    let c := (c.report { cls := .clock, blk := .rcu }).pfEvent 5
    let alone (c : Chip) (b : Blk) : Chip := (c.shutBlks [b]).report { cls := .blockReset, blk := b }
    if d = 0 then c.assertReset .c 8
    else if d = 51 then (c.setRcu { c.rcu with refLost := true }).assertReset .s 8
    else if d ≤ 20 then (c.shutBlks [.stk (d - 1)]).failStack (d - 1)
    else if d ≤ 44 then
      let n := d - 21
      let c := alone c (.lnk n)
      if c.lnkState n = lsDisabled || c.lnkState n = lsDown then c else c.linkDown n false
    else if d = 45 then c.resetPci.report { cls := .blockReset, blk := .pci }
    else if d = 46 then (alone (c.portReads 2) .mgt).resetWindow 0x40000 0x50000
    else if d = 47 then (c.set rMGT_STATUS 4 2 0).report { cls := .blockReset, blk := .mgt }
    else if d = 48 then alone c .sec
    else alone c .dbg

/-- A domain's clock is good again: its block, reset alone, is released; REFCLK_SYS no longer holds the S reset. -/
def Chip.clockBack (c : Chip) (d : Nat) : Chip :=
  if !c.rcu.lost.contains d then c
  else
    let c := c.setRcu { c.rcu with lost := c.rcu.lost.filter (· != d), refLost := c.rcu.refLost && d != 51 }
    let c := c.setBit (if d < 32 then 0x10020 else 0x10024) (d % 32) true
    if c.rcu.asserted.isSome || c.rcu.fusing then c
    else if d = 48 then c.release (· == .sec)
    else if c.pwr.retain then c
    else if d = 47 then (if c.sec.confirmed && !c.held.contains .mgt then c.ethUp else c)
    else if d = 46 then
      if c.bootState = 2 then
        let c := (c.release (· == .mgt)).setBit rMGT_STATUS 0 true
        if c.sec.confirmed then c.ethUp else c
      else if c.bootState = 3 then (c.release (· == .mgt)).setBit rMGT_STATUS 1 true else c
    else if d = 45 then (if c.sec.confirmed then c.release (· == .pci) else c)
    else if 21 ≤ d && d ≤ 44 then (if c.bootState = 2 then c.release (· == .lnk (d - 21)) else c)
    else c.release (fun b => b.domain == d && d != 0)

/-! ### Sources -/

/-- A write to RCU_CMD by PF 0 or MGT with the key (R459). -/
def Chip.rcuCmd (c : Chip) (who : Who) (key : BitVec 16) (l : Level) : Chip :=
  if (who == .pf0 || who == .mgt) && key.toNat = 0xA5C3 then c.assertReset l 4 else c

/-- The watchdog has not been kicked within TIMEOUT_MS. -/
def Chip.watchdog (c : Chip) : Chip :=
  if c.bit 0x10040 0 && c.rcu.kick + c.get 0x10040 16 16 * 1250000 ≤ c.esc.now then c.assertReset .s 5 else c

/-- A tamper response (14_security.md R434): zeroisation, the count, S reset. -/
def Chip.tampered (c : Chip) : Chip :=
  let c := c.zeroiseKeys.setSec { c.zeroiseKeys.sec with draws := 0 }
  let c := (c.set 0x30008 0 16 (satAdd 16 (c.get 0x30008 0 16) 1)).setBit rSEC_STATUS 4 true
  c.assertReset .s 6

/-- A tamper sensor trips (14_security.md R434). The voltage sensor of VDD_AON is disarmed while P reset is held (R455), that of VDD_CORE once
RST_SYS_N is low (19_package_electrical.md R514). -/
def Chip.tamper (c : Chip) (x : TamperSensor) : Chip :=
  if (x == .voltage true && c.rcu.asserted == some .p) || (x == .voltage false && c.rcu.sysPin) then c else c.tampered

/-- RST_SYS_N is low: S reset, or P reset held on, which records no SYS_PIN (R438; 19_package_electrical.md R513). -/
def Chip.sysPinLow (c : Chip) : Chip :=
  let c := c.setRcu { c.rcu with sysPin := true }
  if c.rcu.asserted == some .p then c else c.assertReset .s 2

/-- A flash operation ends. On the recovery path a slot written whole is booted by an S reset, with a TRIAL record (R489). -/
def Chip.flashOpEnd (c : Chip) (ok : Bool) : Chip :=
  let was (k : Nat) : Bool := c.slotValid k
  let c' := c.flashDone ok
  match (upTo 2).find? (fun k => c'.slotValid k && !was k) with
  | some k => if c'.recovery && !c'.bit 0x10014 1 then (c'.writeBootRec k (1 - k) 1).assertReset .s 4 else c'
  | none => c'

/-! ### Meanings -/

def execPowerOnReset (s : State) : Host.Outcome State Fault Refusal :=
  .next { s with chip := (s.chip.enterP.emit (.thermtripN true)).emit .ibi }

def execPerst (s : State) : Host.Outcome State Fault Refusal :=
  .next { s with chip := s.chip.perstLow }

def execRstSysN (s : State) : Host.Outcome State Fault Refusal :=
  .next { s with chip := s.chip.sysPinLow }

def execRstCoreN (s : State) : Host.Outcome State Fault Refusal :=
  .next { s with chip := s.chip.assertReset .c 3 }

def execRcuCmdCore (who : Who) (key : BitVec 16) (s : State) : Host.Outcome State Fault Refusal :=
  .next { s with chip := s.chip.regCmd who 0x10004 (fun c => c.rcuCmd who key .c) }

def execRcuCmdSystem (who : Who) (key : BitVec 16) (s : State) : Host.Outcome State Fault Refusal :=
  .next { s with chip := s.chip.regCmd who 0x10004 (fun c => c.rcuCmd who key .s) }

def execWatchdogExpiry (s : State) : Host.Outcome State Fault Refusal :=
  .next { s with chip := s.chip.watchdog }

def execRcuWdtKick (who : Who) (s : State) : Host.Outcome State Fault Refusal :=
  .next { s with chip := s.chip.regCmd who 0x10044 (fun c =>
    if who == .pf0 || who == .mgt then c.setRcu { c.rcu with kick := c.esc.now } else c) }

def execClockLoss (domain : Nat) (s : State) : Host.Outcome State Fault Refusal :=
  .next { s with chip := s.chip.loseClock domain }

def execClockGood (domain : Nat) (s : State) : Host.Outcome State Fault Refusal :=
  .next { s with chip := s.chip.clockBack domain }

def execVddCoreLow (s : State) : Host.Outcome State Fault Refusal :=
  .next { s with chip := s.chip.assertReset .s 9 }

def execResetRelease (link : Word) (s : State) : Host.Outcome State Fault Refusal :=
  .next { s with chip := s.chip.releaseReset link }

def execFuseLoad (crcOk : Bool) (s : State) : Host.Outcome State Fault Refusal :=
  .next { s with chip := s.chip.loadFuses crcOk }

/-- From MGT it is an access to the register window, which discards MGT's latch (00_scope.md R6). -/
def execStormClear (viaI3c : Bool) (s : State) : Host.Outcome State Fault Refusal :=
  .next { s with chip := (if viaI3c then s.chip else s.chip.dropLatch .mgt).clearStorm }

def execTamper (sensor : TamperSensor) (s : State) : Host.Outcome State Fault Refusal :=
  .next { s with chip := s.chip.tamper sensor }

def execFlashOpDone (deviceOk : Bool) (s : State) : Host.Outcome State Fault Refusal :=
  .next { s with chip := s.chip.flashOpEnd deviceOk }

end Sys2Proof.Machine
end

