-- ==== Sys2Proof/Machine/Power.lean ====
section
/-! DEFINITION. PWR: power states, supplies, temperature (15_reset_clocks_power.md R452 to R458). -/

namespace Sys2Proof.Machine

def rPWR_STATE : Nat := 0x20000
def rPWR_SUPPLY : Nat := 0x20010
def rPWR_THERMAL : Nat := 0x20020

/-! ### Power states (R452 to R454) -/

/-- Whether every in-flight counter is zero and every unit is idle (R453). -/
def Chip.unitsIdle (c : Chip) : Bool :=
  c.ext.inflight.all (fun e => e.2 == 0) && c.int.reads.isEmpty && c.int.writes.isEmpty && c.int.stripes.isEmpty
  && c.coh.txns.isEmpty && c.coh.front.isEmpty && c.coh.posts.isEmpty && c.eng.txns.isEmpty && c.eng.units.all (fun e => e.2.queue.isEmpty && e.2.run.isNone)
  && c.eng.ops.all (fun e => e.2.busy == 0) && c.kve.ops.all (fun e => e.2.st != .moving)

/-- Whether no core block has work. -/
def Chip.noWork (c : Chip) : Bool :=
  c.unitsIdle && c.eng.ops.isEmpty && c.kve.ops.isEmpty && c.eng.regions.isEmpty && c.int.zero.isEmpty && c.red.mirrors.isEmpty
  && c.xlt.walks.isEmpty && c.xlt.inval.isNone && c.ext.revokes.isEmpty && c.coh.snps.isEmpty
  && c.rng.rings.all (fun e => e.2.descs.isEmpty && e.2.fetches.isEmpty && e.2.batch.isEmpty)
  && c.rng.bufs.all (fun e => e.2.isEmpty) && c.rng.fqs.all (fun e => e.2.batch.isEmpty) && c.rng.eqs.all (fun e => e.2.batch.isEmpty)

/-- IDLE is entered from RUN, in a package whose core runs. -/
def Chip.enterIdle (c : Chip) : Chip :=
  if c.noWork && !c.quiesced && !c.pwr.retain && !c.held.contains .rng then c.setPwr { c.pwr with idle := true } else c

/-- A command of PWR_STATE_CMD waits for its boundary. -/
def Chip.pwrCmd (c : Chip) (target : Nat) : Chip := c.setPwr { c.pwr with cmd := some (target, c.esc.now) }

def Chip.quiesceEnd (c : Chip) : Chip :=
  if c.quiesced && c.unitsIdle then c.setPwr { c.pwr with reached := true } else c

/-- The first reason to refuse RETAIN, 0 for none (R454). `pciIdle`: the PCIe link is in L2/L3 Ready or absent. -/
def Chip.retainRefusal (c : Chip) (pciIdle : Bool) : Nat :=
  if !(c.quiesced && c.pwr.reached) then 1
  else if (upTo 24).any (fun n => c.lnkState n = lsActive || c.lnkState n = lsRetrain) then 2
  else if !pciIdle then 3
  else if c.get rPWR_SUPPLY 0 3 != 0 then 4
  else 0

/-- RETAIN: stacks to self-refresh, every island but AON, ESC and SEC off. What C reset keeps is kept, and the keys. -/
def Chip.enterRetain (c : Chip) (pciIdle : Bool) : Chip :=
  let n := c.retainRefusal pciIdle
  let c := c.set rPWR_STATE 4 3 n
  if n != 0 then c
  else
    let c := (((c.allLinksDown.darken).cohResetC).clearCore).resetRegs .c
    let c := (c.shutBlks (coreBlks ++ [.rte, .mgt, .pci, .dbg] ++ (List.range 24).map Blk.lnk)).setPwr { c.pwr with retain := true, cmd := none }
    c.setBit 0x1400004 10 false

/-- The wake command of the board controller: the blocks are released as after C reset, MGT and SEQ once their digests agree; the package is
in QUIESCE. -/
def Chip.wakeUp (c : Chip) : Chip :=
  if !c.pwr.retain || (upTo 20).any (fun k => c.stkState k = stkReady) then c
  else
    let c := c.setPwr { c.pwr with retain := false, reached := true }
    c.powerUp.coreUp

/-! ### Supplies (R456) -/

def railBit : Rail → Nat
  | .core => 0 | .aon => 1 | .io => 2

def Chip.supplyTrip (c : Chip) (r : Rail) : Chip :=
  let c := ((c.setBit rPWR_SUPPLY (railBit r) true).setBit rPWR_SUPPLY 3 true).setBit rPWR_SUPPLY 8 true
  ((c.bump 0x20014 1).report { cls := .supply, blk := .pwr }).flashAbort.emit .ibi

/-- Every tripped rail has stayed above 96 % for 1 ms: a deferred checkpoint header is written. -/
def Chip.supplyGood (c : Chip) : Chip :=
  let c := c.set rPWR_SUPPLY 0 4 0
  if c.red.deferred && !c.held.contains .red then c.writeHeader else c

/-! ### Temperature (R457) -/

/-- The hottest stack. -/
def Chip.hottest (c : Chip) : Nat := (upTo 20).foldl (fun a k => max a (c.get (stkReg k 8) 0 8)) 0

/-- The level that follows a level at two temperatures: TRIP is left by reset alone. -/
def nextLevel (old tl ts : Nat) : Nat :=
  let entry := if tl ≥ 125 then 3 else if tl ≥ 115 || ts ≥ 105 then 2 else if tl ≥ 105 || ts ≥ 100 then 1 else 0
  if old < entry then entry else if old < 3 && tl < 100 && ts < 95 then 0 else old

def Chip.thermal (c : Chip) (tl : Nat) : Chip :=
  let old := c.get rPWR_THERMAL 0 2
  let ts := c.hottest
  let new := nextLevel old tl ts
  let c := (c.set rPWR_THERMAL 8 8 (min tl 255)).set rPWR_THERMAL 16 8 ts
  if new = old then c
  else
    let c := (((c.set rPWR_THERMAL 0 2 new).bump 0x20024 1).report { cls := .thermal, blk := .pwr }).pfEvent 3
    let c := c.emit .ibi
    if new = 3 then (c.emit (.thermtripN false)).tampered else c

/-! ### The I3C target (17_host_port_management.md R484) -/

/-- The bytes of a register of the I3C target that the board controller reads; the table of commands has no row for its reads. -/
def Chip.i3cRead (c : Chip) (addr : Nat) : List Byte :=
  match addr with
  | 0 => if c.bit 0x10014 0 then bytesLE 1 c.fuses.code ++ bytesLE 1 c.fuses.stepping ++ bytesLE 8 c.fuses.serial.toNat else zeros 10
  | 1 => bytesLE 4 ((c.viewFields rPWR_STATE).foldl (fun a f => withBits a f.1 f.2.1 f.2.2) (c.word rPWR_STATE).toNat)
  | 2 => bytesLE 4 (c.word rPWR_THERMAL).toNat
  | 3 => bytesLE 4 (c.word 0x2002C).toNat
  | 4 => bytesLE 4 (c.word rPWR_SUPPLY).toNat
  | 5 => bytesLE 4 (c.word 0x10008).toNat
  | _ => []

/-! ### Meanings -/

def execIdleEntry (s : State) : Host.Outcome State Fault Refusal :=
  .next { s with chip := if s.chip.stopped then s.chip else s.chip.enterIdle }

def execPwrRun (who : Who) (s : State) : Host.Outcome State Fault Refusal :=
  .next { s with chip := s.chip.regCmd who 0x20004 (fun c => c.pwrCmd 0) }

def execPwrQuiesce (who : Who) (s : State) : Host.Outcome State Fault Refusal :=
  .next { s with chip := s.chip.regCmd who 0x20004 (fun c => c.pwrCmd 2) }

def execQuiesceReached (s : State) : Host.Outcome State Fault Refusal :=
  .next { s with chip := s.chip.quiesceEnd }

def execPwrRetain (who : Who) (pciIdle : Bool) (s : State) : Host.Outcome State Fault Refusal :=
  .next { s with chip := s.chip.regCmd who 0x20004 (fun c => if c.pwr.retain then c else c.enterRetain pciIdle) }

def execRetainWake (s : State) : Host.Outcome State Fault Refusal :=
  .next { s with chip := s.chip.wakeUp }

def execSupplyTrip (rail : Rail) (s : State) : Host.Outcome State Fault Refusal :=
  .next { s with chip := s.chip.supplyTrip rail }

def execInhibitClear (s : State) : Host.Outcome State Fault Refusal :=
  .next { s with chip := s.chip.supplyGood }

def execThermalSample (tLogic : Nat) (s : State) : Host.Outcome State Fault Refusal :=
  .next { s with chip := s.chip.thermal tLogic }

end Sys2Proof.Machine
end

