-- ==== Sys2Proof/Machine/Commit.lean ====
section
/-! DEFINITION. Staged configuration: the checks of the commit groups, GLB_COMMIT, its application (02_beat_and_commit.md R48 to R53). -/

namespace Sys2Proof.Machine

/-- The first detail code of a table whose condition holds, 0 for none. -/
def firstCode (l : List (Bool × Nat)) : Nat := ((l.find? (fun e => e.1)).map (fun e => e.2)).getD 0

/-! ### What will be active (12_integrity.md R363) -/

/-- Whether a group's shadow will be active at a target boundary, for a commit of a mask. -/
def Chip.staged (c : Chip) (mask target g : Nat) : Bool :=
  bitOf mask g || c.com.pend.any (fun p => bitOf p.mask g && p.target ≤ target)

/-- A field of a grouped register as it will be active. -/
def Chip.planned (c : Chip) (mask target g off lo w : Nat) : Nat := if c.staged mask target g then c.get off lo w else c.aget off lo w

/-! ### The checks -/

/-- BEAT and TMO (18_register_map.md R500). -/
def Chip.checkBeat (c : Chip) : Nat := firstCode [(c.get 0x100 0 8 < 10 || 200 < c.get 0x100 0 8, 1)]
def Chip.checkTmo (c : Chip) : Nat := firstCode [(c.get rGLB_TMO 0 8 = 0, 1), (c.get rGLB_TMO 8 8 = 0, 2)]

/-- REG (11_memory_stacks.md R337). -/
def Chip.checkReg (c : Chip) : Nat :=
  let r (p : Nat) : Nat := rSTK_REG + 16 * p
  let share (p : Nat) : Nat := c.get (r p) 1 7
  let cap (p : Nat) : Nat := c.get (r p) 8 7
  let target (p : Nat) : Nat := c.get (r p + 4) 0 20
  let on (p : Nat) : Nat := c.get (r p + 8) 0 9
  firstCode [
    ((upTo 32).any (fun p => !c.bit (r p) 0 && (target p < 100 || 1000000 < target p)), 1),
    (100 < sumOf ((upTo 32).map share), 2),
    ((upTo 32).any (fun p => cap p = 0 || 100 < cap p || cap p < share p), 3),
    ((upTo 32).any (fun p => c.bit (r p) 0 && (on p = 0 || 256 < on p || on p ≤ c.get (r p + 8) 16 9)), 4),
    (3 < cap 31, 5)]

/-- ILV (03_extents.md R87). -/
def Chip.checkIlv (c : Chip) : Nat :=
  let l := c.get 0x100080 0 5
  let r (n : Nat) : Nat := 0x100100 + 16 * n
  let self (n : Nat) : Nat := c.get (r n) 16 8
  let node (off : Nat) : NodeId := BitVec.ofNat 24 (c.get off 0 24)
  let used (p : Nat → Bool) : Bool := (upTo l).any p
  firstCode [
    (l = 0 || 16 < l, 1),
    (used (fun n => 10 < c.get (r n) 8 4), 2),
    (used (fun n => c.get (r n) 0 8 < self n), 3),
    (used (fun n => 0 < c.get (r n) 0 8 && c.get (r n + 12) 0 24 = 0), 4),
    (used (fun n =>
      let next := coordAdd (node (r n + 8)) (node (r n + 12)) (self n)
      if n + 1 = l then !c.isSelf next else next != node (r (n + 1) + 8)), 5)]

/-- ROUTE (10_fabric.md R308). -/
def Chip.checkRoute (c : Chip) : Nat :=
  let all (p : Nat → Nat → Bool) : Bool := (upTo 4).any (fun d => (upTo 64).any (p d))
  let names (e p : Nat) : Bool := bitOf (c.get e 0 24) p || (c.bit e 29 && c.get e 24 5 = p)
  let valid (k : Nat) : Bool := c.bit (0xA02004 + 8 * k) 31
  let node (k : Nat) : Nat := c.get (0xA02000 + 8 * k) 0 24
  let target (k : Nat) : NodeId := BitVec.ofNat 24 (c.get (0xA02000 + 8 * k) 24 8 + c.get (0xA02004 + 8 * k) 0 16 * 256)
  let exs := (upTo 1024).filter valid
  firstCode [
    (all (fun d v => c.bit (dimReg d v) 30 && v != coordOf c.node d && !c.bit (dimReg d v) 29), 1),
    (all (fun d v => (c.bit (dimReg d v) 29 && 24 ≤ c.get (dimReg d v) 24 5)
      || (upTo 24).any (fun p => names (dimReg d v) p && c.get (portReg p) 0 2 != d)), 2),
    (all (fun d v => (upTo 24).any (fun p => names (dimReg d v) p && c.bit (portReg p) 3)), 3),
    ((upTo 24).any (fun p => !c.bit (portReg p) 3 && c.lnkState p != lsActive), 4),
    (exs.any (fun k => exs.any (fun j => (j != k && node j = node k) || node j = (target k).toNat)
      || (c.dimsTo (target k)).any (fun d => !c.bit (dimReg d (coordOf (target k) d)) 30)), 5)]

/-- SCRUB (12_integrity.md R363): the walk's grant of R362 against what the rebuild's share leaves of port 29's guaranteed budget. -/
def Chip.checkScrub (c : Chip) (mask target : Nat) : Nat :=
  let minutes := c.get rINT_SCRUB_CTL 0 16
  let pct := c.get rINT_SCRUB_CTL 16 7
  let us := c.planned mask target 0 0x100 0 8
  let g := c.planned mask target 1 (rSTK_REG + 16 * 29) 1 7 * 19200 * (1250 * us) / 100
  let w := ceilDiv (c.stripeCount * us) (minutes * 60000000)
  firstCode [(minutes < 10 || 100 < pct, 1), ((100 - pct) * g < w * 640 * 100, 2)]

/-- ERRPOL (12_integrity.md R369). -/
def Chip.checkErrpol (c : Chip) : Nat := firstCode [(c.get rINT_ERRPOL 0 16 = 0, 1)]

/-- KVPOL (08_kv_store.md R230). -/
def Chip.checkKvpol (c : Chip) : Nat :=
  let f (t off lo w : Nat) : Nat := c.get (0x601000 + 0x20 * t + off) lo w
  let leaves (t : Nat) : Nat × Nat := (f t 4 0 23, f t 8 0 24)
  let quires (t : Nat) : Nat × Nat := (f t 0xC 0 20, f t 0x10 0 21)
  let meets (a b : Nat × Nat) : Bool := 0 < a.2 && 0 < b.2 && a.1 < b.1 + b.2 && b.1 < a.1 + a.2
  let clash (r : Nat → Nat × Nat) (most : Nat) : Bool :=
    let l := (upTo 1024).map r
    l.any (fun a => most < a.1 + a.2) || (upTo 1024).any (fun t => (l.drop (t + 1)).any (meets (r t)))
  let changed (t : Nat) : Bool :=
    let holds := c.kve.quires.any (c.inWindow t)
    (holds && (f t 0 0 27 != c.kvT t 0 0 27 || f t 0 27 3 != c.kvT t 0 27 3 || f t 4 0 23 != c.leafBase t || f t 0xC 0 20 != c.kvT t 0xC 0 20))
    || (c.leavesUsed t).any (fun l => f t 8 0 24 ≤ l - c.leafBase t)
    || c.kve.quires.any (fun h => c.inWindow t h && f t 0x10 0 21 ≤ h - c.kvT t 0xC 0 20)
  firstCode [
    (clash leaves 8388608, 1),
    (clash quires 1048576, 2),
    (4194304 < sumOf ((upTo 1024).map (fun t => f t 0x14 0 23)), 3),
    ((upTo 1024).any (fun t => 4 < f t 0 27 3 || 2 ^ 48 < f t 0 0 27 * 2 ^ 21 + f t 8 0 24 * 65536 * 2 ^ f t 0 27 3), 4),
    ((upTo 1024).any changed, 5)]

/-- The greatest event code of a block, none for a code that R108 does not list; its instances (R15); whether its events carry a context
(16_observation.md R463; log 36). -/
def eventsOf (blk : Nat) : Option Nat :=
  if 0x16 < blk then none
  else some (if blk = 2 then 4 else if blk = 1 || blk = 5 || blk = 7 || blk = 9 || blk = 0xB || blk = 0xC then 3
    else if blk = 3 || blk = 4 || blk = 6 || blk = 8 || blk = 0xD then 2 else 0)
def instancesOf (blk : Nat) : Nat :=
  if blk = 4 || blk = 5 then 32 else if blk = 6 then 16 else if blk = 9 then 24 else if blk = 0xC then 20 else 1
def eventCarries (blk code : Nat) : Bool := code != 0 && (blk = 1 || blk = 2 || (4 ≤ blk && blk ≤ 7))

/-- CNTSEL (16_observation.md R463). -/
def Chip.checkCntsel (c : Chip) : Nat :=
  let f (j lo w : Nat) : Nat := c.get (0x120E000 + 8 * j) lo w
  firstCode [
    ((upTo 64).any (fun j => match eventsOf (f j 8 8) with | some n => n < f j 0 8 | none => true), 1),
    ((upTo 64).any (fun j => f j 21 1 = 0 && instancesOf (f j 8 8) ≤ f j 16 5), 2),
    ((upTo 64).any (fun j => f j 22 2 != 0 && !eventCarries (f j 8 8) (f j 0 8)), 3),
    (c.dbgLevel = 0, 0xF)]

/-- Whether a spill region lies in one LIVE extent of context 0 (16_observation.md R470). -/
def Chip.spillOk (c : Chip) (pla gen len : Nat) : Bool :=
  match c.handleAt pla with
  | some h =>
    let e := c.extent h
    e.st == .live && e.ownerCtx == 0 && e.gen.toNat == gen && e.covers ((pla + len - 1) / 2 ^ 21)
  | none => false

/-- TRACE (16_observation.md R470). -/
def Chip.checkTrace (c : Chip) : Nat :=
  let len := c.get 0x1300020 0 13
  let pla := c.get 0x1300018 0 32 + c.get 0x130001C 0 16 * 2 ^ 32
  firstCode [
    (c.get 0x1300000 0 2 = 3 || 100 < c.get 0x1300000 2 7, 1),
    (len = 0 || 4096 < len || !c.spillOk pla (c.get 0x130001C 16 8) (len * 2 ^ 20), 2),
    (c.capturing, 3), (c.dbgLevel = 0, 0xF)]

/-- WATCH (16_observation.md R466). -/
def Chip.checkWatch (c : Chip) : Nat :=
  let r (n : Nat) : Nat := 0x50100 + 0x20 * n
  firstCode [
    ((upTo 32).any (fun n => c.bit (r n + 12) 0 && !fmtOk (c.get (r n + 12) 1 4)), 1),
    ((upTo 32).any (fun n => (c.word (r n + 8)).toNat < (c.word (r n + 4)).toNat), 2),
    (c.dbgLevel = 0, 0xF)]

/-- The check of a group (R48): its detail code, 0 where it passes. -/
def Chip.checkGroup (c : Chip) (mask target g : Nat) : Nat :=
  match g with
  | 0 => c.checkBeat | 1 => c.checkReg | 2 => c.checkIlv | 3 => c.checkRoute | 4 => c.checkTmo
  | 5 => c.checkScrub mask target | 6 => c.checkErrpol | 7 => c.checkKvpol | 8 => c.checkCntsel | 9 => c.checkTrace
  | 10 => c.checkWatch | _ => 0

/-- The lowest group of a commit that fails, with its code. -/
def Chip.checkAll (c : Chip) (p : Pending) : Option (Nat × Nat) :=
  ((upTo 11).find? (fun g => bitOf p.mask g && c.checkGroup p.mask p.target g != 0)).map (fun g => (g, c.checkGroup p.mask p.target g))

/-! ### Events of a commit (R52) -/

/-- STATE of GLB_COMMIT_STATUS, and the reasons of R50. -/
def csPending : Nat := 1
def csDone : Nat := 2
def csRefused : Nat := 3
def rsCheckFailed : Nat := 1
def rsUnlocked : Nat := 2
def rsBusy : Nat := 3
def rsTooLate : Nat := 4
def rsEmpty : Nat := 5
def rsReserved : Nat := 6

/-- GLB_COMMIT_STATUS describes an event; DONE and REFUSED raise the commit interrupt of PF 0. -/
def Chip.comEvent (c : Chip) (ticket st reason group detail : Nat) : Chip :=
  let c := c.setCom { c.com with stTicket := ticket, stState := st, reason := reason, group := group, detail := detail }
  if st = csPending then c else c.pfEvent 0

/-- A commit no longer pending. -/
def Chip.dropCommit (c : Chip) (ticket : Nat) : Chip :=
  c.setCom { c.com with pend := c.com.pend.filter (fun p => p.ticket != ticket) }

/-- The target of a write: the beat of GLB_COMMIT_BEAT, or the first boundary at least 256 cycles away (R49). -/
def Chip.commitTarget (c : Chip) : Nat :=
  if c.get64 0x210 = 0 then c.esc.beat.toNat + (if c.esc.cyc + 256 ≤ c.esc.len then 1 else 2) else c.get64 0x210

/-- Whether a target boundary is fewer than 256 cycles away, or has passed (R50). -/
def Chip.tooLate (c : Chip) (target : Nat) : Bool :=
  target ≤ c.esc.beat.toNat || (target = c.esc.beat.toNat + 1 && c.esc.len < c.esc.cyc + 256)

/-- A write of GLB_COMMIT: a ticket, and the tests of R50 in its order. -/
def Chip.commit (c : Chip) (mask : Nat) : Chip :=
  let t := (c.com.ticket + 1) % 16
  let target := c.commitTarget
  let c := c.setCom { c.com with ticket := t }
  let reason := firstCode [(mask = 0, rsEmpty), (2 ^ 11 ≤ mask, rsReserved), (c.esc.lock.unlockedFlag, rsUnlocked),
    (c.com.pend.any (fun p => Nat.land p.mask mask != 0), rsBusy), (c.tooLate target, rsTooLate)]
  if reason != 0 then c.comEvent t csRefused reason 0 0
  else (c.setCom { c.com with pend := c.com.pend ++ [⟨t, mask, target, false⟩] }).comEvent t csPending 0 0 0

/-- The end of a pending commit's checks. -/
def Chip.endCheck (c : Chip) (p : Pending) : Chip :=
  match c.checkAll p with
  | some (g, d) => (c.dropCommit p.ticket).comEvent p.ticket csRefused rsCheckFailed g d
  | none => c.setCom { c.com with pend := c.com.pend.map (fun q => if q.ticket = p.ticket then { q with checked := true } else q) }

def Chip.checkDone (c : Chip) (ticket : Nat) : Chip :=
  match c.com.pend.find? (fun p => p.ticket == ticket && !p.checked) with
  | some p => c.endCheck p
  | none => c

/-! ### Application (R45, R49, R51) -/

/-- The offsets of a group that a write or a commit has listed; every other one holds its reset value in both copies. -/
def Chip.groupWordsOf (c : Chip) (g : Nat) : List Nat :=
  ((c.regs.map (fun e => e.1)).filter (fun o => groupOf o == some g))
  ++ ((c.act.map (fun e => e.1)).filter (fun o => groupOf o == some g && (look c.regs o).isNone))

/-- A shadow register copied to its three active copies. -/
def Chip.copyActive (c : Chip) (off : Nat) : Chip := { c with act := put c.act off ⟨c.word off, c.word off, c.word off⟩ }

/-- The programmable counters whose event selection a commit of CNTSEL changes (16_observation.md R463). -/
def Chip.newSelections (c : Chip) : List Nat :=
  (upTo 64).filter (fun j => let o := 0x120E000 + 8 * j; c.actWord o != c.word o || c.actWord (o + 4) != c.word (o + 4))

/-- A group copied from shadow to active; each new event selection starts an epoch of its counter. -/
def Chip.applyGroup (c : Chip) (g : Nat) : Chip :=
  let js := if g = 8 then c.newSelections else []
  js.foldl (fun c j => c.epoch (336 + j)) ((c.groupWordsOf g).foldl (fun c o => c.copyActive o) c)

/-- A commit at its target boundary: refused while BEAT_UNLOCKED is 1, and otherwise applied, all its groups at once. -/
def Chip.applyCommit (c : Chip) (p : Pending) : Chip :=
  let c := c.dropCommit p.ticket
  if c.esc.lock.unlockedFlag then c.comEvent p.ticket csRefused rsUnlocked 0 0
  else
    let c := ((upTo 11).filter (fun g => bitOf p.mask g)).foldl (fun c g => c.applyGroup g) c
    (c.setCom { c.com with doneBeat := c.esc.beat }).comEvent p.ticket csDone 0 0 0

/-- The commits whose target boundary this is, or passed during a global stop, in the order of their writes; a check that has not been seen to
end has ended by now (R49). -/
def Chip.applyDue (c : Chip) : Chip :=
  (c.com.pend.filter (fun p => p.target ≤ c.esc.beat.toNat)).foldl (fun c p =>
    let c := if p.checked then c else c.endCheck p
    if c.com.pend.any (fun q => q.ticket == p.ticket) then c.applyCommit p else c) c

/-! ### Counters (16_observation.md R462) -/

/-- The free-running counters. -/
def freeRunning : List Nat :=
  (upTo 126) ++ (upTo 38).map (128 + ·) ++ (upTo 29).map (168 + ·) ++ [200, 201] ++ (upTo 16).map (320 + ·)

/-! ### Meanings -/

/-- A write of GLB_COMMIT by PF 0 or by MGT (R52). -/
def execGlbCommit (who : Who) (mask : Word) (s : State) : Host.Outcome State Fault Refusal :=
  .next { s with chip :=
    match who with
    | .pf0 | .mgt => s.chip.regCmd who 0x200 (fun c => c.commit mask.toNat)
    | .jtag | .vf _ => s.chip.regCmd who 0x200 (fun c => c) }

/-- The end of a commit's checks; commits wait during a global stop (16_observation.md R471). -/
def execCommitCheckDone (ticket : BitVec 4) (s : State) : Host.Outcome State Fault Refusal :=
  .next { s with chip := if s.chip.stopped then s.chip else s.chip.checkDone ticket.toNat }

/-- CNT_CTL.CLEAR_ALL: a new epoch of every free-running counter. -/
def execCntClearAll (who : Who) (s : State) : Host.Outcome State Fault Refusal :=
  .next { s with chip := s.chip.regCmd who 0x120D000 (fun c => freeRunning.foldl (fun c i => c.epoch i) c) }

end Sys2Proof.Machine
end

