-- ==== Sys2Proof/Machine/Beat.lean ====
section
/-! DEFINITION. The escapement, the election of a beat master, and the work of a boundary (02_beat_and_commit.md R37 to R47; 10_fabric.md
R312 to R315). -/

namespace Sys2Proof.Machine

/-! ### The election (10_fabric.md R315) -/

/-- The package's own claim, if it is eligible. -/
def Chip.ownClaim (c : Chip) : Option (Nat × NodeId) := if c.aget 0x100 8 1 = 1 then some (c.aget 0x100 12 4, c.node) else none

/-- Whether a claim is better: the higher priority, on a tie the lower node. -/
def betterClaim (a b : Nat × NodeId) : Bool := decide (b.1 < a.1) || (a.1 == b.1 && decide (a.2.toNat < b.2.toNat))

/-- The better of two claims. -/
def bestClaim (a b : Option (Nat × NodeId)) : Option (Nat × NodeId) :=
  match a, b with
  | some x, some y => if betterClaim y x then some y else some x
  | some x, none => some x
  | none, y => y

/-- The CANDIDATE that stands for no claim (R295). -/
def noCandidate : NodeId := 0xFFFFFF

/-- ELECT on every ACTIVE link: the best claim heard, or none. -/
def Chip.sendElect (c : Chip) : Chip :=
  let (p, n) := c.elec.claim.getD (0, noCandidate)
  c.activeLinks.foldl (fun c l =>
    c.sendLink l (.elect { cand := n, prio := BitVec.ofNat 4 p, epoch := c.elec.epoch, maxBeat := c.elec.maxBeat })) c

/-- The claim of an ELECT flit. -/
def claimOf (f : ElectFlit) : Option (Nat × NodeId) := if f.cand = noCandidate then none else some (f.prio.toNat, f.cand)

/-- The higher of two beat numbers. -/
def maxQuad (a b : Quad) : Quad := if a.toNat < b.toNat then b else a

/-- An election of an epoch joined, with the package's own claim, if it makes one, and another's. MAX_BEAT takes in the package's own beat
number, whether or not it makes a claim (DEDUCED, log 36). -/
def Chip.joinElection (c : Chip) (epoch : BitVec 16) (claim : Option (Nat × NodeId)) (maxBeat : Quad) : Chip :=
  let own := c.ownClaim
  let most := maxQuad maxBeat c.esc.beat
  let c := c.setElec { epoch := epoch, claim := bestClaim own claim, maxBeat := most, running := true, ownBeats := 0, silent := 0,
                       master := none, win := false }
  ((c.setEsc { c.esc with isMaster := false }).bump 0xA0001C 1).sendElect

/-- An election started: EPOCH one higher than the highest seen. -/
def Chip.startElection (c : Chip) : Chip := c.joinElection (c.elec.epoch + 1) none 0

/-- An ELECT flit: a higher epoch is joined; in the running one, a better claim or a higher MAX_BEAT is kept and sent on. -/
def Chip.electIn (c : Chip) (f : ElectFlit) : Chip :=
  let claim := claimOf f
  if f.epoch.toNat < c.elec.epoch.toNat then c
  else if c.elec.epoch.toNat < f.epoch.toNat then c.joinElection f.epoch claim f.maxBeat
  else
    let c := c.setElec { c.elec with silent := 0 }
    if !c.elec.running then c
    else
      let best := bestClaim c.elec.claim claim
      let most := maxQuad c.elec.maxBeat f.maxBeat
      if best = c.elec.claim && most = c.elec.maxBeat then c
      else
        (c.setElec { c.elec with claim := best, maxBeat := most, win := c.elec.win && best = c.elec.claim,
                                 ownBeats := if best = c.elec.claim then c.elec.ownBeats else 0 }).sendElect

/-! ### Beat marks (R40 to R44, 10_fabric.md R312 to R314) -/

/-- Whether a BEAT is valid, on an ACTIVE link. -/
def Chip.beatValid (c : Chip) (f : BeatFlit) : Bool :=
  c.elec.epoch.toNat ≤ f.epoch.toNat && f.hops.toNat < 48 && f.master != c.node && !c.esc.accepted.contains f.num
  && (decide (c.elec.epoch.toNat < f.epoch.toNat) || (match c.elec.master, c.elec.claim with
    | some m, _ => f.master == m
    | none, some (_, n) => f.master == n
    | none, none => true))

/-- A BEAT sent or forwarded: its time in the package, in units of 1/16 ns, is a free value (log 2), at most 8 cycles for a forward. -/
def Chip.sendBeat (c : Chip) (link : Nat) (f : BeatFlit) (most : Nat) : Chip :=
  let (v, c) := c.free
  c.sendLink link (.beat { f with corr := f.corr + BitVec.ofNat 32 (v.toNat % (most + 1) * 64 / 5) })

/-- The first valid copy of a mark forwarded on every other ACTIVE link. -/
def Chip.forwardBeat (c : Chip) (link : Nat) (f : BeatFlit) : Chip :=
  let g := { f with hops := f.hops + 1, corr := f.corr + BitVec.ofNat 32 (c.get (lnkReg link 0xC) 0 24) }
  (c.activeLinks.filter (fun n => n != link)).foldl (fun c n => c.sendBeat n g 8) c

/-- The lock state and the count of good marks after a mark at an offset in 1/16 ns (R41); in ACQUIRE, a mark whose number is `low`er than
the package's own leaves it there (R43). The mark that takes FREE or UNLOCKED to ACQUIRE is not one of the 8 good marks, which are counted
in ACQUIRE (DESIGN CHOICE, log 36). -/
def nextLock (l : Lock) (good : Nat) (off : Int) (low : Bool) : Lock × Nat :=
  match l with
  | .free | .unlocked => (.acquire, 0)
  | .acquire =>
    if 512 < off.natAbs then (.acquire, 0) else if 8 ≤ good + 1 && !low then (.locked, 0) else (.acquire, good + 1)
  | .locked => if 1024 < off.natAbs then (.acquire, 0) else (.locked, 0)
  | .holdover => if off.natAbs ≤ 1024 then (.locked, 0) else (.acquire, 0)

/-- The ticks to add in the beat that follows an offset: at most 4, in ACQUIRE 64 (R40). -/
def trimOf (l : Lock) (off : Int) : Int :=
  let most : Int := if l == .acquire then 64 else 4
  max (-most) (min most (-(off.tdiv 160)))

/-- A mark's length: given to the beat that started at the package's own boundary of that number, or will (R44). -/
def Esc.withPeriod (e : Esc) (us : Nat) (late : Int) : Esc :=
  if 0 < late then { e with nextLen := some (us * 1250) } else { e with len := ((us * 1250 : Nat) + e.adj).toNat }

/-- In ACQUIRE the master's number is adopted at the next boundary if it is not lower; otherwise BEAT_AHEAD and a re-election (R43). The
text gives only what sets BEAT_AHEAD: it returns to 0 with a mark whose number is not lower, with one that finds or leaves the package
outside ACQUIRE, and when the package becomes master (DESIGN CHOICE, log 36). -/
def Chip.adoptBeat (c : Chip) (num : Quad) (late : Int) : Chip :=
  if num.toNat < c.esc.beat.toNat then (c.setEsc { c.esc with ahead := true }).startElection
  else c.setEsc { c.esc with ahead := false, adopt := some (if 0 < late then num else num + 1) }

/-- A BEAT flit: `late` is the package's own boundary time for its number minus the arrival time, in 1/16 ns. -/
def Chip.beatIn (c : Chip) (link : Nat) (f : BeatFlit) (late : Int) : Chip :=
  if !c.beatValid f then c
  else
    let c := c.setElec { c.elec with epoch := f.epoch, claim := some (f.prio.toNat, f.master), running := false, ownBeats := 0, silent := 0,
                                     master := some f.master, win := false }
    let off : Int := late + f.corr.toNat + c.get (lnkReg link 0xC) 0 24
    let old := c.esc.lock
    let (lock, good) := nextLock old c.esc.goodMarks off (decide (f.num.toNat < c.esc.beat.toNat))
    let e := c.esc.withPeriod f.period.toNat late
    let c := c.setEsc { e with lock := lock, goodMarks := good, markThisBeat := true, holdover := 0, offset := off / 16, trim := trimOf lock off,
                               master := f.master, isMaster := false, accepted := c.esc.accepted ++ [f.num] }
    let c := c.forwardBeat link f
    let c := if lock == .acquire then c.adoptBeat f.num late else c.setEsc { c.esc with ahead := false }
    if old.unlockedFlag && lock == .locked && c.red.deferred && !c.held.contains .red then c.writeHeader else c

/-! ### The boundary in ESC (R37, R38, R40, R41, R44) -/

/-- The lock state at a boundary: a LOCKED beat without a valid mark is the first of HOLDOVER. -/
def Esc.missing (e : Esc) : Esc :=
  match e.lock, e.markThisBeat with
  | .locked, false => { e with lock := .holdover, holdover := 1 }
  | .holdover, false => { e with holdover := e.holdover + 1 }
  | _, _ => e

/-- The number of the beat that starts: the master's, where it is adopted, MAX_BEAT + 1 for a new master, otherwise the next one. -/
def Chip.nextNum (c : Chip) : Quad :=
  if c.elec.win then (if c.esc.beat.toNat ≤ c.elec.maxBeat.toNat then c.elec.maxBeat + 1 else c.esc.beat + 1)
  else match c.esc.adopt with
    | some n => if n.toNat < c.esc.beat.toNat then c.esc.beat + 1 else n
    | none => c.esc.beat + 1

/-- A new master at its boundary. -/
def Chip.winBoundary (c : Chip) : Chip :=
  if !c.elec.win then c
  else
    let c := c.setEsc { c.esc with lock := .free, isMaster := true, master := c.node, ahead := false, goodMarks := 0, trim := 0 }
    c.setElec { c.elec with master := some c.node, running := false, win := false, ownBeats := 0 }

/-- The election's counts of beats; while one runs, the number of the beat that starts enters MAX_BEAT (DEDUCED, log 36). -/
def Chip.electBoundary (c : Chip) : Chip :=
  let own := c.elec.running && c.elec.claim.isSome && c.elec.claim == c.ownClaim
  let c := c.setElec { c.elec with ownBeats := if own then c.elec.ownBeats + 1 else 0,
                                   silent := if c.activeLinks.isEmpty || c.esc.isMaster then 0 else c.elec.silent + 1 }
  if c.elec.running && c.elec.maxBeat.toNat < c.esc.beat.toNat then (c.setElec { c.elec with maxBeat := c.esc.beat }).sendElect else c

/-- The escapement at the boundary: the cycles left pass, and the next beat starts with its number and length. A tick is 12.5 cycles; the
half cycle that an odd trim leaves is carried to the next beat (R40). -/
def Chip.escBoundary (c : Chip) : Chip :=
  let c := (c.passCycles (c.esc.len - c.esc.cyc)).attestDone.attestDone.attestDone.attestDone.rteCycle
  let num := c.nextNum
  let c := (c.setEsc c.esc.missing).winBoundary
  let base := if c.esc.isMaster || c.esc.lock == .free then c.aget 0x100 0 8 * 1250 else c.esc.nextLen.getD c.esc.base
  let ticks : Int := if !c.esc.isMaster && (c.esc.markThisBeat || c.esc.lock == .holdover) then c.esc.trim else 0
  let halves : Int := ticks * 25 + c.esc.half
  let adj : Int := halves / 2
  let c := c.setEsc { c.esc with beat := num, cyc := 0, len := ((base : Int) + adj).toNat, adj := adj, half := (halves % 2).toNat,
                                 nextLen := none, adopt := none,
                                 markThisBeat := false, bounds := if c.stopped then c.esc.bounds else c.esc.bounds + 1 }
  c.electBoundary

/-- The master's marks (10_fabric.md R312): CORR is the time from cycle B to the framer. -/
def Chip.sendMarks (c : Chip) : Chip :=
  if !c.esc.isMaster then c
  else
    let f : BeatFlit :=
      { hops := 0, master := c.node, prio := BitVec.ofNat 4 (c.aget 0x100 12 4), epoch := c.elec.epoch, num := c.esc.beat,
        period := BitVec.ofNat 8 (c.esc.base / 1250), corr := 0 }
    c.activeLinks.foldl (fun c n => c.sendBeat n f (2 ^ 28)) c

/-! ### Work of the boundary in the blocks (R45) -/

/-- The counter snapshot (16_observation.md R464). -/
def Chip.snapshot (c : Chip) : Chip := c.setDbg { c.dbg with snap := c.dbg.cnt, snapBeat := c.esc.beat }

/-- The coalesced error records of the beat that ended (12_integrity.md R367); each error record queue may signal a drop again (R122). -/
def Chip.flushReports (c : Chip) : Chip :=
  if c.held.contains .int || c.held.contains .rng then c
  else
    let rs := c.int.reports
    let c := c.setInt { c.int with reports := [] }
    let c := c.setRng { c.rng with eqs := mapVals c.rng.eqs (fun _ q => { q with sig := false }) }
    rs.foldl (fun c r => c.writeReport r (r.ctx != 0 || r.tenant != 0)) c

/-- The power of the beat that ended, in watts as PWR measures it, against the limit (15_reset_clocks_power.md R458). -/
def Chip.powerEstimate (c : Chip) (watts : Nat) : Chip :=
  let w := min watts 1023
  let above := decide (c.get 0x20028 0 10 < w)
  let c := (c.set 0x2002C 0 10 w).setPwr { c.pwr with limited := above }
  if above then c.bump 0x20030 1 else c

/-- A command to QUIESCE or RUN takes effect, and QUIESCE of the thermal level (R453, R457). -/
def Chip.quiesceEffect (c : Chip) : Chip :=
  let soft := match c.pwr.cmd with
    | some (2, at') => c.pwr.soft || at' + 256 ≤ c.esc.now
    | some (0, _) => false
    | _ => c.pwr.soft
  let cmd := match c.pwr.cmd with
    | some (2, at') => if at' + 256 ≤ c.esc.now then none else c.pwr.cmd
    | _ => none
  let hot := decide (2 ≤ c.get rPWR_THERMAL 0 2)
  c.setPwr { c.pwr with cmd := cmd, soft := soft, hot := hot, reached := c.pwr.reached && c.quiesced && (soft || hot) }

/-- The regulator's budgets (11_memory_stacks.md R332); THROTTLE halves every cap (15_reset_clocks_power.md R457, R458). -/
def Chip.reloadBudgets (c : Chip) : Chip :=
  let half := c.pwr.limited || 1 ≤ c.get rPWR_THERMAL 0 2
  c.setReg { guar := (upTo 32).map (fun p => (p, c.guarBudget p c.esc.len)),
             cap := (upTo 32).map (fun p => (p, if half then c.capBudget p c.esc.len / 2 else c.capBudget p c.esc.len)) }

/-- Requests that wait have waited one more beat, and those that were held for a port's cap go on. -/
def Chip.issueHeld (c : Chip) : Chip :=
  let older (q : Qos) : Qos := { q with waited := q.waited + 1 }
  let c := c.setInt { c.int with reads := mapVals c.int.reads (fun _ r => { r with waited := r.waited + 1 }),
                                 stripes := mapVals c.int.stripes (fun _ o => { o with q := older o.q }) }
  let age (s : Stk) : Stk := { s with wq := s.wq.map (fun (w : WrEnt) => { w with q := older w.q }) }
  ({ c with stk := mapVals c.stk (fun _ s => age s) }).feedAll

/-- The grants of scrub and rebuild out of port 29's guaranteed budget (12_integrity.md R362). -/
def Chip.grants (c : Chip) : Chip :=
  let us := c.esc.base / 1250
  let w := ceilDiv (c.stripeCount * us) (c.aget rINT_SCRUB_CTL 0 16 * 60000000)
  let left := sumOf (c.red.rebuilding.map (fun e => ((c.extent e.1).backing + (c.extent e.1).len) * 4096 - e.2)) * 640
    + sumOf (c.red.resyncs.map (fun r => (512 - r.next) * 4096))
  let most := c.guarBudget 29 c.esc.len * c.aget rINT_SCRUB_CTL 16 7 / 100
  c.setInt { c.int with walkGrant := if c.bit rINT_CTL 0 && !c.quiesced then w else 0, rebuildGrant := min left most }

/-- Whether a directory checkpoint falls due (R45; 13_redundancy.md R387). -/
def Chip.ckptDue (c : Chip) : Bool :=
  c.bit rRED_CTL 0 && c.bit rRED_REGION 0 && c.red.ckpt.isNone
  && (!c.red.journaling || c.esc.beat.toNat % 2000 = 0 || 786432 ≤ c.journalFill || c.red.deferred)

/-- A checkpoint that falls due starts, or is deferred while BEAT_UNLOCKED is 1 (R42). -/
def Chip.checkpoint (c : Chip) : Chip :=
  if !c.ckptDue then c
  else if c.esc.lock.unlockedFlag then
    if c.red.deferred then c else (c.setRed { c.red with deferred := true }).bump rRED_CKPT_DEFERRED 1
  else (c.setRed { c.red with deferred := false }).startCkpt

/-- The stacks' training pauses (11_memory_stacks.md R343). -/
def Chip.startPauses (c : Chip) : Chip := if c.held.contains .spine then c else (upTo 20).foldl (fun c k => c.startPause k) c

/-- The work of the core blocks at B+2. -/
def Chip.coreBoundary (c : Chip) : Chip :=
  let c := c.overruns.zeroSpend.reloadBudgets
  let c := (c.oweRed 0).issueHeld
  let c := c.grants.startPauses
  (if c.held.contains .red then c else c.checkpoint.pumpResyncs.rebuildAsk).relExpire.dropUnits

/-- A beat boundary. The count pauses while REFCLK_SYS is lost (R39), and P reset holds ESC at beat 0. -/
def Chip.boundary (c : Chip) (watts : Nat) : Chip :=
  if !c.escCounts then c
  else
    let c := c.escBoundary.snapshot
    let c := { c with links := mapVals c.links (fun _ l => { l with bad := 0 }) }
    let c := (c.sendMarks.powerEstimate watts).quiesceEffect
    if c.stopped then c.startPauses
    else
      let c := c.flushReports.applyDue
      if c.held.contains .spine then c else c.coreBoundary

/-! ### Expiries -/

/-- HOLDOVER ends after 4 beats without a valid mark (R41). -/
def Chip.holdoverEnd (c : Chip) : Chip :=
  if c.esc.lock == .holdover && 4 ≤ c.esc.holdover && !c.esc.markThisBeat then (c.setEsc { c.esc with lock := .unlocked }).startElection else c

/-- Eight beats of an ACTIVE link without a valid BEAT or ELECT, counted as R47 gives. -/
def Chip.silence (c : Chip) : Chip :=
  if !c.activeLinks.isEmpty && !c.esc.isMaster && 9 ≤ c.elec.silent then c.startElection else c

/-- The own claim has stayed best for 4 beats: the package becomes master at its next boundary. -/
def Chip.electWin (c : Chip) : Chip :=
  if c.elec.running && c.elec.claim.isSome && c.elec.claim == c.ownClaim && 4 ≤ c.elec.ownBeats then c.setElec { c.elec with win := true } else c

/-- A link flit of a link that is ACTIVE. -/
def Chip.onActive (c : Chip) (link : Nat) (f : Chip → Chip) : Chip :=
  if link < 24 && c.lnkState link = lsActive && !c.held.contains (.lnk link) then f c else c

/-! ### Meanings -/

def execBeatBoundary (watts : Nat) (s : State) : Host.Outcome State Fault Refusal :=
  .next { s with chip := s.chip.boundary watts }

def execHoldoverExpiry (s : State) : Host.Outcome State Fault Refusal :=
  .next { s with chip := s.chip.holdoverEnd }

def execBeat (link : Nat) (f : BeatFlit) (late : Int) (s : State) : Host.Outcome State Fault Refusal :=
  .next { s with chip := s.chip.onActive link (fun c => c.beatIn link f late) }

def execElect (link : Nat) (f : ElectFlit) (s : State) : Host.Outcome State Fault Refusal :=
  .next { s with chip := s.chip.onActive link (fun c => c.electIn f) }

def execElectionSilenceExpiry (s : State) : Host.Outcome State Fault Refusal :=
  .next { s with chip := s.chip.silence }

def execElectionWin (s : State) : Host.Outcome State Fault Refusal :=
  .next { s with chip := s.chip.electWin }

end Sys2Proof.Machine
end

