-- ==== Sys2Proof/Machine/Dispatch.lean ====
section
/-! DEFINITION. One arm per command: a direct call of its meaning. -/

namespace Sys2Proof.Machine

def exec (i : Instr) (s : State) : Host.Outcome State Fault Refusal :=
  match i with
  | .registerWrite who off width val => Sys2Proof.Machine.execRegisterWrite who off width val s
  | .counterReadClear who off r => Sys2Proof.Machine.execCounterReadClear who off r s
  | .reg64LowRead who off => Sys2Proof.Machine.execReg64LowRead who off s
  | .reg64HighRead who off => Sys2Proof.Machine.execReg64HighRead who off s
  | .reg64LowWrite who off val => Sys2Proof.Machine.execReg64LowWrite who off val s
  | .reg64HighWrite who off val => Sys2Proof.Machine.execReg64HighWrite who off val s
  | .beatBoundary watts => Sys2Proof.Machine.execBeatBoundary watts s
  | .holdoverExpiry => Sys2Proof.Machine.execHoldoverExpiry s
  | .beat link f late => Sys2Proof.Machine.execBeat link f late s
  | .elect link f => Sys2Proof.Machine.execElect link f s
  | .electionSilenceExpiry => Sys2Proof.Machine.execElectionSilenceExpiry s
  | .electionWin => Sys2Proof.Machine.execElectionWin s
  | .glbCommit who mask => Sys2Proof.Machine.execGlbCommit who mask s
  | .commitCheckDone ticket => Sys2Proof.Machine.execCommitCheckDone ticket s
  | .cntClearAll who => Sys2Proof.Machine.execCntClearAll who s
  | .ctxSet d => Sys2Proof.Machine.execCtxSet d s
  | .ctxClear d => Sys2Proof.Machine.execCtxClear d s
  | .ctxChangePoint ctx => Sys2Proof.Machine.execCtxChangePoint ctx s
  | .extMap d => Sys2Proof.Machine.execExtMap d s
  | .extRevoke d => Sys2Proof.Machine.execExtRevoke d s
  | .revocationPoint handle => Sys2Proof.Machine.execRevocationPoint handle s
  | .drainEnd handle => Sys2Proof.Machine.execDrainEnd handle s
  | .drainBoundExpiry handle => Sys2Proof.Machine.execDrainBoundExpiry handle s
  | .extRelease d => Sys2Proof.Machine.execExtRelease d s
  | .directoryWalk elb ctx pla => Sys2Proof.Machine.execDirectoryWalk elb ctx pla s
  | .entryRebuild kind index => Sys2Proof.Machine.execEntryRebuild kind index s
  | .rd link m => Sys2Proof.Machine.execRd link m s
  | .wr link m => Sys2Proof.Machine.execWr link m s
  | .wrBe link m => Sys2Proof.Machine.execWrBe link m s
  | .rdRsp link m => Sys2Proof.Machine.execRdRsp link m s
  | .wrAck link m => Sys2Proof.Machine.execWrAck link m s
  | .lendDone link m => Sys2Proof.Machine.execLendDone link m s
  | .reclaim link m => Sys2Proof.Machine.execReclaim link m s
  | .lenderLoss node why => Sys2Proof.Machine.execLenderLoss node why s
  | .bar4Read fn off bytes tag stream => Sys2Proof.Machine.execBar4Read fn off bytes tag stream s
  | .bar4Write fn off data stream => Sys2Proof.Machine.execBar4Write fn off data stream s
  | .stackReadData id line => Sys2Proof.Machine.execStackReadData id line s
  | .lineReconstruct id line => Sys2Proof.Machine.execLineReconstruct id line s
  | .stripeWrite id => Sys2Proof.Machine.execStripeWrite id s
  | .stripeWriteIssue id => Sys2Proof.Machine.execStripeWriteIssue id s
  | .sqTailWrite fn ring acc val stream => Sys2Proof.Machine.execSqTailWrite fn ring acc val stream s
  | .cqHeadWrite fn ring width val stream => Sys2Proof.Machine.execCqHeadWrite fn ring width val stream s
  | .fqHeadWrite fn ring q width val stream => Sys2Proof.Machine.execFqHeadWrite fn ring q width val stream s
  | .eqHeadWrite fn ring q width val stream => Sys2Proof.Machine.execEqHeadWrite fn ring q width val stream s
  | .doorbell link m => Sys2Proof.Machine.execDoorbell link m s
  | .descriptorArrival ring ok slots => Sys2Proof.Machine.execDescriptorArrival ring ok slots s
  | .descriptorStart => Sys2Proof.Machine.execDescriptorStart s
  | .ringPriorityAging ring => Sys2Proof.Machine.execRingPriorityAging ring s
  | .nop d => Sys2Proof.Machine.execNop d s
  | .ringSet d => Sys2Proof.Machine.execRingSet d s
  | .ringAbort d => Sys2Proof.Machine.execRingAbort d s
  | .ringAbortDone ring => Sys2Proof.Machine.execRingAbortDone ring s
  | .queueEnable d => Sys2Proof.Machine.execQueueEnable d s
  | .queueDisable d => Sys2Proof.Machine.execQueueDisable d s
  | .ring0Enable who val => Sys2Proof.Machine.execRing0Enable who val s
  | .ring0Disable who val => Sys2Proof.Machine.execRing0Disable who val s
  | .fq0Enable who val => Sys2Proof.Machine.execFq0Enable who val s
  | .fq0Disable who val => Sys2Proof.Machine.execFq0Disable who val s
  | .eq0Enable who val => Sys2Proof.Machine.execEq0Enable who val s
  | .eq0Disable who val => Sys2Proof.Machine.execEq0Disable who val s
  | .completionTake => Sys2Proof.Machine.execCompletionTake s
  | .batchWaitExpiry batch => Sys2Proof.Machine.execBatchWaitExpiry batch s
  | .domainSet d => Sys2Proof.Machine.execDomainSet d s
  | .domainClear d => Sys2Proof.Machine.execDomainClear d s
  | .attach d => Sys2Proof.Machine.execAttach d s
  | .xltInval d => Sys2Proof.Machine.execXltInval d s
  | .xltInvalDone => Sys2Proof.Machine.execXltInvalDone s
  | .xltWalk domain va => Sys2Proof.Machine.execXltWalk domain va s
  | .moverBurst mover => Sys2Proof.Machine.execMoverBurst mover s
  | .copy d => Sys2Proof.Machine.execCopy d s
  | .fill d => Sys2Proof.Machine.execFill d s
  | .scrub d => Sys2Proof.Machine.execScrub d s
  | .convert d => Sys2Proof.Machine.execConvert d s
  | .fold d => Sys2Proof.Machine.execFold d s
  | .foldWrite d => Sys2Proof.Machine.execFoldWrite d s
  | .reduceScatter d => Sys2Proof.Machine.execReduceScatter d s
  | .allReduce d => Sys2Proof.Machine.execAllReduce d s
  | .broadcast d => Sys2Proof.Machine.execBroadcast d s
  | .gather d => Sys2Proof.Machine.execGather d s
  | .scatter d => Sys2Proof.Machine.execScatter d s
  | .optStepAdamw d => Sys2Proof.Machine.execOptStepAdamw d s
  | .optStepLion d => Sys2Proof.Machine.execOptStepLion d s
  | .optStepSgdMomentum d => Sys2Proof.Machine.execOptStepSgdMomentum d s
  | .seal d => Sys2Proof.Machine.execSeal d s
  | .check d => Sys2Proof.Machine.execCheck d s
  | .complication d => Sys2Proof.Machine.execComplication d s
  | .watch d => Sys2Proof.Machine.execWatch d s
  | .sliceAdmit op => Sys2Proof.Machine.execSliceAdmit op s
  | .tileStart unit => Sys2Proof.Machine.execTileStart unit s
  | .operatorComplete op => Sys2Proof.Machine.execOperatorComplete op s
  | .peerTimeout op peer => Sys2Proof.Machine.execPeerTimeout op peer s
  | .foldArmed slot => Sys2Proof.Machine.execFoldArmed slot s
  | .foldContrib link m => Sys2Proof.Machine.execFoldContrib link m s
  | .foldInitRead slot tile => Sys2Proof.Machine.execFoldInitRead slot tile s
  | .foldTileConvert slot tile => Sys2Proof.Machine.execFoldTileConvert slot tile s
  | .foldRegionClose slot => Sys2Proof.Machine.execFoldRegionClose slot s
  | .foldTimeout slot => Sys2Proof.Machine.execFoldTimeout slot s
  | .kvAppend d => Sys2Proof.Machine.execKvAppend d s
  | .kvAppendAdmit => Sys2Proof.Machine.execKvAppendAdmit s
  | .kvAppendCommit id => Sys2Proof.Machine.execKvAppendCommit id s
  | .kvGather d => Sys2Proof.Machine.execKvGather d s
  | .kvCreate d => Sys2Proof.Machine.execKvCreate d s
  | .kvFork d => Sys2Proof.Machine.execKvFork d s
  | .kvForkPrefix d => Sys2Proof.Machine.execKvForkPrefix d s
  | .kvPublish d => Sys2Proof.Machine.execKvPublish d s
  | .kvDropQuire d => Sys2Proof.Machine.execKvDropQuire d s
  | .kvDropPrefix d => Sys2Proof.Machine.execKvDropPrefix d s
  | .kvPinQuire d => Sys2Proof.Machine.execKvPinQuire d s
  | .kvPinPrefix d => Sys2Proof.Machine.execKvPinPrefix d s
  | .kvEvictAge d => Sys2Proof.Machine.execKvEvictAge d s
  | .kvEvictQuota d => Sys2Proof.Machine.execKvEvictQuota d s
  | .kveInit who val => Sys2Proof.Machine.execKveInit who val s
  | .kveAdopt who val => Sys2Proof.Machine.execKveAdopt who val s
  | .kveReady => Sys2Proof.Machine.execKveReady s
  | .tchkInit who val => Sys2Proof.Machine.execTchkInit who val s
  | .tchkAdopt who val => Sys2Proof.Machine.execTchkAdopt who val s
  | .tchkInitDone => Sys2Proof.Machine.execTchkInitDone s
  | .rdShared link m => Sys2Proof.Machine.execRdShared link m s
  | .rdOwn link m => Sys2Proof.Machine.execRdOwn link m s
  | .upgrade link m => Sys2Proof.Machine.execUpgrade link m s
  | .wbData link m => Sys2Proof.Machine.execWbData link m s
  | .wbClean link m => Sys2Proof.Machine.execWbClean link m s
  | .evictS link m => Sys2Proof.Machine.execEvictS link m s
  | .snpAck link m => Sys2Proof.Machine.execSnpAck link m s
  | .snpAckData link m => Sys2Proof.Machine.execSnpAckData link m s
  | .heartbeat link m => Sys2Proof.Machine.execHeartbeat link m s
  | .agentJoin d => Sys2Proof.Machine.execAgentJoin d s
  | .agentLeave d => Sys2Proof.Machine.execAgentLeave d s
  | .agentLeaveDone agent => Sys2Proof.Machine.execAgentLeaveDone agent s
  | .agentLoss agent why => Sys2Proof.Machine.execAgentLoss agent why s
  | .linkEnable who link val => Sys2Proof.Machine.execLinkEnable who link val s
  | .linkCmdRetrain who link => Sys2Proof.Machine.execLinkCmdRetrain who link s
  | .linkCmdDown who link => Sys2Proof.Machine.execLinkCmdDown who link s
  | .lightDetected link => Sys2Proof.Machine.execLightDetected link s
  | .lossOfSignal link => Sys2Proof.Machine.execLossOfSignal link s
  | .laserLoss laser => Sys2Proof.Machine.execLaserLoss laser s
  | .probeBurst link => Sys2Proof.Machine.execProbeBurst link s
  | .linkLockDone link locked lowErrors => Sys2Proof.Machine.execLinkLockDone link locked lowErrors s
  | .hello link f => Sys2Proof.Machine.execHello link f s
  | .keyOffer link fr o => Sys2Proof.Machine.execKeyOffer link fr o s
  | .keyResponse link fr ct secret => Sys2Proof.Machine.execKeyResponse link fr ct secret s
  | .keyFinish link fr sigOk => Sys2Proof.Machine.execKeyFinish link fr sigOk s
  | .time link t1 t2 t3 arrival => Sys2Proof.Machine.execTime link t1 t2 t3 arrival s
  | .linkTrainTimeout link => Sys2Proof.Machine.execLinkTrainTimeout link s
  | .downHoldExpiry link => Sys2Proof.Machine.execDownHoldExpiry link s
  | .tag link g seq tagOk => Sys2Proof.Machine.execTag link g seq tagOk s
  | .lctl link f => Sys2Proof.Machine.execLctl link f s
  | .replayTimeout link => Sys2Proof.Machine.execReplayTimeout link s
  | .lightFecFallback link => Sys2Proof.Machine.execLightFecFallback link s
  | .msgAbort link vc => Sys2Proof.Machine.execMsgAbort link vc s
  | .rteEnable who val => Sys2Proof.Machine.execRteEnable who val s
  | .messageRoute port vc => Sys2Proof.Machine.execMessageRoute port vc s
  | .refreshDue stack bank => Sys2Proof.Machine.execRefreshDue stack bank s
  | .rfmDue stack bank => Sys2Proof.Machine.execRfmDue stack bank s
  | .tempRead stack temp => Sys2Proof.Machine.execTempRead stack temp s
  | .trainPauseEnd stack ok => Sys2Proof.Machine.execTrainPauseEnd stack ok s
  | .rowIdleClose stack bank => Sys2Proof.Machine.execRowIdleClose stack bank s
  | .urgencyRise stack port level => Sys2Proof.Machine.execUrgencyRise stack port level s
  | .bestEffortPromote id => Sys2Proof.Machine.execBestEffortPromote id s
  | .selfRefreshDone stack => Sys2Proof.Machine.execSelfRefreshDone stack s
  | .stackReady stack ok => Sys2Proof.Machine.execStackReady stack ok s
  | .scrubStripe => Sys2Proof.Machine.execScrubStripe s
  | .intScrubNow who stripe => Sys2Proof.Machine.execIntScrubNow who stripe s
  | .zeroFolio => Sys2Proof.Machine.execZeroFolio s
  | .intFlipArm who val => Sys2Proof.Machine.execIntFlipArm who val s
  | .catClear who n => Sys2Proof.Machine.execCatClear who n s
  | .selfTest failing => Sys2Proof.Machine.execSelfTest failing s
  | .redEnable who val => Sys2Proof.Machine.execRedEnable who val s
  | .redGroupClear who group => Sys2Proof.Machine.execRedGroupClear who group s
  | .partnerLoss group why => Sys2Proof.Machine.execPartnerLoss group why s
  | .mirrorRetry id => Sys2Proof.Machine.execMirrorRetry id s
  | .resyncDirty who group => Sys2Proof.Machine.execResyncDirty who group s
  | .resyncAll who group => Sys2Proof.Machine.execResyncAll who group s
  | .resyncFolioDone group folio => Sys2Proof.Machine.execResyncFolioDone group folio s
  | .journalAck jseq fromPartner => Sys2Proof.Machine.execJournalAck jseq fromPartner s
  | .checkpointHeader => Sys2Proof.Machine.execCheckpointHeader s
  | .tableRestore => Sys2Proof.Machine.execTableRestore s
  | .restoreStart who => Sys2Proof.Machine.execRestoreStart who s
  | .restoreDone r => Sys2Proof.Machine.execRestoreDone r s
  | .rebuildStripe stripe lines => Sys2Proof.Machine.execRebuildStripe stripe lines s
  | .attest via tenant tenantValid nonce => Sys2Proof.Machine.execAttest via tenant tenantValid nonce s
  | .fwStage c slot img => Sys2Proof.Machine.execFwStage c slot img s
  | .fwCancel c => Sys2Proof.Machine.execFwCancel c s
  | .svnAdvance c => Sys2Proof.Machine.execSvnAdvance c s
  | .mgmtKeySet c slot k => Sys2Proof.Machine.execMgmtKeySet c slot k s
  | .anchorSet c slot k => Sys2Proof.Machine.execAnchorSet c slot k s
  | .debugUnlock c level => Sys2Proof.Machine.execDebugUnlock c level s
  | .tenantBind d b => Sys2Proof.Machine.execTenantBind d b s
  | .tenantUnbind d => Sys2Proof.Machine.execTenantUnbind d s
  | .unbindRingsAbort tenant => Sys2Proof.Machine.execUnbindRingsAbort tenant s
  | .unbindRetire tenant => Sys2Proof.Machine.execUnbindRetire tenant s
  | .unbindComplete tenant => Sys2Proof.Machine.execUnbindComplete tenant s
  | .contentKeyLoad d e => Sys2Proof.Machine.execContentKeyLoad d e s
  | .tamper sensor => Sys2Proof.Machine.execTamper sensor s
  | .entropyHealthFail => Sys2Proof.Machine.execEntropyHealthFail s
  | .drbgReseed => Sys2Proof.Machine.execDrbgReseed s
  | .secSelfTest ok => Sys2Proof.Machine.execSecSelfTest ok s
  | .romBoot a b => Sys2Proof.Machine.execRomBoot a b s
  | .seqDigestCheck mgt digest => Sys2Proof.Machine.execSeqDigestCheck mgt digest s
  | .bootRecordWrite link => Sys2Proof.Machine.execBootRecordWrite link s
  | .ideSessionOpen ct secret => Sys2Proof.Machine.execIdeSessionOpen ct secret s
  | .ideKm stream key => Sys2Proof.Machine.execIdeKm stream key s
  | .ideStreamInsecure stream => Sys2Proof.Machine.execIdeStreamInsecure stream s
  | .doeDiscovery fn => Sys2Proof.Machine.execDoeDiscovery fn s
  | .powerOnReset => Sys2Proof.Machine.execPowerOnReset s
  | .perst => Sys2Proof.Machine.execPerst s
  | .rstSysN => Sys2Proof.Machine.execRstSysN s
  | .rstCoreN => Sys2Proof.Machine.execRstCoreN s
  | .rcuCmdCore who key => Sys2Proof.Machine.execRcuCmdCore who key s
  | .rcuCmdSystem who key => Sys2Proof.Machine.execRcuCmdSystem who key s
  | .watchdogExpiry => Sys2Proof.Machine.execWatchdogExpiry s
  | .rcuWdtKick who => Sys2Proof.Machine.execRcuWdtKick who s
  | .clockLoss domain => Sys2Proof.Machine.execClockLoss domain s
  | .vddCoreLow => Sys2Proof.Machine.execVddCoreLow s
  | .resetRelease link => Sys2Proof.Machine.execResetRelease link s
  | .fuseLoad crcOk => Sys2Proof.Machine.execFuseLoad crcOk s
  | .stormClear viaI3c => Sys2Proof.Machine.execStormClear viaI3c s
  | .idleEntry => Sys2Proof.Machine.execIdleEntry s
  | .pwrRun who => Sys2Proof.Machine.execPwrRun who s
  | .pwrQuiesce who => Sys2Proof.Machine.execPwrQuiesce who s
  | .quiesceReached => Sys2Proof.Machine.execQuiesceReached s
  | .pwrRetain who pciIdle => Sys2Proof.Machine.execPwrRetain who pciIdle s
  | .retainWake => Sys2Proof.Machine.execRetainWake s
  | .supplyTrip rail => Sys2Proof.Machine.execSupplyTrip rail s
  | .inhibitClear => Sys2Proof.Machine.execInhibitClear s
  | .thermalSample tLogic => Sys2Proof.Machine.execThermalSample tLogic s
  | .dbgStop who => Sys2Proof.Machine.execDbgStop who s
  | .dbgResume who => Sys2Proof.Machine.execDbgResume who s
  | .gstopNFall => Sys2Proof.Machine.execGstopNFall s
  | .jtagStop => Sys2Proof.Machine.execJtagStop s
  | .scanOut => Sys2Proof.Machine.execScanOut s
  | .trcArm who => Sys2Proof.Machine.execTrcArm who s
  | .trcForceTrig who => Sys2Proof.Machine.execTrcForceTrig who s
  | .traceEntry e => Sys2Proof.Machine.execTraceEntry e s
  | .traceSpill => Sys2Proof.Machine.execTraceSpill s
  | .lccInvalidate who => Sys2Proof.Machine.execLccInvalidate who s
  | .lccSweepDone => Sys2Proof.Machine.execLccSweepDone s
  | .mgtFlashErase src => Sys2Proof.Machine.execMgtFlashErase src s
  | .mgtFlashProgram src data => Sys2Proof.Machine.execMgtFlashProgram src data s
  | .flashOpDone deviceOk => Sys2Proof.Machine.execFlashOpDone deviceOk s
  | .ethStatus id => Sys2Proof.Machine.execEthStatus id s
  | .contextTimeout kind id => Sys2Proof.Machine.execContextTimeout kind id s
  | .hostReadCompletion mover ok data => Sys2Proof.Machine.execHostReadCompletion mover ok data s
  | .uncorrectableBlock link seq => Sys2Proof.Machine.execUncorrectableBlock link seq s
  | .clockGood domain => Sys2Proof.Machine.execClockGood domain s
  | .laserOkSet laser => Sys2Proof.Machine.execLaserOkSet laser s
  | .activeCopyRewrite off => Sys2Proof.Machine.execActiveCopyRewrite off s

end Sys2Proof.Machine
end

