-- ==== Sys2Proof/WellFormed.lean ====
section
/-! DEFINITION. What a well-formed command is: its operands lie in the ranges that the manual gives them, and a descriptor or a
message carries the opcode of its command. The meanings do not rest on it: they are total, and answer an operand out of range as the
manual answers what does not exist. -/

namespace Sys2Proof

/-- A part of a descriptor: `w` bits from bit `lo` of byte `off` (00_scope.md R5). -/
def Desc.part (d : Desc) (off lo w : Nat) : Nat := d.raw.toNat / 2 ^ (8 * off + lo) % 2 ^ w

/-- A descriptor of an opcode (04_rings_and_descriptors.md R100) on one of the 4,096 rings (R89). -/
def Desc.spells (d : Desc) (op : Nat) : Bool := d.part 0 0 8 == op && d.ring < 4096

/-- A descriptor whose action is told by a field of its body. -/
def Desc.acts (d : Desc) (op off lo w v : Nat) : Bool := d.spells op && d.part off lo w == v

/-- A virtual function has a number from 1 to 255 (17_host_port_management.md R474); VF 0 would be PF 0. -/
def Who.wf : Who → Bool
  | .vf n => 1 ≤ n && n ≤ 255
  | .pf0 => true
  | .mgt => true
  | .jtag => true

/-- Who sends a request for flash. -/
def FlashFrom.wf : FlashFrom → Bool
  | .register who => who.wf
  | .service _ _ => true

/-- A message of an opcode (10_fabric.md R293). -/
def Msg.spells (m : Msg) (op : Nat) : Bool := m.opcode.toNat == op

/-- One of the 24 links (10_fabric.md R280), a ring, a queue, a context, a handle, a stack, a bank, a tenant. -/
def okLink (n : Nat) : Bool := n < 24
def okRing (n : Nat) : Bool := n < 4096
def okQueue (n : Nat) : Bool := n < 64
def okCtx (n : Nat) : Bool := n < 65536
def okHandle (n : Nat) : Bool := n < 262144
def okFn (n : Nat) : Bool := n < 256
def okStack (n : Nat) : Bool := n < 20
def okTenant (n : Nat) : Bool := n < 1024

/-- A doorbell register is written as one DWORD or one QWORD. -/
def okBell (width : Nat) : Bool := 1 ≤ width && width ≤ 64

/-- An access of a doorbell page lies in it (R95); a read is of one 32-bit word. -/
def PageAccess.ok : PageAccess → Bool
  | .write w => okBell w
  | .other off w => okBell w && off < 4096
  | .read off tag => off < 4096 && off % 4 == 0 && tag < 65536

/-- The byte strings of a link key OFFER have their lengths (14_security.md R425). -/
def Offer.ok (o : Offer) : Bool :=
  o.anchorPk.length == 2592 && o.identityPk.length == 2592 && o.endorsement.length == 4627 && o.ek.length == 1568

/-- An attestation request through DOE comes from a function (R404). -/
def Transport.ok : Transport → Bool
  | .doe fn => okFn fn
  | .mailbox => true
  | .ethernet _ => true

def Instr.wf : Instr → Bool
  | .registerWrite who _ _ _ => who.wf
  | .counterReadClear who _ _ => who.wf
  | .reg64LowRead who off => who.wf && off % 8 == 0
  | .reg64HighRead who off => who.wf && off % 8 == 4
  | .reg64LowWrite who off _ => who.wf && off % 8 == 0
  | .reg64HighWrite who off _ => who.wf && off % 8 == 4
  | .beatBoundary _ => true
  | .holdoverExpiry => true
  | .beat link _ _ => okLink link
  | .elect link _ => okLink link
  | .electionSilenceExpiry => true
  | .electionWin => true
  | .glbCommit who _ => who.wf
  | .commitCheckDone _ => true
  | .cntClearAll who => who.wf
  | .ctxSet d => d.spells 0x10
  | .ctxClear d => d.spells 0x11
  | .ctxChangePoint ctx => okCtx ctx
  | .extMap d => d.spells 0x12
  | .extRevoke d => d.spells 0x13
  | .revocationPoint handle => okHandle handle
  | .drainEnd handle => okHandle handle
  | .drainBoundExpiry handle => okHandle handle
  | .extRelease d => d.spells 0x14
  | .directoryWalk elb ctx pla => elb < 29 && okCtx ctx && pla < 2 ^ 48
  | .entryRebuild kind index => kind < 3 && index < 262144
  | .rd link m => okLink link && m.spells 0x01
  | .wr link m => okLink link && m.spells 0x02
  | .wrBe link m => okLink link && m.spells 0x03
  | .rdRsp link m => okLink link && m.spells 0x20
  | .wrAck link m => okLink link && m.spells 0x21
  | .lendDone link m => okLink link && m.spells 0x23
  | .reclaim link m => okLink link && m.spells 0x0A
  | .lenderLoss _ _ => true
  | .bar4Read fn _ bytes _ _ => okFn fn && 0 < bytes
  | .bar4Write fn _ data _ => okFn fn && !data.isEmpty
  | .stackReadData _ _ => true
  | .lineReconstruct _ _ => true
  | .stripeWrite _ => true
  | .stripeWriteIssue _ => true
  | .sqTailWrite fn ring acc _ _ => okFn fn && okRing ring && acc.ok
  | .cqHeadWrite fn ring width _ _ => okFn fn && okRing ring && okBell width
  | .fqHeadWrite fn ring q width _ _ => okFn fn && okRing ring && okQueue q && okBell width
  | .eqHeadWrite fn ring q width _ _ => okFn fn && okRing ring && okQueue q && okBell width
  | .doorbell link m => okLink link && m.spells 0x08
  | .descriptorArrival ring _ slots => okRing ring && slots.length ≤ 64
  | .descriptorStart => true
  | .ringPriorityAging ring => okRing ring
  | .nop d => d.spells 0x00
  | .ringSet d => d.spells 0x01
  | .ringAbort d => d.spells 0x02
  | .ringAbortDone ring => okRing ring
  | .queueEnable d => d.acts 0x03 16 1 1 1
  | .queueDisable d => d.acts 0x03 16 1 1 0
  | .ring0Enable who _ => who.wf
  | .ring0Disable who _ => who.wf
  | .fq0Enable who _ => who.wf
  | .fq0Disable who _ => who.wf
  | .eq0Enable who _ => who.wf
  | .eq0Disable who _ => who.wf
  | .completionTake => true
  | .batchWaitExpiry batch => batch < 4224
  | .domainSet d => d.acts 0x19 16 0 2 0
  | .domainClear d => d.acts 0x19 16 0 2 1
  | .attach d => d.acts 0x19 16 0 2 2
  | .xltInval d => d.spells 0x18
  | .xltInvalDone => true
  | .xltWalk domain va => domain < 4096 && va < 2 ^ 64
  | .moverBurst mover => mover < 32
  | .copy d => d.spells 0x20
  | .fill d => d.spells 0x21
  | .scrub d => d.spells 0x22
  | .convert d => d.spells 0x23
  | .fold d => d.spells 0x24
  | .foldWrite d => d.spells 0x25
  | .reduceScatter d => d.spells 0x26
  | .allReduce d => d.spells 0x27
  | .broadcast d => d.spells 0x28
  | .gather d => d.spells 0x29
  | .scatter d => d.spells 0x2A
  | .optStepAdamw d => d.acts 0x2B 58 0 2 0
  | .optStepLion d => d.acts 0x2B 58 0 2 1
  | .optStepSgdMomentum d => d.acts 0x2B 58 0 2 2
  | .seal d => d.spells 0x2C
  | .check d => d.spells 0x2D
  | .complication d => d.spells 0x2E
  | .watch d => d.spells 0x2F
  | .sliceAdmit _ => true
  | .tileStart unit => unit < 64
  | .operatorComplete _ => true
  | .peerTimeout _ peer => peer < 4096
  | .foldArmed slot => slot < 4096
  | .foldContrib link m => okLink link && m.spells 0x10
  | .foldInitRead slot _ => slot < 4096
  | .foldTileConvert slot _ => slot < 4096
  | .foldRegionClose slot => slot < 4096
  | .foldTimeout slot => slot < 4096
  | .kvAppend d => d.spells 0x30
  | .kvAppendAdmit => true
  | .kvAppendCommit _ => true
  | .kvGather d => d.spells 0x31
  | .kvCreate d => d.acts 0x32 16 0 2 0
  | .kvFork d => d.acts 0x32 16 0 2 1
  | .kvForkPrefix d => d.acts 0x32 16 0 2 2
  | .kvPublish d => d.acts 0x32 16 0 2 3
  | .kvDropQuire d => d.acts 0x33 16 0 1 0
  | .kvDropPrefix d => d.acts 0x33 16 0 1 1
  | .kvPinQuire d => d.acts 0x34 16 0 1 0
  | .kvPinPrefix d => d.acts 0x34 16 0 1 1
  | .kvEvictAge d => d.acts 0x35 16 0 1 0
  | .kvEvictQuota d => d.acts 0x35 16 0 1 1
  | .kveInit who _ => who.wf
  | .kveAdopt who _ => who.wf
  | .kveReady => true
  | .tchkInit who _ => who.wf
  | .tchkAdopt who _ => who.wf
  | .tchkInitDone => true
  | .rdShared link m => okLink link && m.spells 0x40
  | .rdOwn link m => okLink link && m.spells 0x41
  | .upgrade link m => okLink link && m.spells 0x42
  | .wbData link m => okLink link && m.spells 0x43
  | .wbClean link m => okLink link && m.spells 0x44
  | .evictS link m => okLink link && m.spells 0x45
  | .snpAck link m => okLink link && m.spells 0x63
  | .snpAckData link m => okLink link && m.spells 0x64
  | .heartbeat link m => okLink link && m.spells 0x66
  | .agentJoin d => d.spells 0x38
  | .agentLeave d => d.spells 0x39
  | .agentLeaveDone agent => agent < 64
  | .agentLoss agent _ => agent < 64
  | .linkEnable who link _ => who.wf && okLink link
  | .linkCmdRetrain who link => who.wf && okLink link
  | .linkCmdDown who link => who.wf && okLink link
  | .lightDetected link => okLink link
  | .lossOfSignal link => okLink link
  | .laserLoss laser => laser < 4
  | .probeBurst link => okLink link
  | .linkLockDone link _ _ => okLink link
  | .hello link _ => okLink link
  | .keyOffer link _ o => okLink link && o.ok
  | .keyResponse link _ ct _ => okLink link && ct.length == 1568
  | .keyFinish link _ _ => okLink link
  | .time link _ _ _ _ => okLink link
  | .linkTrainTimeout link => okLink link
  | .downHoldExpiry link => okLink link
  | .tag link g _ _ => okLink link && g.slots.length ≤ 31 && g.fixed ≤ 32
  | .lctl link f => okLink link && f.credit.length == 12
  | .replayTimeout link => okLink link
  | .lightFecFallback link => okLink link
  | .msgAbort link vc => okLink link && vc < 12
  | .rteEnable who _ => who.wf
  | .messageRoute port vc => port < 25 && vc < 12
  | .refreshDue stack bank => okStack stack && bank < 4096
  | .rfmDue stack bank => okStack stack && bank < 4096
  | .tempRead stack _ => okStack stack
  | .trainPauseEnd stack _ => okStack stack
  | .rowIdleClose stack bank => okStack stack && bank < 4096
  | .urgencyRise stack port level => okStack stack && port < 32 && level ≤ 4
  | .bestEffortPromote _ => true
  | .selfRefreshDone stack => okStack stack
  | .stackReady stack _ => okStack stack
  | .scrubStripe => true
  | .intScrubNow who _ => who.wf
  | .zeroFolio => true
  | .intFlipArm who _ => who.wf
  | .catClear who _ => who.wf
  | .selfTest _ => true
  | .redEnable who _ => who.wf
  | .redGroupClear who group => who.wf && group < 4096
  | .partnerLoss group _ => group < 4096
  | .mirrorRetry _ => true
  | .resyncDirty who group => who.wf && group < 4096
  | .resyncAll who group => who.wf && group < 4096
  | .resyncFolioDone group _ => group < 4096
  | .journalAck _ _ => true
  | .checkpointHeader => true
  | .tableRestore => true
  | .restoreStart who => who.wf
  | .restoreDone _ => true
  | .rebuildStripe _ lines => lines.all (fun l => l.length == 64)
  | .attest via tenant _ _ => via.ok && okTenant tenant
  | .fwStage _ slot _ => slot < 2
  | .fwCancel _ => true
  | .svnAdvance _ => true
  | .mgmtKeySet _ _ _ => true
  | .anchorSet _ _ _ => true
  | .debugUnlock _ _ => true
  | .tenantBind d _ => d.spells 0x40
  | .tenantUnbind d => d.spells 0x41
  | .unbindRingsAbort tenant => okTenant tenant
  | .unbindRetire tenant => okTenant tenant
  | .unbindComplete tenant => okTenant tenant
  | .contentKeyLoad d _ => d.spells 0x42
  | .tamper _ => true
  | .entropyHealthFail => true
  | .drbgReseed => true
  | .secSelfTest _ => true
  | .romBoot _ _ => true
  | .seqDigestCheck _ _ => true
  | .bootRecordWrite _ => true
  | .ideSessionOpen ct _ => ct.length == 1568
  | .ideKm _ _ => true
  | .ideStreamInsecure _ => true
  | .doeDiscovery fn => okFn fn
  | .powerOnReset => true
  | .perst => true
  | .rstSysN => true
  | .rstCoreN => true
  | .rcuCmdCore who _ => who.wf
  | .rcuCmdSystem who _ => who.wf
  | .watchdogExpiry => true
  | .rcuWdtKick who => who.wf
  | .clockLoss domain => domain < 52
  | .vddCoreLow => true
  | .resetRelease _ => true
  | .fuseLoad _ => true
  | .stormClear _ => true
  | .idleEntry => true
  | .pwrRun who => who.wf
  | .pwrQuiesce who => who.wf
  | .quiesceReached => true
  | .pwrRetain who _ => who.wf
  | .retainWake => true
  | .supplyTrip _ => true
  | .inhibitClear => true
  | .thermalSample _ => true
  | .dbgStop who => who.wf
  | .dbgResume who => who.wf
  | .gstopNFall => true
  | .jtagStop => true
  | .scanOut => true
  | .trcArm who => who.wf
  | .trcForceTrig who => who.wf
  | .traceEntry _ => true
  | .traceSpill => true
  | .lccInvalidate who => who.wf
  | .lccSweepDone => true
  | .mgtFlashErase src => src.wf
  | .mgtFlashProgram src data => src.wf && data.length == 256
  | .flashOpDone _ => true
  | .ethStatus _ => true
  | .contextTimeout _ _ => true
  | .hostReadCompletion mover _ _ => mover < 64
  | .uncorrectableBlock link _ => okLink link
  | .clockGood domain => domain < 52
  | .laserOkSet laser => laser < 4
  | .activeCopyRewrite _ => true

end Sys2Proof
end

