-- ==== Sys2Proof/Safety.lean ====
section
/-! DEFINITION. The terms in which the statements speak: a command that completes, a block that serves, a register that a requester
reaches, the canonical form of the stored memory, and what a safe state is. -/

namespace Sys2Proof

open Sys2Proof.Machine

/-- The command completes: `exec` answers a next state, the queue is as it was, and the package satisfies `P`. -/
def Runs (i : Instr) (s : State) (P : Chip → Prop) : Prop :=
  ∃ t : State, exec i s = .next t ∧ t.pending = s.pending ∧ P t.chip

/-- A block serves its commands: it is out of reset and no stop holds it (15_reset_clocks_power.md R442, 16_observation.md R471). -/
abbrev Serves (s : State) (b : Blk) : Prop := s.chip.paused b = false ∧ s.chip.held.contains b = false

/-- A requester reaches a register, and its window is not shut (18_register_map.md R494, R495). -/
abbrev Reaches (s : State) (who : Who) (off : Nat) : Prop := s.chip.reaches who off = true ∧ s.chip.shut off = false

/-- A word that a requester writes by its fields' access types alone: it is reached and not barred, belongs to no commit group, holds no
bit whose write is a command of its own, and is no pair-group entry, table of correctable addresses or MSI-X table. -/
def PlainWord (s : State) (who : Who) (off : Nat) : Prop :=
  Reaches s who off ∧ s.chip.writeBarred who off = false ∧ groupOf off = none ∧ (∀ v, s.chip.ownRow off v = 0)
    ∧ (off < rRED_GROUP ∨ 0x1140000 ≤ off) ∧ (off < 0x1001000 ∨ 0x1001400 ≤ off) ∧ (off < 0x1480000 ∨ 0x1490000 ≤ off)

/-- A descriptor has completed with a status: its completion waits in its unit's buffer, but for a QUIET one that ended well
(04_rings_and_descriptors.md R111, R113). -/
def Completed (c : Chip) (buf : Nat) (d : Desc) (st : Status) : Prop :=
  (d.quiet = true ∧ st.good = true)
    ∨ ∃ x ∈ lookD c.rng.bufs buf [], x.ring = d.ring ∧ x.index = d.index ∧ x.status = st ∧ x.tag = BitVec.ofNat 32 d.tag

/-- No descriptor waits to complete without executing (04_rings_and_descriptors.md R101, R112, R117): what a completion frees lets none follow. -/
abbrev NoneWaits (c : Chip) : Prop := ∀ r, ∀ f ∈ (c.ring r).descs, ∀ st n, f.st ≠ .failed st n

/-- The package's own requests leave at once: the PCIe port is out of reset, and no stream is awaited (17_host_port_management.md R481). -/
abbrev HostOpen (c : Chip) : Prop := c.held.contains .pci = false ∧ (c.bit 0x1400000 0 = false ∨ c.sec.streams ≠ [])

/-- What the package does of itself in a cycle has nothing to do: no attestation request, held doorbell, link, own message, stack or trace entry
waits. -/
abbrev Quiet (c : Chip) : Prop :=
  c.sec.attests = [] ∧ c.rng.bells = [] ∧ c.links = [] ∧ (∀ k, lookD c.inject.q k [] = []) ∧ c.stk = [] ∧ c.dbg.fifo = []
    ∧ (∀ n, n < 24 → c.lnkState n ≠ lsKey)

/-- Every stored byte of pool memory reads as before. -/
def SameMemory (s : State) (c : Chip) : Prop := ∀ a, c.mem.byte a = s.chip.mem.byte a

/-- The standing of a CTX_SET (03_extents.md R61, R62): a MGMT caller while neither tenant holds a key slot, or an ADMIN caller for an entry
of its own tenant that is not MGMT. -/
abbrev MaySetCtx (c : Chip) (d : Desc) : Prop :=
  let me := c.caller d
  let e := csEntry d
  let old := c.ctx (csTarget d)
  (me.mgmt = true ∧ c.tenantKeyed e.tenant = false ∧ (old.valid = true → c.tenantKeyed old.tenant = false))
    ∨ (me.mgmt = false ∧ me.admin = true ∧ e.tenant = me.tenant ∧ e.mgmt = false ∧ (old.valid = true → old.tenant = me.tenant))

/-- What EXT_MAP asks before it maps (03_extents.md R74), the details 0x01 to 0x0B in their order. -/
abbrev MayMap (c : Chip) (d : Desc) : Prop :=
  let me := c.caller d
  let owner := c.ctx (d.bitsAt 16 48 16)
  let e := mapEntry d owner.tenant
  let old := c.extent (mapHandle d)
  owner.valid = true ∧ c.unbinding owner.tenant = false
    ∧ ((me.mgmt = true ∧ e.keyValid = false) ∨ (me.mgmt = false ∧ me.admin = true ∧ owner.tenant = me.tenant))
    ∧ mapBad d e = false ∧ e.gen ≠ old.gen ∧ old.st = .free
    ∧ (∀ x ∈ c.usedExts, foliosMeet e.plaBase e.len x.plaBase x.len = false) ∧ c.ppaTaken e = false ∧ c.ppaForeign e = false
    ∧ (e.keyValid = true → (c.slot e.keySlot).st = .bound ∧ (c.slot e.keySlot).tenant = e.tenant)
    ∧ (e.red = true → c.card = false ∧ c.pairReady e = true)
    ∧ (e.lent = true → e.red = false ∧ e.coh = 0 ∧ e.keyValid = false ∧ e.tchk = 0 ∧ Nat.land e.rights 28 = 0 ∧ c.card = false
        ∧ ((look c.ext.lenders e.lender.toNat).isSome = true ∨ c.ext.lenders.length < 1024))
    ∧ c.journalFull = false

/-- A message is served here: the package runs, the message is well formed, its core is out of reset, no QUIESCE refuses it, and its address
is the package's own (10_fabric.md R294, R311, R319; 15_reset_clocks_power.md R453). -/
abbrev ServedHere (c : Chip) (m : Msg) (pla : Nat) : Prop :=
  c.stopped = false ∧ c.badMsg m = false ∧ c.coreHeld = false ∧ c.quiesced = false
    ∧ ((m.lent = true ∧ pla = m.addr.toNat)
      ∨ (m.lent = false ∧ c.owner (if m.fwded then BitVec.ofNat 24 (m.specAt 8 3) else m.dest) m.addr.toNat = .here pla))

/-- A response is sunk: the package runs, the message is well formed, and its core is out of reset. -/
abbrev Sunk (c : Chip) (m : Msg) : Prop := c.stopped = false ∧ c.badMsg m = false ∧ c.coreHeld = false

/-- No coherent transaction is under way. -/
abbrev NoCoherence (c : Chip) : Prop :=
  c.coh.txns = [] ∧ c.coh.queue = [] ∧ c.coh.snps = [] ∧ c.coh.front = [] ∧ c.coh.posts = []

/-- An answer of an opcode to a request has left. -/
def Answered (c : Chip) (m : Msg) (op : Byte) (f : Msg → Prop) : Prop :=
  ∃ a lat, Out.msg a lat ∈ c.out ∧ a.opcode = op ∧ a.txn = m.txn ∧ a.dest = m.src ∧ a.ctx = m.ctx ∧ f a

/-- Nothing is journalled and no record is open, so a descriptor completes at once (13_redundancy.md R386). -/
abbrev NoJournal (c : Chip) : Prop := c.journalOn = false ∧ c.red.journal = []

/-- What sets the package up stays: configuration, resets, beat and election, commits, fuses and flash, keys and their slots, unbinds. -/
abbrev KeepsSetup (s : State) (c : Chip) : Prop :=
  c.act = s.chip.act ∧ c.held = s.chip.held ∧ c.esc = s.chip.esc ∧ c.elec = s.chip.elec ∧ c.com = s.chip.com ∧ c.fuses = s.chip.fuses
    ∧ c.flash = s.chip.flash ∧ c.rcu = s.chip.rcu ∧ c.slots = s.chip.slots ∧ c.keys = s.chip.keys ∧ c.unbinds = s.chip.unbinds

/-- Stored lines and what reads and writes them stay: pool memory, the line cache, the stacks, accesses in progress. -/
abbrev KeepsStore (s : State) (c : Chip) : Prop :=
  c.mem = s.chip.mem ∧ c.lcc = s.chip.lcc ∧ c.stk = s.chip.stk ∧ c.int = s.chip.int

/-- EXT's tables and the coherence directory stay. -/
abbrev KeepsTables (s : State) (c : Chip) : Prop := c.ext = s.chip.ext ∧ c.coh = s.chip.coh

/-- The engines stay: FLD, SEQ and MOV, KVE, XLT. -/
abbrev KeepsEngines (s : State) (c : Chip) : Prop := c.eng = s.chip.eng ∧ c.kve = s.chip.kve ∧ c.xlt = s.chip.xlt

/-- A write of a ring doorbell that RNG takes (04_rings_and_descriptors.md R96): 32 bits wide, from the function of RING_CTX, on a ring that
is not DISABLED and that its context fits, while RNG is enabled and the TLP's stream is accepted; no doorbell waits, and no BAR 4 write of the
function is hidden (05_host_translation.md R132). -/
abbrev BellTaken (c : Chip) (fn r width : Nat) (stream : Option Nat) : Prop :=
  c.ideOk stream = true ∧ c.bit rRNG_CTL 0 = true ∧ (c.ring r).st ≠ .disabled ∧ (c.ring r).unfit = false ∧ width = 4
    ∧ c.pageOf r fn = true ∧ c.rng.bells = [] ∧ c.bar4Hidden fn = false

/-- A SQ_TAIL that a ring takes (R97): neither the slots in use nor the new ones exceed the ring. -/
abbrev TailFits (x : RingP) (val : Word) : Prop := (val - x.head).toNat ≤ 2 ^ x.sqLog ∧ (val - x.tail).toNat ≤ 2 ^ x.sqLog

/-- What RING_SET asks (R119), the details 0x10 to 0x17 in their order. -/
abbrev MaySetRing (c : Chip) (d : Desc) : Prop :=
  (c.ctxTenant (rgCtx d)).any c.unbinding = false ∧ c.admins d (c.ctxTenant (rgCtx d)) = true ∧ rgRing d ≠ 0
    ∧ (c.ctx (rgCtx d)).valid = true
    ∧ d.zero 16 12 4 = true ∧ d.zero 18 6 2 = true ∧ d.zero 19 7 1 = true ∧ d.zero 22 5 3 = true ∧ d.zero 23 5 3 = true
    ∧ d.zero 43 0 8 = true ∧ d.zero 46 12 4 = true ∧ d.zero 48 5 11 = true ∧ d.zero 50 9 7 = true ∧ d.zero 52 0 96 = true
    ∧ rgLoc d ≤ 1 ∧ d.bitsAt 18 4 2 ≠ 3 ∧ 1 ≤ d.bitsAt 19 0 7 ∧ d.bitsAt 19 0 7 ≤ 64
    ∧ 6 ≤ d.bitsAt 22 0 5 ∧ d.bitsAt 22 0 5 ≤ 16 ∧ 6 ≤ d.bitsAt 23 0 5 ∧ d.bitsAt 23 0 5 ≤ 16
    ∧ d.field 24 8 % 4096 = 0 ∧ d.field 32 8 % 4096 = 0 ∧ 1 ≤ d.bitsAt 48 0 5 ∧ d.bitsAt 48 0 5 ≤ 16 ∧ d.bitsAt 50 0 9 ≤ 256
    ∧ (c.ring (rgRing d)).st = .disabled ∧ ctxFits (c.ctx (rgCtx d)) (rgLoc d) (BitVec.ofNat 24 (d.field 40 3)) = true
    ∧ (rgLoc d = 1 → c.card = false)

/-- What QUEUE_SET asks (R119). -/
abbrev MaySetQueue (c : Chip) (d : Desc) : Prop :=
  (c.ctxTenant (rgCtx d)).any c.unbinding = false ∧ c.admins d (c.ctxTenant (rgCtx d)) = true ∧ d.bitsAt 17 0 6 ≠ 0
    ∧ (c.ctx (rgCtx d)).valid = true
    ∧ d.zero 16 2 6 = true ∧ d.zero 17 6 2 = true ∧ d.zero 18 2 6 = true ∧ d.zero 19 5 3 = true ∧ d.zero 22 0 16 = true
    ∧ d.zero 35 0 8 = true ∧ d.zero 38 12 4 = true ∧ d.zero 40 0 192 = true
    ∧ rgLoc d ≤ 1 ∧ 6 ≤ d.bitsAt 19 0 5 ∧ d.bitsAt 19 0 5 ≤ 16 ∧ d.field 24 8 % 4096 = 0
    ∧ ctxFits (c.ctx (rgCtx d)) (rgLoc d) (BitVec.ofNat 24 (d.field 32 3)) = true ∧ (rgLoc d = 1 → c.card = false)

/-- The fault queue or error record queue that a QUEUE_SET names. -/
def Machine.Chip.queueOf (c : Chip) (isErr : Bool) (n : Nat) : Queue := if isErr then c.eq n else c.fq n

/-- The plan of an operator, with COMPLICATION's COUNT from its record. -/
def Machine.Chip.opPlan (c : Chip) (d : Desc) (rcd : List Byte) : Plan :=
  if d.opcode = 0x2E then c.planOf d (coCount rcd) else c.planOf d 1

/-- The package after step 5 of R190, with the record, the peers and the tile-check modes of the operands' extents; none where step 4 or 5 refuses
or waits. -/
def Machine.Chip.opStep5 (c : Chip) (d : Desc) : Chip × Option (List Byte × List Peer × List Nat) :=
  match c.checkOperands d.ctx (c.planOf d 1).operands with
  | (a, .inl _) => (a, none)
  | (a, .inr modes) =>
    match a.step5 d (c.planOf d 1) modes with
    | (b, .ok rcd peers modes' _) => (b, some (rcd, peers, modes'))
    | (b, _) => (b, none)

/-- A descriptor passes the checks of R190 (07_operators.md) at sequencer `n`, with the record and the peers that its reads give and the
tile-check modes of its extents. -/
abbrev OpPasses (c : Chip) (d : Desc) (n : Nat) (rcd : List Byte) (peers : List Peer) (modes : List Nat) : Prop :=
  c.pickSeq = some n ∧ c.bit rSEQ_CTL 0 = true ∧ ((c.planOf d 1).fld = true → c.bit rFLD_CTL 0 = true)
    ∧ ((c.planOf d 1).mov = true → c.bit rMOV_CTL 0 = true) ∧ (c.planOf d 1).rsvd = false ∧ (c.planOf d 1).pairs = true
    ∧ (c.opStep5 d).2 = some (rcd, peers, modes) ∧ (c.opPlan d rcd).overlap = false
    ∧ (modes.any (fun m => m != 0) = true → (c.opStep5 d).1.bit rTCHK_CTL 0 = true)
    ∧ ((d.opcode = 0x2C ∨ d.opcode = 0x2D) → modes.any (fun m => m != 0) = true)
    ∧ ((c.opStep5 d).1.card = true → peers.all (fun q => (c.opStep5 d).1.isSelf q.node) = true)

/-- A sequencer holds the operator of a descriptor (R189). -/
def HeldBy (c : Chip) (d : Desc) (n total : Nat) (rcd : List Byte) (peers : List Peer) (slot : Option Nat) : Prop :=
  ∃ k o, look c.eng.ops k = some o ∧ o.seqn = n ∧ o.d = d ∧ o.total = total ∧ o.next = 0 ∧ o.busy = 0 ∧ o.rcd = rcd ∧ o.peers = peers
    ∧ o.slot = slot

/-- A region can be armed (06_fold_arithmetic.md R168 steps 6 to 8): no open region overlaps it, and a slot and its pages are free. -/
abbrev RoomToArm (c : Chip) (r : Region) : Prop :=
  (∀ e ∈ c.eng.regions, e.2.st = .closed ∨ rangesMeet e.2.pla (e.2.tiles * 4096) r.pla (r.tiles * 4096) = false)
    ∧ c.regionSlot.isSome = true ∧ c.eng.pages + regionPages r.tiles r.outFmt r.acc r.parts r.contributors ≤ 32768

/-- A region's target is admitted, and it can be armed. -/
abbrev MayArm (c : Chip) (r : Region) : Prop := (c.wouldAdmit elbSeq r.targetReq).2.1 = none ∧ RoomToArm (c.wouldAdmit elbSeq r.targetReq).1 r

/-- A region stands in a slot and arms: its geometry and ARM_SEQ are those asked for. -/
def Arming (c : Chip) (slot : Nat) (r : Region) : Prop :=
  slot ∈ c.eng.arming ∧ ∃ x, c.region slot = some x ∧ x.st = .arming ∧ x.pla = r.pla ∧ x.tiles = r.tiles ∧ x.seq = r.seq
    ∧ x.contributors = r.contributors ∧ x.parts = r.parts ∧ x.inFmt = r.inFmt ∧ x.outFmt = r.outFmt

/-- A descriptor has completed with a status and INFO. -/
def CompletedWith (c : Chip) (buf : Nat) (d : Desc) (st : Status) (info : Nat) : Prop :=
  (d.quiet = true ∧ st.good = true)
    ∨ ∃ x ∈ lookD c.rng.bufs buf [], x.ring = d.ring ∧ x.index = d.index ∧ x.status = st ∧ x.info = info

/-- KVE serves a KV descriptor at once (08_kv_store.md R237 steps 1 and 2, R238): it is enabled and READY, no other operation is held, its
completion buffer has room (R113), the body is well formed and the caller's tenant has an arena. -/
abbrev KvReady (c : Chip) (d : Desc) : Prop :=
  c.kve.ops = [] ∧ c.posted bufKve < 64 ∧ c.bit rKVE_CTL 0 = true ∧ c.bit rKVE_STATUS 0 = true ∧ kvBad d = false ∧ c.kvLeaves (kvCaller c d) ≠ 0

/-- The package that holds an operation alone, and the tables as an operation that runs whole finds them. -/
def Machine.Chip.kvTaken (c : Chip) (d : Desc) : Chip :=
  c.setKve { c.kve with ops := put c.kve.ops c.kve.nextId { d := d }, nextId := c.kve.nextId + 1 }
def Machine.Chip.kvAlone (c : Chip) (d : Desc) : Kt :=
  ⟨(c.kvTaken d).putKv c.kve.nextId { d := d, quires := (c.kvTaken d).kvHandles d }, none⟩

/-- An append that step 3 to step 7 of R237 let pass and R242 and R243 let start: its quire ACTIVE, its EXPECTED count right, room made. -/
abbrev MayAppend (c : Chip) (id : Nat) (o : KvOp) : Prop :=
  (c.appendView o.d).k.err = none ∧ (c.appendView o.d).bad = none ∧ (c.appendView o.d).q.st = 1
    ∧ (o.d.field 32 4 = 0xFFFFFFFF ∨ o.d.field 32 4 = (c.appendView o.d).q.tokens)
    ∧ c.appendFull (c.appendView o.d) = false ∧ c.appendLate o.d (c.appendView o.d) = false
    ∧ (c.appendRoom id o (c.appendView o.d)).k.err = none
    ∧ (c.appendRoom id o (c.appendView o.d)).need.met (c.appendRoom id o (c.appendView o.d)).k.c (kvCaller c o.d) = true
    ∧ c.kvSpan o.d 24 (kvTokens o.d * (c.appendView o.d).q.tokenBytes) (kvSrcHost o.d) false = none
    ∧ (c.appendMark id o (c.appendView o.d)).err = none

/-- The package as the commit of an append finds its tables: the movement no longer held, a late one counted (R243). -/
def Machine.Chip.commitView (c : Chip) (o : KvOp) : Chip :=
  let c := c.setEng { c.eng with ops := del c.eng.ops o.op }
  if o.beat.toNat < c.esc.bounds.toNat then c.bump rKVE_LATE 1 else c

/-- COH serves requests, and nothing is under way (09_coherence.md R262, R268). -/
abbrev CohIdle (c : Chip) : Prop := c.held.contains .coh = false ∧ c.bit rCOH_CTL 0 = true ∧ NoCoherence c

/-- The sender of a notice is a JOINED agent, under the agent number of its context (R269). -/
abbrev FromAgent (c : Chip) (x : ElbE) (m : Msg) : Prop :=
  x.c.agentValid = true ∧ (c.agent x.c.agent).node = m.src ∧ (c.agent x.c.agent).st = .joined

/-- A link command leaves all but the links, their registers and what it reports. -/
abbrev LinksOnly (s : State) (c : Chip) : Prop :=
  KeepsSetup s c ∧ c.mem = s.chip.mem ∧ c.lcc = s.chip.lcc ∧ c.stk = s.chip.stk ∧ KeepsTables s c ∧ KeepsEngines s c ∧ c.rng = s.chip.rng ∧ c.red = s.chip.red ∧ c.pci = s.chip.pci

/-- Every other link stands as before, with its state. -/
abbrev OtherLinks (s : State) (c : Chip) (n : Nat) : Prop :=
  ∀ k, k < 24 → k ≠ n → c.link k = s.chip.link k ∧ c.lnkState k = s.chip.lnkState k

/-- A link is DOWN: no keys, nothing to replay, transmitter dark; the states of the other links stand (10_fabric.md R296, R317). -/
def IsDown (s : State) (c : Chip) (n : Nat) : Prop :=
  c.lnkState n = lsDown ∧ (c.link n).keys = none ∧ (c.link n).replay = [] ∧ Out.transmitter n false ∈ c.out
    ∧ (∀ k, k < 24 → k ≠ n → c.lnkState k = s.chip.lnkState k)

/-- A link has taken the second HELLO, `f`, after `g`: it waits for its keys, with the credits given and the FEC that both ends allow (R297, R301). -/
abbrev HelloTaken (s : State) (c : Chip) (n : Nat) (f g : HelloFlit) : Prop :=
  c.lnkState n = lsKey ∧ (c.link n).credit = List.replicate 12 f.dedicated ∧ (c.link n).shared = f.shared
    ∧ c.bit (lnkReg n 4) 4 = (!(s.chip.link n).standard && g.lightOk && f.lightOk) ∧ (c.link n).offer = none ∧ (c.link n).resp = none
    ∧ OtherLinks s c n ∧ LinksOnly s c

/-- A NAK of the group that a link expects next has fallen due. -/
def OwesNak (c : Chip) (n : Nat) : Prop :=
  ∃ f t, (c.link n).owed = some (f, t) ∧ f.nakValid = true ∧ f.nakSeq = (c.link n).rx.setWidth 16

/-- Every stored byte outside the ten lines of the stripes from `first` on, `count` of them, reads as before. -/
def OutsideStripes (s : State) (c : Chip) (first count : Nat) : Prop :=
  ∀ a, (∀ i, i < count → ∀ k, k < 10 → a < stackAddr (placeOf (first + i) k) ∨ stackAddr (placeOf (first + i) k) + 64 ≤ a) →
    c.mem.byte a = s.chip.mem.byte a

/-- Every other stack stands as before. -/
abbrev OtherStacks (s : State) (c : Chip) (k : Nat) : Prop :=
  ∀ j, j < 20 → j ≠ k → c.stkOf j = s.chip.stkOf j ∧ c.stkState j = s.chip.stkState j

/-- SEC takes a signed command (14_security.md R429, R430): it is out of reset and READY, the layout holds, and the command verifies; MGT carries
one that came by the management service, and the mailbox serves no other command. -/
abbrev SignedOk (c : Chip) (x : SignedCmd) (claim : Bool) : Prop :=
  c.held.contains .sec = false ∧ (x.eth.isSome = true → c.held.contains .mgt = false ∧ c.recovery = false)
    ∧ (x.eth = none → c.mboxBusy = false) ∧ c.secError = false
    ∧ c.secReady = true ∧ x.lenOk = true ∧ x.rsvd = false ∧ (x.keyIndex.toNat < 4 ∨ x.keyIndex.toNat = 255) ∧ c.verifies x claim = true

/-- The package as SEC takes up a descriptor (14_security.md R416): no other one is under way. -/
def Machine.Chip.turn (c : Chip) : Chip := c.wake.setSec { c.sec with now := none }

/-- No other descriptor of SEC's waits for snoops. -/
abbrev SecFree (c : Chip) (d : Desc) : Prop := ∀ x, c.sec.now = some x → x = d

/-- The accesses of CONTENT_KEY_LOAD (14_security.md R421 to R424), in order, from the package as SEC takes the descriptor up: the envelope's
header is read, the source and the destination are checked, the tiles are loaded. -/
def Machine.Chip.ckHeader (c : Chip) (d : Desc) (e : Envelope) : Chip × Got := c.turn.poolRead elbSeq 27 (secReq d 16 (96 + 1656 * e.count) false)
def Machine.Chip.ckSource (c : Chip) (d : Desc) (e : Envelope) : Chip × Option (Status × Nat) × Option ElbE :=
  (c.ckHeader d e).1.wouldAdmit elbSeq (secReq d 24 (ckTiles d * 4112) false)
def Machine.Chip.ckDest (c : Chip) (d : Desc) (e : Envelope) : Chip × Option (Status × Nat) × Option ElbE :=
  (c.ckSource d e).1.wouldAdmit elbSeq (secReq d 32 (ckTiles d * 4096) true)
def Machine.Chip.ckLoaded (c : Chip) (d : Desc) (e : Envelope) : Chip × Nat × TilesEnd :=
  (c.ckDest d e).1.loadTiles d 0 (e.plain.take (ckTiles d))

/-- A signed command is answered with a status: in the mailbox, or as a management message. -/
def Replied (c : Chip) (x : SignedCmd) (st : Status) : Prop :=
  match x.eth with
  | some id => Out.eth id (bytesLE 1 st.code) ∈ c.out
  | none => c.get rSEC_MBOX_CTL 8 8 = st.code ∧ c.bit rSEC_MBOX_CTL 2 = true

/-- A signed command was accepted (R402, R430): its COUNTER is the last, M4 is extended with its digest, it is answered with OK. -/
def Accepted (s : State) (c : Chip) (x : SignedCmd) : Prop :=
  c.sec.counter = some x.counter
    ∧ c.sec.m = setAt s.chip.sec.m 4 (fun m => Config.sha3 (bytesBE 48 m.toNat ++ bytesBE 48 x.digest.toNat))
    ∧ Replied c x .ok ∧ c.mem = s.chip.mem ∧ c.ext = s.chip.ext ∧ c.held = s.chip.held

/-- A boot record is in the flash with these contents. -/
def HasRecord (c : Chip) (active prev st : Nat) : Prop :=
  ∃ r : BootRec, r.active = active ∧ r.prev = prev ∧ r.st = st ∧ (c.flash.recA = some r ∨ c.flash.recB = some r)

/-- No key slot is BOUND, and SEC and the links hold no key (R433, R434). -/
def Zeroised (c : Chip) : Prop :=
  (∀ n, (c.slot n).st ≠ .bound) ∧ c.keys = [] ∧ c.scrubKey = 0 ∧ c.sec.session = none ∧ c.sec.streams = [] ∧ (∀ n, (c.link n).keys = none)

/-- S reset has been entered for a cause (15_reset_clocks_power.md R439 to R443): every block behind a wrapper but DBG is held, what the blocks
and the tables held is gone, every link is DISABLED; stored bytes, fuses and flash stay. -/
def EntersS (s : State) (c : Chip) (cause : Nat) : Prop :=
  c.rcu.asserted = some .s ∧ c.rcu.fusing = true ∧ c.bit 0x10008 cause = true ∧ (∀ b ∈ coreBlks ++ outerBlks, b ∈ c.held)
    ∧ c.rng.rings = [] ∧ c.eng.ops = [] ∧ c.eng.regions = [] ∧ c.lcc = [] ∧ c.ext.dir = [] ∧ c.ext.ctxs = [] ∧ c.slots = [] ∧ c.keys = []
    ∧ (∀ n, n < 24 → c.lnkState n = lsDisabled) ∧ c.mem = s.chip.mem ∧ c.stk = s.chip.stk ∧ c.fuses = s.chip.fuses ∧ c.flash = s.chip.flash

/-- C reset has been entered for a cause: the core blocks are held, and those in `more`, and RETAIN is over; rings, operators, regions and
pending commits are gone; the tables, the keys, the links, stored bytes, fuses and flash stay. -/
def EntersC (s : State) (c : Chip) (cause : Nat) (more : List Blk) : Prop :=
  c.rcu.asserted = some .c ∧ c.bit 0x10008 cause = true ∧ c.pwr.retain = false
    ∧ (∀ b, b ∈ c.held ↔ b ∈ coreBlks ∨ ((b ∈ s.chip.held ∨ b ∈ more)
        ∧ ¬(s.chip.pwr.retain = true ∧ (b = .rte ∨ b = .pci ∨ b = .dbg ∨ ∃ n, b = .lnk n) ∧ c.stays b = false)))
    ∧ c.rng.rings = [] ∧ c.eng.ops = [] ∧ c.eng.regions = [] ∧ c.lcc = [] ∧ c.com.pend = [] ∧ c.ext.dir = s.chip.ext.dir
    ∧ c.ext.ctxs = s.chip.ext.ctxs ∧ c.slots = s.chip.slots ∧ c.keys = s.chip.keys ∧ (∀ n, n < 24 → c.lnkState n = s.chip.lnkState n)
    ∧ c.mem = s.chip.mem ∧ (∀ k, k < 20 → c.stkState k = s.chip.stkState k) ∧ c.fuses = s.chip.fuses ∧ c.flash = s.chip.flash

/-- The package has nothing outstanding at its host port. -/
abbrev PortIdle (c : Chip) : Prop := c.eng.units = [] ∧ c.rng.rings = []

/-- An entry of the trace waits in the input FIFO or stands in the buffer (16_observation.md R468). -/
def Traced (c : Chip) (e : List Byte) : Prop := e ∈ c.dbg.fifo ∨ ∃ k, look c.dbg.buf k = some e

/-- The write of the next 128 entries to the spill region (R470). -/
def Machine.Chip.spillData (c : Chip) : List Byte :=
  ((upTo 128).map (fun i => lookD c.dbg.buf ((c.dbg.spilled + i) % 131072) (zeros 32))).flatten
def Machine.Chip.spillReq (c : Chip) : Req :=
  { ctx := 0, src := .internal,
    pla := (c.actWord 0x1300018).toNat + c.aget 0x130001C 0 16 * 2 ^ 32 + c.dbg.spilled * 32 % (c.aget 0x1300020 0 13 * 2 ^ 20),
    bytes := c.spillData.length, gen := some (c.aget 0x130001C 16 8), need := rWrite, write := true, coh := false }

/-- A flash request of the registers that MGT may serve: it runs, not in the fuse-fault state of the recovery path, and nothing is under way
(17_host_port_management.md R486, R489). -/
abbrev FlashFree (c : Chip) : Prop := c.held.contains .mgt = false ∧ (c.recovery && c.bit 0x10014 1) = false ∧ c.flash.op = none

/-- A state is safe where its stored memory has its one canonical form. -/
abbrev Machine.State.Safe (s : State) : Prop := s.chip.mem.wf = true

end Sys2Proof
end

