-- ==== Sys2Proof/Certificates/Slice0/Obligations.lean ====
section
/-! DEFINITION. The statements for the provers (OBLIGATIONS.json). `Runs i s P` says that the command completes at the state with a package
that satisfies `P`. -/

open Sys2Proof Sys2Proof.Machine

/-! ### The block -/

/-- The front command of the queue runs with the queue's rest. Every command of the table completes at every state: `exec` answers a next
state, and the queue's rest is as it was. -/
def Obligations.StepRunsFront : Prop :=
  (∀ (i : Instr) (rest : List Instr) (c : Chip), step ⟨c, i :: rest⟩ = exec i ⟨c, rest⟩)
  ∧ ∀ (i : Instr) (s : State), ∃ t : State, exec i s = .next t ∧ t.pending = s.pending

/-- An idle step lets one CORECLK cycle pass (the model's choice, log 8): the cycles since P reset advance, and those of the beat while
ESC counts (R39). Where the package has no work of its own in the cycle, every table, register and the memory stay, and nothing leaves. -/
def Obligations.IdleStepPassesOneCycle : Prop :=
  ∀ c : Chip, ∃ t : State, step ⟨c, []⟩ = .next t ∧ t.pending = [] ∧ (Quiet c →
    t.chip.esc = { c.esc with now := c.esc.now + 1, cyc := if c.escCounts then c.esc.cyc + 1 else c.esc.cyc }
    ∧ t.chip.regs = c.regs ∧ t.chip.act = c.act ∧ t.chip.mem = c.mem ∧ t.chip.ext = c.ext
    ∧ t.chip.rng = c.rng ∧ t.chip.held = c.held ∧ t.chip.fuses = c.fuses ∧ t.chip.out = c.out)

/-- Commands run first in, first out: as many steps as commands wait run exactly those, in their order, each on the package that the one
before it left. -/
def Obligations.QueueIsFirstInFirstOut : Prop :=
  ∀ (l : List Instr) (c : Chip),
    Host.Core.run core l.length ⟨c, l⟩
      = .next ⟨l.foldl (fun c i => match exec i ⟨c, []⟩ with
          | .next t => t.chip
          | .fault _ => c
          | .refused _ => c) c, []⟩

/-- The stored memory has one canonical form. A write keeps it, leaves the data at its run where the mask enables a byte and what was
there where it does not, and changes no byte and no check bit outside; a byte enabled agrees with its check bit. -/
def Obligations.StoredBytesReadBack : Prop :=
  ∀ (m : Mem) (a : Nat) (data : List Byte) (mask : List Bool), m.wf = true →
    (m.write a data mask).wf = true
    ∧ (∀ i : Nat, i < data.length → mask.getD i false = true →
        (m.write a data mask).byte (a + i) = data.getD i 0 ∧ (m.write a data mask).disagrees (a + i) = false)
    ∧ (∀ i : Nat, i < data.length → mask.getD i false = false →
        (m.write a data mask).byte (a + i) = m.byte (a + i) ∧ (m.write a data mask).disagrees (a + i) = m.disagrees (a + i))
    ∧ (∀ x : Nat, x < a ∨ a + data.length ≤ x →
        (m.write a data mask).byte x = m.byte x ∧ (m.write a data mask).disagrees x = m.disagrees x)
    ∧ ∀ x : Nat, (m.toggle x).wf = true ∧ (m.toggle x).cells = m.cells ∧ (m.toggle x).disagrees x = !m.disagrees x
        ∧ ∀ y : Nat, y ≠ x → (m.toggle x).disagrees y = m.disagrees y

/-- Every step keeps the stored memory in its one canonical form, whatever commands wait and whatever else the package holds. -/
def Obligations.MemoryStaysCanonical : Prop :=
  ∀ (s t : State), s.Safe → step s = .next t → t.Safe

/-- The machine after reset is safe: nothing is stored, nothing waits. -/
def Obligations.ResetIsSafe : Prop := State.reset.Safe ∧ State.reset.pending = [] ∧ ∀ a, State.reset.chip.mem.byte a = 0

/-! ### Registers (R6, R8, R9) -/

/-- REGISTER_WRITE of a 32-bit register: its word takes the value field by field, and no other word, no memory and no table changes. A
write that is narrower than 32 bits or misaligned is an Unsupported Request and changes no register (R7). COUNTER_READ_CLEAR returns a
count and clears it; the increments of the same cycle stay for the next read. CNT_CTL.CLEAR_ALL: EPOCH of every free-running counter
increases and its VALUE restarts from 0; the others stay. It says where these commands complete: REGISTER_WRITE, COUNTER_READ_CLEAR,
CNT_CLEAR_ALL. -/
def Obligations.RegistersAreWrittenAndCleared : Prop :=
  (∀ (s : State) (who : Who) (off : Nat) (val : Quad), (who = .pf0 ∨ who = .mgt) → off % 4 = 0 → isWideLow off = false → isWideHigh off = false →
    PlainWord s who off →
    Runs (.registerWrite who off 4 val) s (fun c =>
      c.word off = writeWord off (s.chip.word off) (val.setWidth 32) ∧ (∀ o, o ≠ off → c.word o = s.chip.word o)
      ∧ c.act = s.chip.act ∧ c.mem = s.chip.mem ∧ c.ext = s.chip.ext ∧ c.rng = s.chip.rng ∧ c.held = s.chip.held))
  ∧ (∀ (s : State) (who : Who) (off inc : Nat), readClears off = true → off % 4 = 0 → Reaches s who off → s.chip.speaks who = true →
    inc < 2 ^ 32 →
    Runs (.counterReadClear who off ⟨4, inc⟩) s (fun c =>
      c.word off = BitVec.ofNat 32 inc ∧ (∀ o, o ≠ off → c.word o = s.chip.word o)
      ∧ c.out = s.chip.out ++ [.regRead who ((s.chip.seen who off).setWidth 64)] ∧ c.mem = s.chip.mem ∧ c.ext = s.chip.ext))
  ∧ (∀ (s : State) (who : Who), Reaches s who 0x120D000 →
    Runs (.cntClearAll who) s (fun c =>
      (∀ i ∈ freeRunning, lookD c.dbg.cnt i 0 = cntEpoch (lookD s.chip.dbg.cnt i 0))
      ∧ (∀ i, i ∉ freeRunning → lookD c.dbg.cnt i 0 = lookD s.chip.dbg.cnt i 0) ∧ c.regs = s.chip.regs ∧ c.mem = s.chip.mem))
  ∧ (∀ (s : State) (who : Who) (off width : Nat) (val : Quad), s.chip.speaks who = true →
    ((width ≠ 4 ∧ width ≠ 8) ∨ off % width ≠ 0) →
    Runs (.registerWrite who off width val) s (fun c =>
      c.out = s.chip.out ++ [.unsupported who] ∧ c.regs = s.chip.regs ∧ c.act = s.chip.act ∧ c.mem = s.chip.mem ∧ c.ext = s.chip.ext))

/-- The halves of a 64-bit register (R6): a read of the low half holds the high half; a read of the high half returns what is held; a
write of the low half is only held; a write of the high half writes both. It says where these commands complete: REG64_LOW_READ,
REG64_HIGH_READ, REG64_LOW_WRITE, REG64_HIGH_WRITE. -/
def Obligations.RegisterHalves : Prop :=
  (∀ (s : State) (who : Who) (off : Nat), off % 4 = 0 → s.chip.speaks who = true →
    Runs (.reg64LowRead who off) s (fun c =>
      c.out = s.chip.out ++ [.regRead who ((s.chip.seen who off).setWidth 64)]
      ∧ c.latchOf who = some (.high (off + 4) (s.chip.seen who (off + 4))) ∧ c.regs = s.chip.regs ∧ c.mem = s.chip.mem))
  ∧ (∀ (s : State) (who : Who) (off : Nat) (v : Word), off % 4 = 0 → s.chip.speaks who = true → s.chip.latchOf who = some (.high off v) →
    Runs (.reg64HighRead who off) s (fun c =>
      c.out = s.chip.out ++ [.regRead who (v.setWidth 64)] ∧ c.latchOf who = none ∧ c.regs = s.chip.regs ∧ c.mem = s.chip.mem))
  ∧ (∀ (s : State) (who : Who) (off : Nat), off % 4 = 0 → s.chip.speaks who = true → s.chip.latchOf who = none →
    Runs (.reg64HighRead who off) s (fun c =>
      c.out = s.chip.out ++ [.regRead who ((s.chip.seen who off).setWidth 64)] ∧ c.regs = s.chip.regs ∧ c.mem = s.chip.mem))
  ∧ (∀ (s : State) (who : Who) (off : Nat) (v : Word), s.chip.speaks who = true →
    Runs (.reg64LowWrite who off v) s (fun c =>
      c.latchOf who = some (.low off v) ∧ c.regs = s.chip.regs ∧ c.out = s.chip.out ∧ c.mem = s.chip.mem))
  ∧ (∀ (s : State) (who : Who) (off : Nat) (lo hi : Word), 4 ≤ off → s.chip.latchOf who = some (.low (off - 4) lo) →
    (who = .pf0 ∨ who = .mgt) → PlainWord s who (off - 4) → PlainWord s who off →
    Runs (.reg64HighWrite who off hi) s (fun c =>
      c.latchOf who = none ∧ c.word (off - 4) = writeWord (off - 4) (s.chip.word (off - 4)) lo
      ∧ c.word off = writeWord off (s.chip.word off) hi ∧ (∀ o, o ≠ off → o ≠ off - 4 → c.word o = s.chip.word o) ∧ c.mem = s.chip.mem))

/-! ### Staged configuration (R48 to R53) -/

/-- A write of GLB_COMMIT that no test of R50 refuses takes the next ticket and waits for its boundary; nothing is copied yet. The
commit's check ends without a failing group: it stays pending. A write of GLB_COMMIT is refused for the first reason that holds, in the
order of R50: EMPTY, RESERVED_GROUP, UNLOCKED, BUSY, TOO_LATE. It keeps its ticket, and nothing is pending that was not. It says where
these commands complete: GLB_COMMIT, COMMIT_CHECK_DONE. -/
def Obligations.CommitsTakeTicketsOrAreRefused : Prop :=
  (∀ (s : State) (who : Who) (mask : Word), (who = .pf0 ∨ who = .mgt) → Reaches s who 0x200 →
    mask ≠ 0 → mask.toNat < 2 ^ 11 → s.chip.esc.lock.unlockedFlag = false →
    (∀ p ∈ s.chip.com.pend, Nat.land p.mask mask.toNat = 0) → s.chip.tooLate s.chip.commitTarget = false →
    Runs (.glbCommit who mask) s (fun c =>
      c.com.ticket = (s.chip.com.ticket + 1) % 16
      ∧ c.com.pend = s.chip.com.pend ++ [⟨(s.chip.com.ticket + 1) % 16, mask.toNat, s.chip.commitTarget, false⟩]
      ∧ c.com.stState = csPending ∧ c.com.stTicket = (s.chip.com.ticket + 1) % 16
      ∧ c.regs = s.chip.regs ∧ c.act = s.chip.act ∧ c.mem = s.chip.mem))
  ∧ (∀ (s : State) (ticket : BitVec 4) (p : Pending), s.chip.stopped = false →
    s.chip.com.pend.find? (fun q => q.ticket == ticket.toNat && !q.checked) = some p → s.chip.checkAll p = none →
    Runs (.commitCheckDone ticket) s (fun c =>
      c.com.pend = s.chip.com.pend.map (fun q => if q.ticket = p.ticket then { q with checked := true } else q)
      ∧ c.regs = s.chip.regs ∧ c.act = s.chip.act ∧ c.mem = s.chip.mem))
  ∧ (∀ (s : State) (who : Who) (mask : Word), (who = .pf0 ∨ who = .mgt) → Reaches s who 0x200 →
    let busy := s.chip.com.pend.any (fun p => Nat.land p.mask mask.toNat != 0)
    let late := s.chip.tooLate s.chip.commitTarget
    (mask = 0 ∨ 2 ^ 11 ≤ mask.toNat ∨ s.chip.esc.lock.unlockedFlag = true ∨ busy = true ∨ late = true) →
    Runs (.glbCommit who mask) s (fun c =>
      c.com.stState = csRefused ∧ c.com.pend = s.chip.com.pend ∧ c.com.stTicket = (s.chip.com.ticket + 1) % 16 ∧ c.act = s.chip.act
      ∧ c.com.reason = (if mask = 0 then rsEmpty else if 2 ^ 11 ≤ mask.toNat then rsReserved
          else if s.chip.esc.lock.unlockedFlag then rsUnlocked else if busy then rsBusy else rsTooLate)))

/-! ### The beat (R37 to R44) and the election (R315) -/

/-- The beat number never decreases over a boundary (below the wrap that R37 excludes), and steps by 1 where no number is adopted. The
boundary starts the beat at cycle B and takes the counter snapshot. It says where these commands complete: BEAT_BOUNDARY. -/
def Obligations.BeatNumberAdvances : Prop :=
  ∀ (s : State) (watts : Nat), s.chip.rcu.refLost = false → s.chip.rcu.asserted ≠ some .p → s.chip.esc.beat.toNat + 1 < 2 ^ 64 → s.chip.elec.maxBeat.toNat + 1 < 2 ^ 64 →
    Runs (.beatBoundary watts) s (fun c =>
      s.chip.esc.beat.toNat ≤ c.esc.beat.toNat ∧ c.esc.cyc = 0 ∧ c.dbg.snapBeat = c.esc.beat
      ∧ (s.chip.elec.win = false → s.chip.esc.adopt = none → c.esc.beat = s.chip.esc.beat + 1))

/-- HOLDOVER_EXPIRY: after 4 beats without a valid mark the state is UNLOCKED, and an election of the next epoch starts. A valid BEAT
moves the lock state by R41, and its sender's master and epoch are known. An ELECT of a higher epoch is joined with the better of its
claim and the package's own; eight beats without a BEAT or ELECT start an election of the next epoch; a claim that has stayed best for 4
beats wins. It says where these commands complete: HOLDOVER_EXPIRY, BEAT, ELECT, ELECTION_SILENCE_EXPIRY, ELECTION_WIN. -/
def Obligations.MarksMoveTheLockAndElectionsRun : Prop :=
  (∀ s : State, s.chip.esc.lock = .holdover → 4 ≤ s.chip.esc.holdover → s.chip.esc.markThisBeat = false →
    Runs .holdoverExpiry s (fun c =>
      c.esc.lock = .unlocked ∧ c.elec.epoch = s.chip.elec.epoch + 1 ∧ c.elec.running = true ∧ c.esc.isMaster = false
      ∧ c.esc.beat = s.chip.esc.beat ∧ c.mem = s.chip.mem ∧ c.ext = s.chip.ext))
  ∧ (∀ (s : State) (link : Nat) (f : BeatFlit) (late : Int), link < 24 → s.chip.lnkState link = lsActive →
    s.chip.held.contains (.lnk link) = false → s.chip.beatValid f = true → s.chip.esc.beat.toNat ≤ f.num.toNat →
    Runs (.beat link f late) s (fun c =>
      c.esc.lock = (nextLock s.chip.esc.lock s.chip.esc.goodMarks
        (late + f.corr.toNat + s.chip.get (lnkReg link 0xC) 0 24) false).1
      ∧ c.esc.master = f.master ∧ c.esc.isMaster = false ∧ c.esc.markThisBeat = true ∧ c.elec.epoch = f.epoch ∧ c.elec.master = some f.master
      ∧ c.esc.beat = s.chip.esc.beat))
  ∧ (∀ (s : State) (link : Nat) (f : ElectFlit), link < 24 → s.chip.lnkState link = lsActive → s.chip.held.contains (.lnk link) = false →
    s.chip.elec.epoch.toNat < f.epoch.toNat →
    Runs (.elect link f) s (fun c =>
      c.elec.epoch = f.epoch ∧ c.elec.running = true ∧ c.elec.claim = bestClaim s.chip.ownClaim (claimOf f)
      ∧ c.elec.maxBeat = maxQuad f.maxBeat s.chip.esc.beat
      ∧ c.esc.isMaster = false ∧ c.mem = s.chip.mem ∧ c.ext = s.chip.ext))
  ∧ (∀ s : State, s.chip.activeLinks ≠ [] → s.chip.esc.isMaster = false → 9 ≤ s.chip.elec.silent →
    Runs .electionSilenceExpiry s (fun c =>
      c.elec.epoch = s.chip.elec.epoch + 1 ∧ c.elec.running = true ∧ c.elec.claim = s.chip.ownClaim ∧ c.mem = s.chip.mem))
  ∧ (∀ s : State, s.chip.elec.running = true → s.chip.elec.claim.isSome = true → s.chip.elec.claim = s.chip.ownClaim →
    4 ≤ s.chip.elec.ownBeats →
    Runs .electionWin s (fun c => c = s.chip.setElec { s.chip.elec with win := true }))

/-! ### Contexts (R61, R62) -/

/-- CTX_SET writes the entry that its body gives in the place of TARGET, and no other; the change waits for its change point. CTX_CLEAR of
a VALID context leaves it not VALID. At the change point no ELB holds the context any more, and the descriptor completes. A CTX_SET of
context 0 is refused with RIGHTS_FAULT, and no context entry changes. It says where these commands complete: CTX_SET, CTX_CLEAR,
CTX_CHANGE_POINT. -/
def Obligations.ContextsChange : Prop :=
  (∀ (s : State) (d : Desc), Serves s .ext → csTarget d ≠ 0 → (csEntry d).valid = true → MaySetCtx s.chip d →
    s.chip.unbinding (csEntry d).tenant = false → d.zero 18 0 112 = true → d.zero 48 0 128 = true → entryReserved d = false →
    s.chip.journalFull = false →
    Runs (.ctxSet d) s (fun c =>
      c.ctx (csTarget d) = csEntry d ∧ (∀ n, n ≠ csTarget d → c.ctx n = s.chip.ctx n)
      ∧ c.ext.ctxChanges = s.chip.ext.ctxChanges ++ [⟨csTarget d, d, s.chip.red.jseq⟩]
      ∧ c.ext.dir = s.chip.ext.dir ∧ c.mem = s.chip.mem ∧ c.held = s.chip.held))
  ∧ (∀ (s : State) (d : Desc), Serves s .ext → csTarget d ≠ 0 → (s.chip.ctx (csTarget d)).valid = true →
    ((s.chip.caller d).mgmt = true ∨ ((s.chip.caller d).admin = true ∧ (s.chip.ctx (csTarget d)).tenant = (s.chip.caller d).tenant)) →
    d.zero 18 0 368 = true → s.chip.journalFull = false →
    Runs (.ctxClear d) s (fun c =>
      (c.ctx (csTarget d)).valid = false ∧ (∀ n, n ≠ csTarget d → c.ctx n = s.chip.ctx n)
      ∧ c.ext.ctxChanges = s.chip.ext.ctxChanges ++ [⟨csTarget d, d, s.chip.red.jseq⟩]
      ∧ c.ext.dir = s.chip.ext.dir ∧ c.mem = s.chip.mem ∧ c.held = s.chip.held))
  ∧ (∀ (s : State) (x : CtxChange), Serves s .ext → s.chip.ext.ctxChanges.find? (fun y => y.ctx == x.ctx) = some x → NoJournal s.chip →
    Runs (.ctxChangePoint x.ctx) s (fun c =>
      (∀ n, ∀ y ∈ c.elb n, y.ctx ≠ x.ctx) ∧ c.ext.ctxChanges = s.chip.ext.ctxChanges.erase x ∧ Completed c bufExt x.desc .ok
      ∧ c.ext.ctxs = s.chip.ext.ctxs ∧ c.ext.dir = s.chip.ext.dir ∧ c.mem = s.chip.mem))
  ∧ (∀ (s : State) (d : Desc), Serves s .ext → csTarget d = 0 → s.chip.unbinding (csEntry d).tenant = false →
    Runs (.ctxSet d) s (fun c => c.ext = s.chip.ext ∧ c.mem = s.chip.mem ∧ Completed c bufExt d .rightsFault))

/-! ### Extents (R65 to R81) -/

/-- EXT_MAP that R74 allows writes the entry that its body gives, LIVE with its owner's tenant; the folios of an extent backed here are
now last held by that tenant (R66). It says where these commands complete: EXT_MAP. -/
def Obligations.MapMakesLive : Prop :=
  ∀ (s : State) (d : Desc), Serves s .ext → MayMap s.chip d →
    let t := (s.chip.ctx (d.bitsAt 16 48 16)).tenant
    let e := mapEntry d t
    Runs (.extMap d) s (fun c =>
      c.extent (mapHandle d) = e ∧ e.st = .live ∧ (∀ h, h ≠ mapHandle d → c.extent h = s.chip.extent h)
      ∧ (e.lent = false → ∀ i, i < e.len → c.folio (e.backing + i) = .tenant t)
      ∧ (e.lent = true → ∀ f, c.folio f = s.chip.folio f)
      ∧ c.ext.ctxs = s.chip.ext.ctxs ∧ c.mem = s.chip.mem
      ∧ (NoJournal s.chip → Completed c bufExt d .ok))

/-- EXT_REVOKE of a LIVE or HELD extent with its own generation: at once GEN is one higher and the extent DRAINING (R77). At the
revocation point no ELB holds the extent. When its drain has ended, it is FREE, or SCRUBBING where SCRUB is 1 and it is not lent (R78). It
says where these commands complete: EXT_REVOKE, REVOCATION_POINT, DRAIN_END, DRAIN_BOUND_EXPIRY. -/
def Obligations.RevokeDrains : Prop :=
  (∀ (s : State) (d : Desc), Serves s .ext →
    (d.ctx = (s.chip.extent (rvHandle d)).ownerCtx ∨ (s.chip.caller d).mgmt = true
      ∨ ((s.chip.caller d).admin = true ∧ (s.chip.caller d).tenant = (s.chip.extent (rvHandle d)).tenant)) →
    d.zero 16 26 6 = true → d.zero 20 1 7 = true → d.zero 21 0 344 = true → rvGen d = (s.chip.extent (rvHandle d)).gen →
    ((s.chip.extent (rvHandle d)).st = .live ∨ (s.chip.extent (rvHandle d)).st = .held) → s.chip.journalFull = false →
    Runs (.extRevoke d) s (fun c =>
      c.extent (rvHandle d) = { s.chip.extent (rvHandle d) with gen := (s.chip.extent (rvHandle d)).gen + 1, st := .draining }
      ∧ (look c.ext.revokes (rvHandle d)).isSome = true ∧ (∀ h, h ≠ rvHandle d → c.extent h = s.chip.extent h)
      ∧ c.ext.ctxs = s.chip.ext.ctxs ∧ c.mem = s.chip.mem))
  ∧ (∀ (s : State) (h : Nat) (rv : Revoke), Serves s .ext → look s.chip.ext.revokes h = some rv →
    Runs (.revocationPoint h) s (fun c =>
      (∀ n, ∀ y ∈ c.elb n, y.handle ≠ h) ∧ look c.ext.revokes h = some { rv with point := true }
      ∧ c.ext.dir = s.chip.ext.dir ∧ c.ext.ctxs = s.chip.ext.ctxs ∧ c.mem = s.chip.mem ∧ c.out = s.chip.out))
  ∧ (∀ (s : State) (h : Nat) (rv : Revoke), Serves s .ext → look s.chip.ext.revokes h = some rv → rv.point = true →
    s.chip.inflight h = 0 → s.chip.ext.parity.contains h = false →
    Runs (.drainEnd h) s (fun c =>
      c.extent h = { s.chip.extent h with st := if rv.scrub && !(s.chip.extent h).lent then .scrubbing else .free }))
  ∧ (∀ (s : State) (h : Nat) (rv : Revoke), Serves s .ext → look s.chip.ext.revokes h = some rv → rv.bound = false →
    s.chip.expired rv.beat 2 = true → NoCoherence s.chip → s.chip.int.writes = [] →
    s.chip.eng.regions = [] → s.chip.red.rereads = [] →
    Runs (.drainBoundExpiry h) s (fun c =>
      look c.ext.revokes h = some { rv with bound := true } ∧ (∀ l ∈ c.ext.lends, l.handle ≠ h)
      ∧ (∀ e ∈ c.int.reads, ¬ (e.2.tgt.handle = h ∧ e.2.issued = false))
      ∧ c.ext.dir = s.chip.ext.dir ∧ c.mem = s.chip.mem))

/-- EXT_RELEASE of a HELD extent with its generation makes it LIVE again; of a LIVE one it changes nothing (R81). A walk that finds a
VALID context and an extent, both with a majority, fills the ELB with the pair (R67, R68). An entry without a majority is rebuilt: a LIVE
extent HELD, a context not VALID (R375). It says where these commands complete: EXT_RELEASE, DIRECTORY_WALK, ENTRY_REBUILD. -/
def Obligations.ExtentsAreReleasedAndRebuilt : Prop :=
  (∀ (s : State) (d : Desc), Serves s .ext →
    (d.ctx = (s.chip.extent (rvHandle d)).ownerCtx
      ∨ ((s.chip.caller d).admin = true ∧ (s.chip.caller d).tenant = (s.chip.extent (rvHandle d)).tenant)) →
    d.zero 16 26 6 = true → d.zero 20 0 352 = true → rvGen d = (s.chip.extent (rvHandle d)).gen →
    ((s.chip.extent (rvHandle d)).st = .live ∨ ((s.chip.extent (rvHandle d)).st = .held ∧ s.chip.journalFull = false)) →
    Runs (.extRelease d) s (fun c =>
      c.extent (rvHandle d) = { s.chip.extent (rvHandle d) with st := .live } ∧ (∀ h, h ≠ rvHandle d → c.extent h = s.chip.extent h)
      ∧ c.ext.ctxs = s.chip.ext.ctxs ∧ c.mem = s.chip.mem ∧ (NoJournal s.chip → Completed c bufExt d .ok)))
  ∧ (∀ (s : State) (elb ctx pla h : Nat) (ce : CtxE) (e : Extent), Serves s .ext → (s.chip.ctxTri ctx).vote.1 = some ce → ce.valid = true →
    s.chip.handleAt pla = some h → (s.chip.extTri h).vote.1 = some e →
    Runs (.directoryWalk elb ctx pla) s (fun c =>
      (⟨ctx, h, ce, e⟩ : ElbE) ∈ c.elb elb ∧ (∀ n, n ≠ elb → c.elb n = s.chip.elb n) ∧ c.mem = s.chip.mem ∧ c.ext.folios = s.chip.ext.folios))
  ∧ (∀ (s : State) (h : Nat), Serves s .red → s.chip.ext.rebuild.contains (0, h) = true → s.chip.bit rRED_STATUS 1 = false →
    (s.chip.extTri h).a.val.st = .live →
    Runs (.entryRebuild 0 h) s (fun c =>
      c.extent h = { (s.chip.extTri h).a.val with st := .held } ∧ c.ext.rebuild.contains (0, h) = false
      ∧ (∀ n, ∀ y ∈ c.elb n, y.handle ≠ h) ∧ c.mem = s.chip.mem))
  ∧ (∀ (s : State) (n : Nat), Serves s .red → s.chip.ext.rebuild.contains (1, n) = true → s.chip.bit rRED_STATUS 1 = false →
    Runs (.entryRebuild 1 n) s (fun c => (c.ctx n).valid = false ∧ (∀ k, ∀ y ∈ c.elb k, y.ctx ≠ n) ∧ c.mem = s.chip.mem))

/-- RECLAIM revokes the extent that starts at the reclaimed address of its sender's memory; the loss of a lender holds its LIVE extents
and strikes its forwards (R82, R83). An admitted RD of a lent extent is forwarded to its lender, and counted until the done notice (R82),
which takes it out again. It says where these commands complete: RECLAIM, LENDER_LOSS, RD, LEND_DONE, HEARTBEAT. -/
def Obligations.LentExtentsAreForwardedAndReclaimed : Prop :=
  (∀ (s : State) (link h : Nat) (m : Msg), Sunk s.chip m → s.chip.quiesced = false →
    s.chip.usedHandles.filter (fun k => (s.chip.extent k).lent && (s.chip.extent k).lender == m.src
      && (s.chip.extent k).backing * 2 ^ 21 == m.addr.toNat && ((s.chip.extent k).st == .live || (s.chip.extent k).st == .held)) = [h] →
    Runs (.reclaim link m) s (fun c =>
      c.extent h = { s.chip.extent h with gen := (s.chip.extent h).gen + 1, st := .draining } ∧ (look c.ext.revokes h).isSome = true
      ∧ (∀ k, k ≠ h → c.extent k = s.chip.extent k) ∧ c.mem = s.chip.mem))
  ∧ (∀ (s : State) (node : NodeId) (h : Nat), Serves s .ext →
    s.chip.hasRoute node = false →
    s.chip.usedHandles.filter (fun k => (s.chip.extent k).lent && (s.chip.extent k).lender == node) = [h] → (s.chip.extent h).st = .live →
    Runs (.lenderLoss node .noRoute) s (fun c =>
      c.extent h = { s.chip.extent h with st := .held } ∧ (∀ l ∈ c.ext.lends, l.lender ≠ node) ∧ (∀ n, ∀ y ∈ c.elb n, y.handle ≠ h)
      ∧ (∀ k, k ≠ h → c.extent k = s.chip.extent k) ∧ c.mem = s.chip.mem))
  ∧ (∀ (s : State) (link pla : Nat) (m : Msg) (x : ElbE), ServedHere s.chip m pla →
    (s.chip.wake.check (elbLink link) (msgReq m pla m.bytes.toNat rRead false false)).2.1 = .granted x → x.e.lent = true →
    s.chip.lendFree.isSome = true →
    Runs (.rd link m) s (fun c =>
      (∃ l ∈ c.ext.lends, l.handle = x.handle ∧ l.lender = x.e.lender ∧ l.src = m.src) ∧ c.inflight x.handle = s.chip.inflight x.handle + 1
      ∧ (∃ a lat, Out.msg a lat ∈ c.out ∧ a.opcode = m.opcode ∧ a.lent = true ∧ a.dest = x.e.lender ∧ a.cls = clsFwd) ∧ c.mem = s.chip.mem))
  ∧ (∀ (s : State) (link : Nat) (m : Msg) (l : Lend), Sunk s.chip m →
    s.chip.ext.lends.find? (fun l => l.txn == m.txn && l.lender == m.src) = some l →
    Runs (.lendDone link m) s (fun c =>
      (∀ y ∈ c.ext.lends, y.txn ≠ m.txn) ∧ c.inflight l.handle = s.chip.inflight l.handle - 1
      ∧ c.ext.dir = s.chip.ext.dir ∧ c.ext.ctxs = s.chip.ext.ctxs ∧ c.mem = s.chip.mem ∧ c.out = s.chip.out))
  ∧ (∀ (s : State) (link : Nat) (m : Msg), Sunk s.chip m → (look s.chip.ext.lenders m.src.toNat).isSome = true →
    Runs (.heartbeat link m) s (fun c =>
      look c.ext.lenders m.src.toNat = some s.chip.esc.bounds ∧ c.ext.dir = s.chip.ext.dir ∧ c.ext.ctxs = s.chip.ext.ctxs
      ∧ c.mem = s.chip.mem ∧ c.out = s.chip.out))

/-! ### Requests for pool memory (R19 to R21, R72, R82, R355 to R357, R477) -/

/-- RD and a BAR 4 read that EXT admits for memory of the package: the read is in progress, or it has been answered; memory is not
written. Answers to the package's own requests: RD_RSP of a lender completes the BAR 4 read that it was forwarded for; WR_ACK with OK of a
partner takes the mirror write out; a BAR 4 read that no answer came for within its context's timeout ends with TIMEOUT. It says where
these commands complete: RD, BAR4_READ, RD_RSP, WR_ACK, CONTEXT_TIMEOUT. -/
def Obligations.ReadsStartAndOwnRequestsEnd : Prop :=
  (∀ (s : State) (link pla : Nat) (m : Msg) (x : ElbE), ServedHere s.chip m pla →
    (s.chip.wake.check (elbLink link) (msgReq m pla m.bytes.toNat rRead false false)).2.1 = .granted x → x.e.lent = false → x.e.coh ≠ 1 →
    Runs (.rd link m) s (fun c =>
      ((∃ r, look c.int.reads s.chip.int.nextId = some r ∧ r.who = .fabric link m ∧ r.bytes = m.bytes.toNat ∧ r.tgt = x.target pla)
        ∨ Answered c m 0x20 (fun _ => True)) ∧ c.mem = s.chip.mem))
  ∧ (∀ (s : State) (fn off n tag pla ctx : Nat) (stream : Option Nat) (x : ElbE), s.chip.stopped = false → s.chip.ideOk stream = true →
    s.chip.coreHeld = false → s.chip.quiesced = false → s.chip.bar4At fn off n = some (pla, ctx) →
    (s.chip.wake.check elbPci (bar4Req fn ctx pla n rRead false)).2.1 = .granted x → x.e.lent = false → x.e.coh ≠ 1 →
    Runs (.bar4Read fn off n tag stream) s (fun c =>
      ((∃ r, look c.int.reads s.chip.int.nextId = some r ∧ r.who = .bar4 fn tag ∧ r.bytes = n ∧ r.tgt = x.target pla)
        ∨ (∃ st d lat, Out.bar4Read fn tag st d lat ∈ c.out)) ∧ c.mem = s.chip.mem))
  ∧ (∀ (s : State) (link fn tag : Nat) (m : Msg) (b : Quad), Sunk s.chip m → 0xC000 ≤ m.txn.toNat → m.status = 0 →
    look s.chip.pci.lent m.txn.toNat = some (fn, tag, b) →
    Runs (.rdRsp link m) s (fun c =>
      look c.pci.lent m.txn.toNat = none ∧ c.out = s.chip.out ++ [.bar4Read fn tag .ok m.data 0] ∧ c.mem = s.chip.mem ∧ c.ext = s.chip.ext))
  ∧ (∀ (s : State) (link : Nat) (m : Msg) (x : Mirror), Sunk s.chip m → s.chip.held.contains .red = false →
    0x4000 ≤ m.txn.toNat → m.txn.toNat < 0x8000 → m.status = 0 → look s.chip.red.mirrors m.txn.toNat = some x → NoCoherence s.chip →
    Runs (.wrAck link m) s (fun c => look c.red.mirrors m.txn.toNat = none ∧ c.mem = s.chip.mem ∧ c.ext.dir = s.chip.ext.dir))
  ∧ (∀ (s : State) (id fn tag : Nat) (b : Quad), Serves s .spine → look s.chip.pci.lent id = some (fn, tag, b) →
    s.chip.expired b (s.chip.beatsFor (s.chip.get (rPCI_FN + 16 * fn) 0 16) 0) = true →
    Runs (.contextTimeout 2 id) s (fun c =>
      look c.pci.lent id = none ∧ c.out = s.chip.out ++ [.bar4Read fn tag .timeout [] 0] ∧ c.pci.aer = s.chip.pci.aer + 1
      ∧ c.mem = s.chip.mem ∧ c.ext = s.chip.ext))

/-- WR, WR_BE and a BAR 4 write of at least one byte that EXT admits for memory of the package: the write is in progress for its target.
The stripes are written later. Writes that the partner must first complete (a part of a line of a PAIR extent) are not these. It says
where these commands complete: WR, WR_BE, BAR4_WRITE. -/
def Obligations.WritesStart : Prop :=
  (∀ (s : State) (link pla : Nat) (m : Msg) (x : ElbE), ServedHere s.chip m pla → 0 < m.data.length →
    (s.chip.wake.check (elbLink link) (msgReq m pla m.data.length rWrite true false)).2.1 = .granted x → x.e.lent = false → x.e.coh ≠ 1 →
    (x.e.red = false ∨ partLines (x.target pla).ppa m.data.length (allOn m.data.length) = []) →
    Runs (.wr link m) s (fun c =>
      (∃ id w, look c.int.writes id = some w ∧ w.who = .fabric link m ∧ w.tgt = x.target pla ∧ w.status = .ok)
      ∧ (x.e.tchk = 0 → partLines (x.target pla).ppa m.data.length (allOn m.data.length) = [] → c.mem = s.chip.mem)))
  ∧ (∀ (s : State) (link pla : Nat) (m : Msg) (x : ElbE), ServedHere s.chip m pla → 0 < m.data.length →
    (s.chip.wake.check (elbLink link) (msgReq m pla m.data.length rWrite true false)).2.1 = .granted x → x.e.lent = false → x.e.coh ≠ 1 →
    (x.e.red = false ∨ partLines (x.target pla).ppa m.data.length (msgBe m) = []) →
    Runs (.wrBe link m) s (fun c =>
      (∃ id w, look c.int.writes id = some w ∧ w.who = .fabric link m ∧ w.tgt = x.target pla ∧ w.status = .ok)
      ∧ (x.e.tchk = 0 → partLines (x.target pla).ppa m.data.length (msgBe m) = [] → c.mem = s.chip.mem)))
  ∧ (∀ (s : State) (fn off pla ctx : Nat) (data : List Byte) (stream : Option Nat) (x : ElbE), s.chip.stopped = false →
    s.chip.ideOk stream = true → s.chip.coreHeld = false → s.chip.quiesced = false → 0 < data.length →
    s.chip.bar4At fn off data.length = some (pla, ctx) →
    ((s.chip.tlpIn data.length).wake.check elbPci (bar4Req fn ctx pla data.length rWrite true)).2.1 = .granted x → x.e.lent = false →
    x.e.coh ≠ 1 → (x.e.red = false ∨ partLines (x.target pla).ppa data.length (allOn data.length) = []) →
    Runs (.bar4Write fn off data stream) s (fun c =>
      (∃ id w, look c.int.writes id = some w ∧ w.who = .bar4 fn postedTag ∧ w.tgt = x.target pla ∧ w.status = .ok)
      ∧ (x.e.tchk = 0 → partLines (x.target pla).ppa data.length (allOn data.length) = [] → c.mem = s.chip.mem)))

/-- The data of the last line of a read arrives from its stack, or the line is rebuilt from its siblings (R20, R352): the read is answered
and leaves its extent's count. A stripe operation takes its stripe's entry of the lock table (R356). Issued (R357) once the write queues
take its lines (R327), it writes at most the ten lines of its stripe, and the last one of a write completes the write. It says where these
commands complete: STACK_READ_DATA, LINE_RECONSTRUCT, STRIPE_WRITE, STRIPE_WRITE_ISSUE. -/
def Obligations.LinesAndStripesComplete : Prop :=
  (∀ (s : State) (id line lat passed link : Nat) (r : ReadOp) (m : Msg), Serves s .int → s.chip.stkServes (linePlace line).1 = true →
    look s.chip.int.reads id = some r → r.lines = [⟨line, .issued, lat, passed⟩] → (s.chip.wake.serveLine id line).isSome = true → r.who = .fabric link m → s.chip.keyUsable r.tgt.slot = true →
    s.chip.clean line = true → NoCoherence s.chip →
    Runs (.stackReadData id line) s (fun c =>
      look c.int.reads id = none ∧ c.inflight r.tgt.handle = s.chip.inflight r.tgt.handle - 1
      ∧ Answered c m 0x20 (fun a => a.status = 0 ∧ a.data = slice (s.chip.directLine line r.tgt).2.data (r.tgt.ppa % 64) r.bytes)
      ∧ c.mem = s.chip.mem))
  ∧ (∀ (s : State) (id line lat passed link : Nat) (r : ReadOp) (m : Msg), Serves s .int → s.chip.mayAccess 29 = true →
    s.chip.locked < 2048 → s.chip.stripeHeld (stripeOf line) = false →
    look s.chip.int.reads id = some r → r.lines = [⟨line, .failed, lat, passed⟩] → r.who = .fabric link m → s.chip.keyUsable r.tgt.slot = true →
    r.tgt.pair = none → NoCoherence s.chip →
    Runs (.lineReconstruct id line) s (fun c =>
      look c.int.reads id = none ∧ c.inflight r.tgt.handle = s.chip.inflight r.tgt.handle - 1
      ∧ Answered c m 0x20 (fun a => a.status.toNat = (Status.worse .ok (s.chip.rebuildLine line r.tgt false).2.st).code)))
  ∧ (∀ (s : State) (id : Nat) (o : StripeOp), Serves s .int → look s.chip.int.stripes id = some o → o.locked = false →
    (∀ e ∈ s.chip.int.stripes, e.1 < id → e.2.stripe ≠ o.stripe) → s.chip.locked < 2048 → s.chip.stripeHeld o.stripe = false →
    s.chip.portFill o.port + o.lines ≤ 256 →
    Runs (.stripeWrite id) s (fun c =>
      look c.int.stripes id = some { o with locked := true } ∧ (∀ k, k ≠ id → look c.int.stripes k = look s.chip.int.stripes k)
      ∧ c.int.writes = s.chip.int.writes ∧ c.mem = s.chip.mem ∧ c.ext = s.chip.ext))
  ∧ (∀ (s : State) (id link : Nat) (o : StripeOp) (w : WriteOp) (m : Msg), Serves s .int → look s.chip.int.stripes id = some o →
    o.locked = true → s.chip.stripeCost o.stripe o.chgs ≤ s.chip.capLeft o.port → s.chip.queuesTake o = true →
    s.chip.groupServes o.stripe = true → look s.chip.int.writes o.write = some w →
    w.stripes = [id] → w.mirrors = [] → w.who = .fabric link m → s.chip.keyUsable w.tgt.slot = true → s.chip.groupState (o.stripe % 2) < 3 →
    (∀ x ∈ o.chgs, x.d < 8 ∧ x.data.length = 64) → NoCoherence s.chip →
    Runs (.stripeWriteIssue id) s (fun c =>
      look c.int.stripes id = none ∧ look c.int.writes o.write = none ∧ c.inflight w.tgt.handle = s.chip.inflight w.tgt.handle - 1
      ∧ Answered c m 0x21 (fun _ => True)
      ∧ (∀ a, (∀ k, k < 10 → a < stackAddr (placeOf o.stripe k) ∨ stackAddr (placeOf o.stripe k) + 64 ≤ a) →
          c.mem.byte a = s.chip.mem.byte a)))

/-! ### Rings and queues (R93 to R123) -/

/-- A doorbell that a ring takes moves SQ_TAIL or CQ_HEAD, or a queue's head; every other ring stays, and so do tables and memory (R96 to
R98). A DOORBELL message moves the tail of a location 1 ring. A write of an offset that takes none is only counted (R96), and a read of
the page returns the value of R95. It says where these commands complete: SQ_TAIL_WRITE, CQ_HEAD_WRITE, FQ_HEAD_WRITE, EQ_HEAD_WRITE,
DOORBELL. -/
def Obligations.DoorbellsMoveIndexes : Prop :=
  (∀ (s : State) (fn r width : Nat) (val : Word) (stream : Option Nat), Serves s .rng → BellTaken s.chip fn r width stream →
    TailFits (s.chip.ring r) val →
    Runs (.sqTailWrite fn r (.write width) val stream) s (fun c =>
      (c.ring r).tail = val ∧ (c.ring r).cqHead = (s.chip.ring r).cqHead ∧ (c.ring r).descs = (s.chip.ring r).descs
      ∧ (∀ k, k ≠ r → c.ring k = s.chip.ring k) ∧ KeepsSetup s c ∧ KeepsStore s c ∧ KeepsTables s c ∧ KeepsEngines s c))
  ∧ (∀ (s : State) (fn r width : Nat) (val : Word) (stream : Option Nat), Serves s .rng → BellTaken s.chip fn r width stream →
    (val - (s.chip.ring r).cqHead).toNat ≤ (s.chip.ring r).written →
    Runs (.cqHeadWrite fn r width val stream) s (fun c =>
      (c.ring r).cqHead = val ∧ (c.ring r).tail = (s.chip.ring r).tail
      ∧ (∀ k, k ≠ r → c.ring k = s.chip.ring k) ∧ KeepsSetup s c ∧ KeepsStore s c ∧ KeepsTables s c ∧ KeepsEngines s c))
  ∧ (∀ (s : State) (fn r q width : Nat) (val : Word) (stream : Option Nat), Serves s .rng → BellTaken s.chip fn r width stream → q < 64 →
    (s.chip.fq q).ctrlCtx = (s.chip.ring r).ctx →
    (val - (s.chip.fq q).head).toNat ≤ (s.chip.fq q).used - (s.chip.fq q).batch.length →
    Runs (.fqHeadWrite fn r q width val stream) s (fun c =>
      (c.fq q).head = val ∧ (c.fq q).put = (s.chip.fq q).put ∧ (∀ k, k ≠ q → c.fq k = s.chip.fq k) ∧ (∀ k, c.ring k = s.chip.ring k)
      ∧ KeepsSetup s c ∧ KeepsStore s c ∧ KeepsTables s c ∧ KeepsEngines s c))
  ∧ (∀ (s : State) (fn r q width : Nat) (val : Word) (stream : Option Nat), Serves s .rng → BellTaken s.chip fn r width stream → q < 64 →
    (s.chip.eq q).ctrlCtx = (s.chip.ring r).ctx →
    (val - (s.chip.eq q).head).toNat ≤ (s.chip.eq q).used - (s.chip.eq q).batch.length →
    Runs (.eqHeadWrite fn r q width val stream) s (fun c =>
      (c.eq q).head = val ∧ (c.eq q).put = (s.chip.eq q).put ∧ (∀ k, k ≠ q → c.eq k = s.chip.eq k) ∧ (∀ k, c.ring k = s.chip.ring k)
      ∧ KeepsSetup s c ∧ KeepsStore s c ∧ KeepsTables s c ∧ KeepsEngines s c))
  ∧ (∀ (s : State) (link r : Nat) (m : Msg), Sunk s.chip m → s.chip.held.contains .rng = false → s.chip.bit rRNG_CTL 0 = true →
    r < 4096 → m.specAt 0 2 % 4096 = r → m.specAt 2 2 % 4096 = 0 → (s.chip.ring r).st ≠ .disabled → (s.chip.ring r).unfit = false →
    (s.chip.ring r).loc = 1 → m.specAt 4 2 = (s.chip.ring r).ctx → m.src = (s.chip.ring r).hostNode →
    TailFits (s.chip.ring r) (BitVec.ofNat 32 (m.specAt 8 4)) →
    Runs (.doorbell link m) s (fun c =>
      (c.ring r).tail = BitVec.ofNat 32 (m.specAt 8 4) ∧ (∀ k, k ≠ r → c.ring k = s.chip.ring k)
      ∧ KeepsSetup s c ∧ KeepsStore s c ∧ KeepsTables s c ∧ KeepsEngines s c))
  ∧ (∀ (s : State) (fn r off width : Nat) (val : Word) (stream : Option Nat), Serves s .rng → BellTaken s.chip fn r width stream →
    (8 ≤ off ∧ off < 0x100 ∨ 0x300 ≤ off) →
    Runs (.sqTailWrite fn r (.other off width) val stream) s (fun c =>
      ((s.chip.word rRNG_DB_DROPPED).toNat + 1 < 2 ^ 32 → c.word rRNG_DB_DROPPED = s.chip.word rRNG_DB_DROPPED + 1)
      ∧ c.rng = s.chip.rng ∧ KeepsSetup s c ∧ KeepsStore s c ∧ KeepsTables s c ∧ KeepsEngines s c))
  ∧ (∀ (s : State) (fn r off tag : Nat) (val : Word) (stream : Option Nat), s.chip.ideOk stream = true →
    Runs (.sqTailWrite fn r (.read off tag) val stream) s (fun c =>
      c.out = s.chip.out ++ [.pageRead fn tag (some (s.chip.pageWord fn r off))] ∧ c.rng = s.chip.rng ∧ c.regs = s.chip.regs
      ∧ KeepsSetup s c ∧ KeepsStore s c ∧ KeepsTables s c ∧ KeepsEngines s c))

/-- Fetched descriptors (R101, R104): the data of the ring's one outstanding fetch is taken, each slot whose header is well formed waits
for its start; the next descriptor in ring order starts, and its completion slot is reserved (R112); a descriptor that has waited a whole
beat raises its ring to the highest priority (R103); NOP completes with OK. It says where these commands complete: DESCRIPTOR_ARRIVAL,
DESCRIPTOR_START, RING_PRIORITY_AGING, NOP. -/
def Obligations.DescriptorsAreFetchedAndStarted : Prop :=
  (∀ (s : State) (r n : Nat) (ix : Word) (slots : List Flit), Serves s .rng → (s.chip.ring r).fetches = [(ix, n, none)] → slots.length = n →
    (∀ e ∈ slots.zipIdx, s.chip.headerBad ⟨r, ix + BitVec.ofNat 32 e.2, e.1⟩ = none) →
    (∀ f ∈ (s.chip.ring r).descs, f.st = .fetched ∨ f.st = .started) → (s.chip.ring r).tail = (s.chip.ring r).fetchIx →
    Runs (.descriptorArrival r true slots) s (fun c =>
      (c.ring r).fetches = [] ∧ (c.ring r).descs.length = (s.chip.ring r).descs.length + n
      ∧ (∀ e ∈ slots.zipIdx, ∃ f ∈ (c.ring r).descs, f.index = ix + BitVec.ofNat 32 e.2 ∧ f.raw = e.1 ∧ f.st = .fetched)
      ∧ (∀ k, k ≠ r → c.ring k = s.chip.ring k) ∧ KeepsSetup s c ∧ KeepsStore s c ∧ KeepsTables s c))
  ∧ (∀ (s : State) (r : Nat) (f : Fetched), Serves s .rng → s.chip.quiesced = false → s.chip.pickRing = some (r, f) →
    (∀ p ∈ f.pre, p.stale = false ∧ p.st ≠ .waiting) →
    Runs .descriptorStart s (fun c =>
      (∃ g ∈ (c.ring r).descs, g.index = f.index ∧ g.st = .started) ∧ (c.ring r).reserved = (s.chip.ring r).reserved + 1
      ∧ look c.rng.lastRing (ringPri r (s.chip.ring r)) = some r ∧ (∀ k, k ≠ r → c.ring k = s.chip.ring k) ∧ KeepsSetup s c ∧ KeepsStore s c ∧ KeepsTables s c))
  ∧ (∀ (s : State) (r : Nat) (f : Fetched), Serves s .rng → f ∈ (s.chip.ring r).descs → f.st = .fetched →
    f.beat.toNat + 2 ≤ s.chip.esc.bounds.toNat →
    Runs (.ringPriorityAging r) s (fun c =>
      c.ring r = { s.chip.ring r with aged := ((s.chip.ring r).descs.filter (fun g =>
        g.st == .fetched && decide (g.beat.toNat + 2 ≤ s.chip.esc.bounds.toNat))).map (fun g => g.index) }
      ∧ ringPri r (c.ring r) = 3 ∧ (∀ k, k ≠ r → c.ring k = s.chip.ring k) ∧ c.regs = s.chip.regs ∧ c.out = s.chip.out
      ∧ KeepsSetup s c ∧ KeepsStore s c ∧ KeepsTables s c ∧ KeepsEngines s c))
  ∧ (∀ (s : State) (d : Desc), Serves s .rng →
    Runs (.nop d) s (fun c =>
      Completed c bufRng d .ok ∧ (NoneWaits s.chip → ∀ k, k ≠ d.ring → c.ring k = s.chip.ring k)
      ∧ KeepsSetup s c ∧ KeepsStore s c ∧ KeepsTables s c ∧ KeepsEngines s c))

/-- RING_SET makes a DISABLED ring ACTIVE with the fields of its body (R92, R119); RING_ABORT lets none of its descriptors start any more
(R117), and when the last has completed the ring is DISABLED; QUEUE_SET enables or disables a queue (R118). It says where these commands
complete: RING_SET, RING_ABORT, RING_ABORT_DONE, QUEUE_ENABLE, QUEUE_DISABLE. -/
def Obligations.RingsAndQueuesAreSet : Prop :=
  (∀ (s : State) (d : Desc), Serves s .rng → MaySetRing s.chip d →
    Runs (.ringSet d) s (fun c =>
      (c.ring (rgRing d)).st = .active ∧ (c.ring (rgRing d)).ctx = rgCtx d ∧ (c.ring (rgRing d)).loc = rgLoc d
      ∧ (c.ring (rgRing d)).sqBase = BitVec.ofNat 64 (d.field 24 8) ∧ (c.ring (rgRing d)).cqBase = BitVec.ofNat 64 (d.field 32 8)
      ∧ (c.ring (rgRing d)).sqLog = d.bitsAt 22 0 5 ∧ (c.ring (rgRing d)).cqLog = d.bitsAt 23 0 5
      ∧ (c.ring (rgRing d)).tail = 0 ∧ (c.ring (rgRing d)).head = 0 ∧ (c.ring (rgRing d)).cqHead = 0
      ∧ (NoneWaits s.chip → ∀ k, k ≠ rgRing d → k ≠ d.ring → c.ring k = s.chip.ring k) ∧ Completed c bufRng d .ok
      ∧ KeepsSetup s c ∧ KeepsStore s c ∧ KeepsTables s c ∧ KeepsEngines s c))
  ∧ (∀ (s : State) (d : Desc), Serves s .rng →
    (s.chip.ring (rgRing d)).st = .active ∨ (s.chip.ring (rgRing d)).st = .stopped →
    (s.chip.admins d (s.chip.ctxTenant (s.chip.ring (rgRing d)).ctx) = true ∨ (s.chip.ring (rgRing d)).ctx = d.ctx) →
    rgRing d ≠ 0 → d.zero 16 12 4 = true → d.zero 18 0 368 = true → rgRing d ≠ d.ring →
    Runs (.ringAbort d) s (fun c =>
      (c.ring (rgRing d)).st = .aborting ∧ (c.ring (rgRing d)).abort = some d ∧ (c.ring (rgRing d)).fetches = []
      ∧ (∀ f ∈ (c.ring (rgRing d)).descs, f.st ≠ .fetched) ∧ KeepsSetup s c))
  ∧ (∀ (s : State) (r : Nat), Serves s .rng → (s.chip.ring r).st = .aborting → (s.chip.ring r).descs = [] →
    Runs (.ringAbortDone r) s (fun c =>
      (c.ring r).st = .disabled ∧ (∀ d, (s.chip.ring r).abort = some d → Completed c bufRng d .ok)
      ∧ KeepsSetup s c ∧ KeepsStore s c ∧ KeepsTables s c ∧ KeepsEngines s c))
  ∧ (∀ (s : State) (d : Desc), Serves s .rng → MaySetQueue s.chip d → d.bitsAt 16 1 1 = 1 →
    Runs (.queueEnable d) s (fun c =>
      c.queueOf (d.bitsAt 16 0 1 == 1) (d.bitsAt 17 0 6)
        = { enabled := true, loc := rgLoc d, log2 := d.bitsAt 19 0 5, ctrlCtx := rgCtx d, base := BitVec.ofNat 64 (d.field 24 8),
            hostNode := BitVec.ofNat 24 (d.field 32 3), remoteCtx := d.field 36 2, vector := d.bitsAt 38 0 12 }
      ∧ (NoneWaits s.chip → ∀ b k, (b ≠ (d.bitsAt 16 0 1 == 1) ∨ k ≠ d.bitsAt 17 0 6) → c.queueOf b k = s.chip.queueOf b k)
      ∧ Completed c bufRng d .ok
      ∧ KeepsSetup s c ∧ KeepsStore s c ∧ KeepsTables s c ∧ KeepsEngines s c))
  ∧ (∀ (s : State) (d : Desc), Serves s .rng → MaySetQueue s.chip d → d.bitsAt 16 1 1 = 0 →
    Runs (.queueDisable d) s (fun c =>
      (c.queueOf (d.bitsAt 16 0 1 == 1) (d.bitsAt 17 0 6)).enabled = false
      ∧ (NoneWaits s.chip → ∀ b k, (b ≠ (d.bitsAt 16 0 1 == 1) ∨ k ≠ d.bitsAt 17 0 6) → c.queueOf b k = s.chip.queueOf b k)
      ∧ Completed c bufRng d .ok
      ∧ KeepsSetup s c ∧ KeepsStore s c ∧ KeepsTables s c ∧ KeepsEngines s c))

/-- Ring 0, fault queue 0 and error record queue 0 are set and disabled by their registers (R123). It says where these commands complete:
RING0_ENABLE, RING0_DISABLE, FQ0_ENABLE, FQ0_DISABLE, EQ0_ENABLE, EQ0_DISABLE. -/
def Obligations.RegistersSetRingZero : Prop :=
  (∀ (s : State) (who : Who) (val : Word), Reaches s who rRNG_RING0_CFG → bitOf val.toNat 0 = true → (s.chip.ring 0).st = .disabled →
    Runs (.ring0Enable who val) s (fun c =>
      (c.ring 0).st = .active ∧ (c.ring 0).pri = 3 ∧ (c.ring 0).runahead = 64 ∧ (c.ring 0).ctx = 0
      ∧ c.word rRNG_RING0_CFG = writeWord rRNG_RING0_CFG (s.chip.word rRNG_RING0_CFG) val
      ∧ (∀ k, k ≠ 0 → c.ring k = s.chip.ring k) ∧ c.out = s.chip.out ∧ KeepsSetup s c ∧ KeepsStore s c ∧ KeepsTables s c ∧ KeepsEngines s c))
  ∧ (∀ (s : State) (who : Who) (val : Word), Reaches s who rRNG_RING0_CFG → bitOf val.toNat 0 = false → (s.chip.ring 0).st = .active →
    Runs (.ring0Disable who val) s (fun c =>
      (c.ring 0).st = .aborting ∧ (c.ring 0).abort = none ∧ (∀ f ∈ (c.ring 0).descs, f.st ≠ .fetched) ∧ KeepsSetup s c))
  ∧ (∀ (s : State) (who : Who) (val : Word), Reaches s who rRNG_FQ0_CFG → bitOf val.toNat 0 = true → (s.chip.fq 0).enabled = false →
    Runs (.fq0Enable who val) s (fun c =>
      (c.fq 0).enabled = true ∧ (c.fq 0).put = 0 ∧ (c.fq 0).head = 0 ∧ (c.fq 0).batch = []
      ∧ c.word rRNG_FQ0_CFG = writeWord rRNG_FQ0_CFG (s.chip.word rRNG_FQ0_CFG) val ∧ (∀ k, k ≠ 0 → c.fq k = s.chip.fq k)
      ∧ c.rng.rings = s.chip.rng.rings ∧ c.rng.eqs = s.chip.rng.eqs ∧ KeepsSetup s c ∧ KeepsStore s c ∧ KeepsTables s c ∧ KeepsEngines s c))
  ∧ (∀ (s : State) (who : Who) (val : Word), Reaches s who rRNG_FQ0_CFG → bitOf val.toNat 0 = false → (s.chip.fq 0).enabled = true →
    Runs (.fq0Disable who val) s (fun c =>
      (c.fq 0).enabled = false ∧ (∀ k, k ≠ 0 → c.fq k = s.chip.fq k) ∧ c.rng.rings = s.chip.rng.rings ∧ c.rng.eqs = s.chip.rng.eqs
      ∧ KeepsSetup s c ∧ KeepsStore s c ∧ KeepsTables s c ∧ KeepsEngines s c))
  ∧ (∀ (s : State) (who : Who) (val : Word), Reaches s who rRNG_EQ0_CFG → bitOf val.toNat 0 = true → (s.chip.eq 0).enabled = false →
    Runs (.eq0Enable who val) s (fun c =>
      (c.eq 0).enabled = true ∧ (c.eq 0).put = 0 ∧ (c.eq 0).head = 0 ∧ (c.eq 0).batch = []
      ∧ c.word rRNG_EQ0_CFG = writeWord rRNG_EQ0_CFG (s.chip.word rRNG_EQ0_CFG) val ∧ (∀ k, k ≠ 0 → c.eq k = s.chip.eq k)
      ∧ c.rng.rings = s.chip.rng.rings ∧ c.rng.fqs = s.chip.rng.fqs ∧ KeepsSetup s c ∧ KeepsStore s c ∧ KeepsTables s c ∧ KeepsEngines s c))
  ∧ (∀ (s : State) (who : Who) (val : Word), Reaches s who rRNG_EQ0_CFG → bitOf val.toNat 0 = false → (s.chip.eq 0).enabled = true →
    Runs (.eq0Disable who val) s (fun c =>
      (c.eq 0).enabled = false ∧ (∀ k, k ≠ 0 → c.eq k = s.chip.eq k) ∧ c.rng.rings = s.chip.rng.rings ∧ c.rng.fqs = s.chip.rng.fqs
      ∧ KeepsSetup s c ∧ KeepsStore s c ∧ KeepsTables s c ∧ KeepsEngines s c))

/-- The collector takes the oldest record of the next buffer into its ring's batch (R113, R114); a batch whose wait has passed is written
and its completion slots are given back (R115). It says where these commands complete: COMPLETION_TAKE, BATCH_WAIT_EXPIRY. -/
def Obligations.CompletionsAreCollected : Prop :=
  (∀ (s : State) (b : Nat) (k : Cpl) (rest : List Cpl), Serves s .rng →
    ((upTo 54).map (fun i => (s.chip.rng.turn + i) % 54)).find? (fun x => s.chip.posted x != 0) = some b →
    lookD s.chip.rng.bufs b [] = k :: rest → b ≠ bufKve → b ≠ bufRng →
    (s.chip.ring k.ring).batch.length + 1 < (s.chip.ring k.ring).coalMax → (s.chip.ring k.ring).coalWait ≠ 0 →
    Runs .completionTake s (fun c =>
      lookD c.rng.bufs b [] = rest ∧ (c.ring k.ring).batch = (s.chip.ring k.ring).batch ++ [k]
      ∧ (c.ring k.ring).cqPut = (s.chip.ring k.ring).cqPut + 1 ∧ c.rng.turn = (b + 1) % 54
      ∧ (∀ r, r ≠ k.ring → c.ring r = s.chip.ring r) ∧ (∀ x, x ≠ b → lookD c.rng.bufs x [] = lookD s.chip.rng.bufs x []) ∧ c.out = s.chip.out
      ∧ KeepsSetup s c ∧ KeepsStore s c ∧ KeepsTables s c ∧ KeepsEngines s c))
  ∧ (∀ (s : State) (r : Nat), Serves s .rng → r < 4096 → (s.chip.ring r).batch ≠ [] → (s.chip.ring r).unfit = false →
    s.chip.portShut (s.chip.ring r).loc = false →
    (s.chip.ring r).keep = none → (s.chip.ring r).batchCyc + (s.chip.ring r).coalWait ≤ s.chip.esc.now →
    Runs (.batchWaitExpiry r) s (fun c =>
      (c.ring r).batch = [] ∧ (c.ring r).reserved = (s.chip.ring r).reserved - (s.chip.ring r).batch.length
      ∧ (c.ring r).cqPut = (s.chip.ring r).cqPut ∧ (∀ k, k ≠ r → c.ring k = s.chip.ring k) ∧ c.regs = s.chip.regs
      ∧ ((s.chip.ring r).loc = 0 → HostOpen s.chip → ∃ a data, Out.hostWrite (s.chip.ringFn (s.chip.ring r)) a data false 12 ∈ c.out)
      ∧ KeepsSetup s c ∧ KeepsStore s c ∧ KeepsTables s c ∧ KeepsEngines s c))

/-! ### Host translation (R133 to R146) -/

/-- XLT_TABLE_SET sets, clears and attaches domains (R134 to R136). A domain that was set before is first invalidated: its descriptor
waits for XLT_INVAL_DONE. It says where these commands complete: DOMAIN_SET, DOMAIN_CLEAR, ATTACH. -/
def Obligations.DomainsAreSet : Prop :=
  (∀ (s : State) (d : Desc), Serves s .xlt → s.chip.xlt.inval = none → s.chip.bit rXLT_CTL 0 = true →
    (s.chip.ctxTenant (tsCtx d)).any s.chip.unbinding = false → s.chip.admins d (s.chip.ctxTenant (tsCtx d)) = true →
    ((look s.chip.xlt.domains (tsDomain d)).isSome = true → s.chip.admins d (s.chip.domTenant (tsDomain d)) = true) →
    (s.chip.ctx (tsCtx d)).valid = true → tsRsvd d = false → d.bitsAt 17 1 2 = 0 → tsTarget d = 0 → tsDomain d ≠ 0 → tsRoot d % 4096 = 0 →
    Runs (.domainSet d) s (fun c =>
      look c.xlt.domains (tsDomain d) = some ⟨tsRoot d, d.bitsAt 17 0 1 == 1, tsCtx d, (s.chip.ctx (tsCtx d)).tenant⟩
      ∧ (∀ k, k ≠ tsDomain d → look c.xlt.domains k = look s.chip.xlt.domains k) ∧ c.xlt.maps = s.chip.xlt.maps
      ∧ (look s.chip.xlt.domains (tsDomain d) = none → Completed c bufXlt d .ok)
      ∧ ((look s.chip.xlt.domains (tsDomain d)).isSome = true → c.xlt.inval = some (d, 0)) ∧ KeepsSetup s c ∧ KeepsStore s c ∧ KeepsTables s c))
  ∧ (∀ (s : State) (d : Desc), Serves s .xlt → s.chip.xlt.inval = none → s.chip.bit rXLT_CTL 0 = true →
    (look s.chip.xlt.domains (tsDomain d)).isSome = true →
    (s.chip.domTenant (tsDomain d)).any s.chip.unbinding = false → s.chip.admins d (s.chip.domTenant (tsDomain d)) = true →
    tsRsvd d = false → d.bitsAt 17 0 3 = 0 → tsCtx d = 0 → tsTarget d = 0 → tsRoot d = 0 → tsDomain d ≠ 0 →
    Runs (.domainClear d) s (fun c =>
      look c.xlt.domains (tsDomain d) = none ∧ (∀ k, k ≠ tsDomain d → look c.xlt.domains k = look s.chip.xlt.domains k)
      ∧ (∀ k, (c.mapOf k).domain ≠ tsDomain d) ∧ c.xlt.inval = some (d, 0) ∧ KeepsSetup s c ∧ KeepsStore s c ∧ KeepsTables s c))
  ∧ (∀ (s : State) (d : Desc), Serves s .xlt → s.chip.xlt.inval = none → s.chip.bit rXLT_CTL 0 = true →
    (s.chip.ctxTenant (tsTarget d)).any s.chip.unbinding = false → s.chip.admins d (s.chip.ctxTenant (tsTarget d)) = true →
    (s.chip.ctx (tsTarget d)).valid = true → tsRsvd d = false → d.bitsAt 17 0 1 = 0 → tsCtx d = 0 → tsRoot d = 0 →
    (tsDomain d ≠ 0 → s.chip.domTenant (tsDomain d) = some (s.chip.ctx (tsTarget d)).tenant) → (tsTarget d = 0 → d.bitsAt 17 1 1 = 1) →
    Runs (.attach d) s (fun c =>
      c.mapOf (tsTarget d) = ⟨tsDomain d, d.bitsAt 17 1 1 == 1, d.bitsAt 17 2 1 == 1⟩ ∧ (∀ k, k ≠ tsTarget d → c.mapOf k = s.chip.mapOf k)
      ∧ c.xlt.domains = s.chip.xlt.domains ∧ Completed c bufXlt d .ok ∧ KeepsSetup s c ∧ KeepsStore s c ∧ KeepsTables s c))

/-- XLT_INVAL: no TLB entry of the domain maps an address of the invalidated range any more; the descriptor completes with XLT_INVAL_DONE
once no mover holds an affected translation (R144, R145). It says where these commands complete: XLT_INVAL, XLT_INVAL_DONE, XLT_WALK. -/
def Obligations.InvalidationsReachTheTlb : Prop :=
  (∀ (s : State) (d : Desc), Serves s .xlt → s.chip.xlt.inval = none → s.chip.bit rXLT_CTL 0 = true →
    (s.chip.admins d (s.chip.domTenant (d.bitsAt 16 0 12)) = true ∨ (s.chip.mapOf d.ctx).domain = d.bitsAt 16 0 12) →
    (look s.chip.xlt.domains (d.bitsAt 16 0 12)).isSome = true → d.bitsAt 16 0 12 ≠ 0 →
    d.zero 16 12 4 = true → d.zero 18 2 6 = true → d.zero 19 0 8 = true → d.zero 24 57 7 = true → d.zero 32 0 256 = true →
    ((d.bitsAt 18 0 2 = 0 ∧ d.bitsAt 24 0 57 % 4096 = 0 ∧ d.field 20 4 ≠ 0) ∨ d.bitsAt 18 0 2 = 1) →
    Runs (.xltInval d) s (fun c =>
      (∀ n, ∀ w ∈ (c.tlbSet n).ways, ∀ va, va < 2 ^ 57 →
        (d.bitsAt 18 0 2 = 0 → d.bitsAt 24 0 57 ≤ va ∧ va < d.bitsAt 24 0 57 + d.field 20 4 * 4096) →
        w.2.maps (d.bitsAt 16 0 12) va = false)
      ∧ (∃ n, c.xlt.inval = some (d, n)) ∧ c.xlt.domains = s.chip.xlt.domains ∧ c.xlt.maps = s.chip.xlt.maps
      ∧ KeepsSetup s c ∧ KeepsStore s c ∧ KeepsTables s c))
  ∧ (∀ (s : State) (d : Desc) (n : Nat), Serves s .xlt → s.chip.xlt.inval = some (d, n) → s.chip.staleHeld = false → s.chip.xlt.queue = [] →
    Runs .xltInvalDone s (fun c =>
      c.xlt.inval = none ∧ Completed c bufXlt d .ok ∧ c.xlt.domains = s.chip.xlt.domains ∧ c.xlt.tlb = s.chip.xlt.tlb
      ∧ KeepsSetup s c ∧ KeepsStore s c ∧ KeepsTables s c))
  ∧ (∀ (s : State) (dn va : Nat) (w : Walk) (e : TlbE), Serves s .xlt →
    s.chip.xlt.walks.find? (fun w => w.domain == dn && w.va / 2 ^ 18 == va / 2 ^ 18) = some w →
    (s.chip.wake.walkMirror dn w.va).2 = .mapped e →
    Runs (.xltWalk dn va) s (fun c =>
      (∃ k, look (c.tlbSet (tlbSetOf e.group)).ways k = some e) ∧ c.xlt.domains = s.chip.xlt.domains ∧ KeepsSetup s c))

/-! ### Operators (R189 to R207) -/

/-- A descriptor of an operator that passes the checks of R190 is held by the sequencer with the fewest operators; no tile of it has been
admitted yet. COPY, FILL, SCRUB, CONVERT, FOLD, SEAL, CHECK and WATCH read neither record nor list, so memory stays. The first refusals of
R190 come before any access: an operator whose block is disabled completes with BUSY_RETRY, one with a reserved encoding with
FORMAT_FAULT; nothing is held. It says where these commands complete: COMPLICATION, COPY, FILL, SCRUB, CONVERT, FOLD, SEAL, CHECK, WATCH,
BROADCAST, GATHER, SCATTER, OPT_STEP_ADAMW, OPT_STEP_LION, OPT_STEP_SGD_MOMENTUM, REDUCE_SCATTER, ALL_REDUCE. -/
def Obligations.OperatorsAreHeldOrRefused : Prop :=
  (∀ (s : State) (d : Desc) (n : Nat) (modes : List Nat), Serves s .seq → OpPasses s.chip.wake d n [] [] modes →
    ∀ p ∈ [(0x20, Instr.copy d), (0x21, .fill d), (0x22, .scrub d), (0x23, .convert d), (0x24, .fold d), (0x2C, .seal d), (0x2D, .check d),
        (0x2F, .watch d)],
      d.opcode = p.1 →
      Runs p.2 s (fun c => HeldBy c d n (s.chip.planOf d 1).total [] [] none ∧ c.mem = s.chip.mem ∧ KeepsSetup s c))
  -- covers: copy fill scrub convert fold seal check watch
  ∧ (∀ (s : State) (d : Desc) (n : Nat) (rcd : List Byte) (modes : List Nat), Serves s .seq → d.opcode = 0x2E →
    OpPasses s.chip.wake d n rcd [] modes →
    Runs (.complication d) s (fun c => HeldBy c d n (s.chip.opPlan d rcd).total rcd [] none ∧ KeepsSetup s c))
  ∧ (∀ (s : State) (d : Desc) (n : Nat) (peers : List Peer) (modes : List Nat), Serves s .seq → OpPasses s.chip.wake d n [] peers modes →
    ∀ p ∈ [(0x28, Instr.broadcast d), (0x29, .gather d), (0x2A, .scatter d)], d.opcode = p.1 →
      Runs p.2 s (fun c => HeldBy c d n (s.chip.planOf d 1).total [] peers none ∧ KeepsSetup s c))
  -- covers: broadcast gather scatter
  ∧ (∀ (s : State) (d : Desc) (n : Nat) (rcd : List Byte) (modes : List Nat), Serves s .seq → d.opcode = 0x2B → optFuse d = false →
    OpPasses s.chip.wake d n rcd [] modes →
    ∀ i ∈ [Instr.optStepAdamw d, .optStepLion d, .optStepSgdMomentum d],
      Runs i s (fun c => HeldBy c d n (optTiles d) rcd [] none ∧ KeepsSetup s c))
  -- covers: optStepAdamw optStepLion optStepSgdMomentum
  ∧ (∀ (s : State) (d : Desc) (n : Nat), Serves s .seq → s.chip.pickSeq = some n →
    (s.chip.bit rSEQ_CTL 0 = false ∨ (s.chip.planOf d 1).rsvd = true) →
    ∀ i ∈ [Instr.copy d, .fill d, .scrub d, .convert d, .fold d, .reduceScatter d, .allReduce d, .broadcast d, .gather d, .scatter d,
        .optStepAdamw d, .optStepLion d, .optStepSgdMomentum d, .seal d, .check d, .complication d, .watch d],
      Runs i s (fun c =>
        Completed c (bufSeq n) d (if s.chip.bit rSEQ_CTL 0 = false ∨ ((s.chip.planOf d 1).fld = true ∧ s.chip.bit rFLD_CTL 0 = false)
          ∨ ((s.chip.planOf d 1).mov = true ∧ s.chip.bit rMOV_CTL 0 = false) then .busyRetry else .formatFault)
        ∧ c.eng = s.chip.eng ∧ KeepsSetup s c ∧ KeepsStore s c ∧ KeepsTables s c))

/-- REDUCE_SCATTER, ALL_REDUCE and a fused OPT_STEP that pass R190 and find room arm a region and hold it (R183, R205, R212). FOLD_WRITE
that passes steps 1 to 8 of R168 reserves a slot; at the armed point the region takes contributions from the nodes of its list (R170);
steps 9 and 10 are the list's own. It says where these commands complete: FOLD_WRITE, FOLD_ARMED, REDUCE_SCATTER, ALL_REDUCE,
OPT_STEP_ADAMW, OPT_STEP_LION, OPT_STEP_SGD_MOMENTUM. -/
def Obligations.RegionsArm : Prop :=
  (∀ (s : State) (d : Desc) (n : Nat) (peers : List Peer) (modes : List Nat), Serves s .seq → OpPasses s.chip.wake d n [] peers modes →
    MayArm (s.chip.wake.opStep5 d).1 ((s.chip.wake.opStep5 d).1.fwRegion d none) →
    ∀ p ∈ [(0x26, Instr.reduceScatter d), (0x27, .allReduce d)], d.opcode = p.1 →
      Runs p.2 s (fun c => ∃ slot, HeldBy c d n 0 [] peers (some slot)
        ∧ Arming c slot ((s.chip.wake.opStep5 d).1.fwRegion d none) ∧ KeepsSetup s c))
  -- covers: reduceScatter allReduce
  ∧ (∀ (s : State) (d : Desc) (n : Nat) (rcd : List Byte) (modes : List Nat), Serves s .seq → d.opcode = 0x2B → optFuse d = true →
    OpPasses s.chip.wake d n rcd [] modes →
    MayArm (s.chip.wake.opStep5 d).1 ((s.chip.wake.opStep5 d).1.optRegion d none) →
    ∀ i ∈ [Instr.optStepAdamw d, .optStepLion d, .optStepSgdMomentum d],
      Runs i s (fun c => ∃ slot, HeldBy c d n 0 rcd [] (some slot)
        ∧ Arming c slot ((s.chip.wake.opStep5 d).1.optRegion d none) ∧ KeepsSetup s c))
  ∧ (∀ (s : State) (d : Desc), Serves s .fld → s.chip.bit rFLD_CTL 0 = true → fwBad d (s.chip.fwRegion d none) = false →
    d.zero 48 0 128 = true →
    accPairs (s.chip.fwRegion d none).acc (s.chip.fwRegion d none).inFmt (s.chip.fwRegion d none).red = true →
    (s.chip.wake.wouldAdmit elbSeq (s.chip.fwRegion d none).targetReq).2.1 = none →
    ((s.chip.wake.wouldAdmit elbSeq (s.chip.fwRegion d none).targetReq).1.wouldAdmit elbSeq (s.chip.fwRegion d none).listReq).2.1 = none →
    RoomToArm s.chip (s.chip.fwRegion d none) →
    Runs (.foldWrite d) s (fun c =>
      (∃ slot, Arming c slot (s.chip.fwRegion d none)) ∧ c.rng = s.chip.rng ∧ c.mem = s.chip.mem ∧ KeepsSetup s c))
  ∧ (∀ (s : State) (n k : Nat) (r : Region) (st : Status) (x : Option ElbE) (b : List Byte), Serves s .fld → s.chip.region n = some r →
    r.st = .arming → (s.chip.wake.armAdmit n r).2 = true → (s.chip.wake.poolRead elbSeq 26 r.listReq).2 = .got st k x b → st.good = true →
    (∀ i, i < r.contributors → ofBytesLE (slice b (4 * i) 4) < 2 ^ 24) → s.chip.card = false →
    ((s.chip.wake.poolRead elbSeq 26 r.listReq).1.wouldAdmit elbSeq r.targetReq).2.1 = none →
    Runs (.foldArmed n) s (fun c =>
      (∃ r', c.region n = some r' ∧ r'.st = .armed ∧ r'.pla = r.pla ∧ r'.tiles = r.tiles ∧ r'.beat = s.chip.esc.bounds
        ∧ r'.list = (upTo r.contributors).map (fun i => BitVec.ofNat 24 (ofBytesLE (slice b (4 * i) 4))))
      ∧ n ∉ c.eng.arming ∧ KeepsSetup s c))

/-- A slice of an idle operator is admitted from B+2 with the tiles that fit the beat (R192, R193); the tiles go to the units' queues. An
operator with nothing left in the units completes with the status of R196 (R195, R197). A peer that has not answered within the timeout
receives no further request (R207). It says where these commands complete: SLICE_ADMIT, OPERATOR_COMPLETE, PEER_TIMEOUT. -/
def Obligations.OperatorsAdvance : Prop :=
  (∀ (s : State) (n : Nat) (o : Op), Serves s .seq → s.chip.quiesced = false → look s.chip.eng.ops n = some o → o.seqn < 16 →
    o.ended = false → o.aborted = false → o.next < o.total → o.next ≤ o.issue → o.busy = 0 → 2 ≤ s.chip.esc.cyc →
    o.wait.toNat ≤ s.chip.esc.bounds.toNat →
    (s.chip.largestSlice o (s.chip.esc.len - s.chip.esc.cyc) 25 0 ≠ 0 ∨ o.wait ≠ 0) →
    Runs (.sliceAdmit n) s (fun c =>
      (∃ o', look c.eng.ops n = some o' ∧ o'.next = o.next + max (s.chip.largestSlice o (s.chip.esc.len - s.chip.esc.cyc) 25 0) 1
        ∧ o'.base = o.next ∧ o'.d = o.d ∧ o'.total = o.total)
      ∧ (∀ k, k ≠ n → look c.eng.ops k = look s.chip.eng.ops k) ∧ c.rng = s.chip.rng ∧ c.regs = s.chip.regs ∧ c.out = s.chip.out
      ∧ KeepsSetup s c ∧ KeepsStore s c ∧ KeepsTables s c))
  ∧ (∀ (s : State) (n : Nat) (o : Op), Serves s .seq → look s.chip.eng.ops n = some o → o.seqn < 16 → o.d.opcode ≠ 0x2F →
    s.chip.opIdle o = true →
    Runs (.operatorComplete n) s (fun c =>
      look c.eng.ops n = none ∧ (∀ k, k ≠ n → look c.eng.ops k = look s.chip.eng.ops k) ∧ Completed c (bufSeq o.seqn) o.d (opStatus o).1
      ∧ KeepsSetup s c ∧ KeepsStore s c ∧ KeepsTables s c))
  ∧ (∀ (s : State) (n k t : Nat) (o : Op) (p : Peer) (x : MovTxn), Serves s .mov → look s.chip.eng.ops n = some o → o.peers[k]? = some p →
    p.failed = none →
    s.chip.eng.txns.filter (fun t => t.2.peer == some k && (match (s.chip.unit t.2.unit).run with
      | some y => y.cmd.op == n
      | none => false)) = [(t, x)] →
    s.chip.expired x.beat (s.chip.beatsFor o.d.ctx 0) = true →
    Runs (.peerTimeout n k) s (fun c =>
      (∃ o', look c.eng.ops n = some o' ∧ ∃ q, o'.peers[k]? = some q ∧ q.failed = some .timeout ∧ q.node = p.node) ∧ look c.eng.txns t = none
      ∧ c.rng = s.chip.rng ∧ c.regs = s.chip.regs ∧ c.out = s.chip.out ∧ KeepsSetup s c ∧ KeepsStore s c ∧ KeepsTables s c))

/-- A tile starts from its unit's queue (R191): a mover whose source is host memory has taken it, and a fold engine has run it. A burst of
a mover asks the host for its bytes (R127), and the completion's data is kept for the next burst. It says where these commands complete:
TILE_START, MOVER_BURST, HOST_READ_COMPLETION. -/
def Obligations.TilesMove : Prop :=
  (∀ (s : State) (u w at' : Nat) (cmd : TileCmd) (rest : List TileCmd) (o : Op), Serves s .mov → s.chip.bit rMOV_CTL 0 = true → 32 ≤ u → u < 64 →
    (s.chip.unit u).queue = cmd :: rest → (s.chip.unit u).run = none → look s.chip.eng.ops cmd.op = some o → opPeers o = false →
    (opMove o cmd.tile).src = .host w at' → 0 < (opMove o cmd.tile).len →
    Runs (.tileStart u) s (fun c =>
      c.unit u = { s.chip.unit u with queue := rest, run := some { cmd := cmd, beat := s.chip.esc.bounds } } ∧ (∀ k, k ≠ u → c.unit k = s.chip.unit k)
      ∧ c.eng.ops = s.chip.eng.ops ∧ c.mem = s.chip.mem ∧ KeepsSetup s c ∧ KeepsTables s c))
  ∧ (∀ (s : State) (u : Nat) (cmd : TileCmd) (rest : List TileCmd) (o : Op), Serves s .fld → u < 32 →
    (s.chip.unit u).queue = cmd :: rest → (s.chip.unit u).run = none → look s.chip.eng.ops cmd.op = some o → o.seqn ≠ 16 →
    (((s.chip.wake.epoch (288 + u)).count (144 + (o.d.opcode - 0x20)) 1).fldTile u cmd o).2 ≠ .wait →
    Runs (.tileStart u) s (fun c => (c.unit u).run = none ∧ (∃ l, (c.unit u).queue = rest ++ l) ∧ KeepsSetup s c))
  ∧ (∀ (s : State) (u w at' k addr : Nat) (x : Run) (o : Op) (held : List Held), Serves s .mov → 32 ≤ u → u < 64 →
    (s.chip.unit u).run = some x → x.st = .ready → look s.chip.eng.ops x.cmd.op = some o → opPeers o = false →
    (opMove o x.cmd.tile).src = .host w at' → x.pos < (opMove o x.cmd.tile).len → (s.chip.ring o.d.ring).loc = 0 →
    (s.chip.unit u).next = none → HostOpen s.chip →
    (s.chip.wake.hostAt o w (at' + x.pos) ((opMove o x.cmd.tile).len - x.pos) false).2 = .ok addr k held →
    Runs (.moverBurst (u - 32)) s (fun c =>
      (c.unit u).run = some { x with st := .read, len := k, held := held, beat := s.chip.esc.bounds }
      ∧ Out.hostRead (s.chip.ctx (s.chip.ring o.d.ring).ctx).func (BitVec.ofNat 64 addr) k 0 ∈ c.out
      ∧ KeepsSetup s c ∧ KeepsStore s c ∧ KeepsTables s c))
  ∧ (∀ (s : State) (u w at' : Nat) (x : Run) (o : Op) (data : List Byte), Serves s .mov → 32 ≤ u → u < 64 →
    (s.chip.unit u).run = some x → x.st = .read → s.chip.unitBusy u = false → look s.chip.eng.ops x.cmd.op = some o → opPeers o = false →
    (opMove o x.cmd.tile).src = .host w at' → x.pos + x.len < (opMove o x.cmd.tile).len →
    Runs (.hostReadCompletion (u - 32) true data) s (fun c =>
      (c.unit u).run = some { x with data := x.data ++ data.take x.len, pos := x.pos + x.len, st := .ready, len := 0, held := [] }
      ∧ c.out = s.chip.out ∧ KeepsSetup s c ∧ KeepsStore s c ∧ KeepsTables s c))

/-! ### Fold regions (R165 to R179) -/

/-- A contribution is accepted once: its received bit is set and it is acknowledged with OK; the same again is acknowledged with OK and
adds nothing; one for no armed region is answered with BUSY_RETRY (R171, R172). It says where these commands complete: FOLD_CONTRIB. -/
def Obligations.ContributionsCountOnce : Prop :=
  ∀ (s : State) (link pla : Nat) (m : Msg) (x : ElbE), ServedHere s.chip m pla → m.opcode = 0x10 → s.chip.bit rFLD_CTL 0 = true →
    (s.chip.wake.check (elbLink link) (msgReq m (pla / 4096 * 4096) 4096 rFold false false)).2.1 = .granted x →
    (∀ slot tile, s.chip.foldCase m pla = .accept slot tile →
      Runs (.foldContrib link m) s (fun c =>
        (∃ r, c.region slot = some r ∧ ((lookD r.work tile {}).heard (foldPartOf m)).contains (foldContribOf m) = true)
        ∧ Answered c m 0x22 (fun a => a.status = 0) ∧ c.rng = s.chip.rng ∧ c.mem = s.chip.mem ∧ KeepsSetup s c))
    ∧ (∀ slot r, s.chip.foldCase m pla = .duplicate slot → s.chip.region slot = some r →
      Runs (.foldContrib link m) s (fun c =>
        c.region slot = some { r with dups := r.dups + 1 } ∧ Answered c m 0x22 (fun a => a.status = 0) ∧ c.mem = s.chip.mem ∧ KeepsSetup s c))
    ∧ (s.chip.foldCase m pla = .late →
      Runs (.foldContrib link m) s (fun c =>
        c.eng = s.chip.eng ∧ Answered c m 0x22 (fun a => a.status = 0) ∧ c.mem = s.chip.mem ∧ KeepsSetup s c))
    ∧ (s.chip.foldCase m pla = .notArmed →
      Runs (.foldContrib link m) s (fun c =>
        c.eng = s.chip.eng ∧ Answered c m 0x22 (fun a => a.status = 0x35) ∧ c.mem = s.chip.mem ∧ KeepsSetup s c))

/-- A target tile is read once into its accumulators (R176); a tile with every part is converted and written (R175); a region whose tiles
are finished closes with one completion (R177); at its timeout a region without PARTIAL closes with TIMEOUT (R178). It says where these
commands complete: FOLD_INIT_READ, FOLD_TILE_CONVERT, FOLD_REGION_CLOSE, FOLD_TIMEOUT. -/
def Obligations.RegionsFinish : Prop :=
  (∀ (s : State) (slot tile k : Nat) (r : Region) (st : Status) (x : Option ElbE) (b : List Byte), Serves s .fld →
    s.chip.region slot = some r → r.st = .armed → r.isOpt = false → (lookD r.work tile {}).init = 1 →
    (s.chip.wake.readTiles elbSeq 26 (unitReq r.d.ctx (r.pla + tile * 4096) 4096 (some r.gen) (rRead + rOperate) false)).2 = .got st k x b →
    k = 0 → st ≠ .busyRetry →
    Runs (.foldInitRead slot tile) s (fun c =>
      (∃ r', c.region slot = some r' ∧ (lookD r'.work tile {}).init = (if st.good then 2 else 3) ∧ r'.st = .armed
        ∧ (lookD r'.work tile {}).got = (lookD r.work tile {}).got) ∧ KeepsSetup s c))
  ∧ (∀ (s : State) (slot tile : Nat) (r : Region), Serves s .fld → s.chip.region slot = some r → r.st = .armed → r.isOpt = false →
    r.op = none → r.due (lookD r.work tile {}) = true → (r.reads = true → (lookD r.work tile {}).init = 2) →
    (s.chip.extent r.handle).coh ≠ 1 → (s.chip.extent r.handle).tchk = 0 →
    (s.chip.wake.fldOut ((slot + tile) % 32) r.d r.outFmt (r.pla + tile * 4096)
      (encFrom r.outFmt r.round r.sat r.seed (tile * fmtE r.outFmt) (r.values (lookD r.work tile {})))).2 ≠ 2 →
    Runs (.foldTileConvert slot tile) s (fun c =>
      (∃ r', c.region slot = some r' ∧ (lookD r'.work tile {}).written = true ∧ r'.done = r.done + 1 ∧ r'.st = .armed) ∧ KeepsSetup s c))
  ∧ (∀ (s : State) (slot : Nat) (r : Region), Serves s .fld → s.chip.region slot = some r → r.st = .armed → r.op = none →
    (∀ i, i < r.tiles → r.finished (lookD r.work i {}) = true) → (∀ id ∈ r.mirrors, look s.chip.red.mirrors id = none) →
    Runs (.foldRegionClose slot) s (fun c =>
      (∃ r', c.region slot = some r' ∧ r'.st = .closed ∧ r'.pla = r.pla ∧ r'.tiles = r.tiles ∧ r'.seq = r.seq)
      ∧ c.eng.pages = s.chip.eng.pages - r.pages
      ∧ Completed c (bufFld (s.chip.slot32 r.d)) r.d (if r.late then .timeout else if r.lost.isSome then .dataLost
          else if r.failed.isSome then .checkFail else if r.corrected then .okCorrected else .ok)
      ∧ KeepsSetup s c ∧ KeepsStore s c))
  ∧ (∀ (s : State) (slot : Nat) (r : Region), Serves s .fld → s.chip.region slot = some r → r.st = .armed → r.op = none → r.late = false →
    r.part' = false → s.chip.expired r.beat r.limit = true →
    Runs (.foldTimeout slot) s (fun c =>
      (∃ r', c.region slot = some r' ∧ r'.st = .closed ∧ r'.pla = r.pla ∧ r'.tiles = r.tiles ∧ r'.seq = r.seq)
      ∧ c.eng.pages = s.chip.eng.pages - r.pages ∧ Completed c (bufFld (s.chip.slot32 r.d)) r.d .timeout ∧ KeepsSetup s c ∧ KeepsStore s c))

/-! ### The key-value store (R225 to R254) -/

/-- KV_FORK, KV_DROP, KV_PIN and KV_EVICT run whole and complete with the INFO of their rule (R245 to R250): a created or forked quire is
in use, a dropped one is FREE, a pinned one stays. It says where these commands complete: KV_CREATE, KV_FORK, KV_FORK_PREFIX, KV_PUBLISH,
KV_DROP_QUIRE, KV_DROP_PREFIX, KV_PIN_QUIRE, KV_PIN_PREFIX, KV_EVICT_AGE, KV_EVICT_QUOTA. -/
def Obligations.QuiresAreMadeAndDropped : Prop :=
  ∀ (s : State) (d : Desc) (n : Nat), Serves s .kve → KvReady s.chip d →
    (d.opcode = 0x32 → ((s.chip.wake.kvAlone d).fork d (kvCaller s.chip d)).1.err = none →
      ((s.chip.wake.kvAlone d).fork d (kvCaller s.chip d)).2 = .inr n →
      (kvMode d = 0 → Runs (.kvCreate d) s (fun c =>
        CompletedWith c bufKve d .ok (min n 0xFFFFFF) ∧ kvHandle d 20 ∈ c.kve.quires ∧ c.kve.ops = [] ∧ KeepsSetup s c))
      ∧ (kvMode d = 1 → Runs (.kvFork d) s (fun c =>
        CompletedWith c bufKve d .ok (min n 0xFFFFFF) ∧ kvHandle d 20 ∈ c.kve.quires ∧ c.kve.ops = [] ∧ KeepsSetup s c))
      ∧ (kvMode d = 2 → Runs (.kvForkPrefix d) s (fun c =>
        CompletedWith c bufKve d .ok (min n 0xFFFFFF) ∧ c.kve.ops = []
        ∧ c.mem = ((s.chip.wake.kvAlone d).fork d (kvCaller s.chip d)).1.c.mem ∧ KeepsSetup s c))
      ∧ (kvMode d = 3 → Runs (.kvPublish d) s (fun c =>
        CompletedWith c bufKve d .ok (min n 0xFFFFFF) ∧ c.kve.ops = []
        ∧ c.mem = ((s.chip.wake.kvAlone d).fork d (kvCaller s.chip d)).1.c.mem ∧ KeepsSetup s c)))
    ∧ (d.opcode = 0x33 → ((s.chip.wake.kvAlone d).dropOrPin d (kvCaller s.chip d)).1.err = none →
      ((s.chip.wake.kvAlone d).dropOrPin d (kvCaller s.chip d)).2 = .inr n →
      (kvByKey d = false → Runs (.kvDropQuire d) s (fun c =>
        CompletedWith c bufKve d .ok (min n 0xFFFFFF) ∧ kvHandle d 20 ∉ c.kve.quires ∧ c.kve.ops = [] ∧ KeepsSetup s c))
      ∧ (kvByKey d = true → Runs (.kvDropPrefix d) s (fun c =>
        CompletedWith c bufKve d .ok (min n 0xFFFFFF) ∧ c.kve.ops = []
        ∧ c.mem = ((s.chip.wake.kvAlone d).dropOrPin d (kvCaller s.chip d)).1.c.mem ∧ KeepsSetup s c)))
    ∧ (d.opcode = 0x34 → ((s.chip.wake.kvAlone d).dropOrPin d (kvCaller s.chip d)).1.err = none →
      ((s.chip.wake.kvAlone d).dropOrPin d (kvCaller s.chip d)).2 = .inr n →
      (kvByKey d = false → Runs (.kvPinQuire d) s (fun c =>
        CompletedWith c bufKve d .ok 0 ∧ kvHandle d 20 ∈ c.kve.quires ∧ c.kve.ops = [] ∧ KeepsSetup s c))
      ∧ (kvByKey d = true → Runs (.kvPinPrefix d) s (fun c =>
        CompletedWith c bufKve d .ok 0 ∧ c.kve.quires = s.chip.kve.quires ∧ c.kve.ops = [] ∧ KeepsSetup s c)))
    ∧ (d.opcode = 0x35 → ((s.chip.wake.kvAlone d).evictCmd d (kvCaller s.chip d)).1.err = none →
      ((s.chip.wake.kvAlone d).evictCmd d (kvCaller s.chip d)).2 = .inr n →
      ∀ i ∈ [Instr.kvEvictAge d, .kvEvictQuota d], Runs i s (fun c =>
        CompletedWith c bufKve d .ok (min n 0xFFFFFF) ∧ (∀ h ∈ c.kve.quires, h ∈ s.chip.kve.quires) ∧ c.kve.ops = [] ∧ KeepsSetup s c))
  -- covers: kvEvictAge kvEvictQuota

/-- An append that may start moves its data; its quire is marked with the beat and one more append of it (R240, R242). One for which the
beat has no more admissions waits for the next beat. A gather moves its data out (R244). The commit of an append whose data has been moved
and written (R240 steps 4 and 5): it completes with its quire's new number of tokens and is no longer held; a quire dropped meanwhile ends
it with EXTENT_REVOKED. It says where these commands complete: KV_APPEND, KV_APPEND_ADMIT, KV_GATHER, KV_APPEND_COMMIT. -/
def Obligations.AppendsStartAndCommit : Prop :=
  (∀ (s : State) (d : Desc), Serves s .kve → KvReady s.chip d → d.opcode = 0x30 →
    MayAppend (s.chip.wake.kvTaken d) s.chip.kve.nextId { d := d } →
    Runs (.kvAppend d) s (fun c =>
      (∃ o, look c.kve.ops s.chip.kve.nextId = some o ∧ o.d = d ∧ o.st = .moving ∧ o.quires = [kvHandle d 16]
        ∧ o.beat = s.chip.esc.bounds ∧ o.leaves.length ≤ ((s.chip.wake.kvTaken d).appendRoom s.chip.kve.nextId { d := d } ((s.chip.wake.kvTaken d).appendView d)).need.leaves
        ∧ ∃ p, look c.eng.ops o.op = some p ∧ p.seqn = 16 ∧ p.d = d)
      ∧ c.kve.admitted = (s.chip.wake.kvTaken d).kvAdmitted + 1 ∧ KeepsSetup s c))
  ∧ (∀ (s : State) (d : Desc), Serves s .kve → KvReady s.chip d → d.opcode = 0x30 →
    ((s.chip.wake.kvTaken d).appendView d).k.err = none → ((s.chip.wake.kvTaken d).appendView d).bad = none →
    ((s.chip.wake.kvTaken d).appendView d).q.st = 1 → d.field 32 4 = 0xFFFFFFFF →
    (s.chip.wake.kvTaken d).appendFull ((s.chip.wake.kvTaken d).appendView d) = true →
    Runs (.kvAppend d) s (fun c =>
      look c.kve.ops s.chip.kve.nextId
        = some { d := d, st := .deferred, quires := [kvHandle d 16], wait := s.chip.esc.bounds + 1, counted := true }
      ∧ c.mem = s.chip.mem ∧ c.rng = s.chip.rng ∧ c.eng = s.chip.eng ∧ KeepsSetup s c))
  ∧ (∀ (s : State) (id : Nat) (o : KvOp), Serves s .kve → 2 ≤ s.chip.esc.cyc → s.chip.quiesced = false → s.chip.kve.ops = [(id, o)] →
    s.chip.posted bufKve < 64 → o.st = .deferred → o.d.opcode = 0x30 → o.wait.toNat ≤ s.chip.esc.bounds.toNat → MayAppend s.chip.wake id o →
    Runs .kvAppendAdmit s (fun c =>
      (∃ o', look c.kve.ops id = some o' ∧ o'.d = o.d ∧ o'.st = .moving ∧ o'.quires = [kvHandle o.d 16] ∧ o'.beat = s.chip.esc.bounds)
      ∧ c.kve.admitted = s.chip.kvAdmitted + 1 ∧ KeepsSetup s c))
  ∧ (∀ (s : State) (d : Desc) (k : Kt) (q : Quire), Serves s .kve → KvReady s.chip d → d.opcode = 0x31 →
    Kt.named ⟨s.chip.wake.kvTaken d, none⟩ (kvCaller s.chip d) (kvHandle d 16) (kvGen d 16) = (k, q, none) →
    kvFirst d + kvCount d ≤ q.tokens → kvLayerFirst d + kvLayerCount d ≤ q.layers →
    (s.chip.wake.kvTaken d).kvSpan d 32 (kvLayerCount d * 2 * kvCount d * q.row) (kvDstHost d) true = none →
    ((k.list q (ceilDiv (kvFirst d + kvCount d) q.tpl)).1.putQuire (kvHandle d 16) { q with last := s.chip.esc.beat.toNat }).err = none →
    Runs (.kvGather d) s (fun c =>
      (∃ o, look c.kve.ops s.chip.kve.nextId = some o ∧ o.d = d ∧ o.st = .moving ∧ o.quires = [kvHandle d 16]
        ∧ ∃ p, look c.eng.ops o.op = some p ∧ p.seqn = 16 ∧ p.d = d) ∧ KeepsSetup s c))
  ∧ (∀ (s : State) (id : Nat) (o : KvOp) (p : Op), Serves s .kve → s.chip.kve.ops = [(id, o)] → o.st = .moving → o.d.opcode = 0x30 →
    look s.chip.eng.ops o.op = some p → s.chip.opIdle p = true → (opStatus p).1.good = true →
    let k := Kt.quire ⟨s.chip.wake.commitView o, none⟩ (kvHandle o.d 16)
    ((k.2.st = 1 ∧ k.2.gen = kvGen o.d 16) → (k.1.commit o k.2).err = none →
      Runs (.kvAppendCommit id) s (fun c =>
        CompletedWith c bufKve o.d (opStatus p).1 (min (k.2.tokens + kvTokens o.d) 0xFFFFFF) ∧ c.kve.ops = [] ∧ look c.eng.ops o.op = none
        ∧ c.mem = (k.1.commit o k.2).c.mem ∧ KeepsSetup s c))
    ∧ ((k.2.st ≠ 1 ∨ k.2.gen ≠ kvGen o.d 16) →
      Runs (.kvAppendCommit id) s (fun c =>
        Completed c bufKve o.d .extentRevoked ∧ c.kve.ops = [] ∧ (∀ l ∈ o.leaves, l ∉ c.kve.leaves) ∧ (∀ b ∈ o.blocks, b ∉ c.kve.blocks)
        ∧ KeepsSetup s c)))

/-- KVE_CTL.ENABLE checks the region first (R252): where it is not right, KVE stays disabled and says so; INIT empties the tables, and an
adoption takes the quires of the table; READY comes with the end of the walk. The tile-check table starts in the same way (R218). It says
where these commands complete: KVE_INIT, KVE_ADOPT, KVE_READY, TCHK_INIT, TCHK_ADOPT, TCHK_INIT_DONE. -/
def Obligations.TablesStart : Prop :=
  (∀ (s : State) (who : Who) (val : Word), Reaches s who rKVE_CTL → s.chip.bit rKVE_CTL 0 = false → bitOf val.toNat 0 = true →
    (bitOf val.toNat 1 = true → s.chip.kvRegionOk = true → Runs (.kveInit who val) s (fun c =>
      c.kve.quires = [] ∧ c.kve.leaves = [] ∧ c.kve.blocks = [] ∧ c.kve.prefixes = [] ∧ c.kve.ops = s.chip.kve.ops ∧ KeepsSetup s c))
    ∧ (bitOf val.toNat 1 = false → s.chip.kvRegionOk = true → Runs (.kveAdopt who val) s (fun c =>
      (∀ h ∈ c.kve.quires, h < 2 ^ 20) ∧ (∀ l ∈ c.kve.leaves, l < 2 ^ 23) ∧ c.kve.ops = s.chip.kve.ops ∧ KeepsSetup s c))
    ∧ (s.chip.kvRegionOk = false → ∀ i ∈ [if bitOf val.toNat 1 then Instr.kveInit who val else .kveAdopt who val], Runs i s (fun c =>
      c.bit rKVE_STATUS 1 = true ∧ c.bit rKVE_CTL 0 = false ∧ c.kve = s.chip.kve ∧ KeepsSetup s c ∧ KeepsStore s c ∧ KeepsTables s c)))
  ∧ (∀ s : State, Serves s .kve → s.chip.kve.starting = true → s.chip.bit rKVE_CTL 0 = true →
    Runs .kveReady s (fun c =>
      c.bit rKVE_STATUS 0 = true ∧ c.kve.starting = false ∧ c.kve.quires = s.chip.kve.quires
      ∧ (∀ o, o ≠ rKVE_STATUS → c.word o = s.chip.word o) ∧ c.out = s.chip.out ∧ KeepsSetup s c ∧ KeepsStore s c ∧ KeepsTables s c))
  ∧ (∀ (s : State) (who : Who) (val : Word), Reaches s who rTCHK_CTL → s.chip.bit rTCHK_CTL 0 = false → bitOf val.toNat 0 = true →
    s.chip.regionOk s.chip.tbase s.chip.tgen (s.chip.folioCount * 2112) (fun _ => true) = true →
    (bitOf val.toNat 1 = true → Runs (.tchkInit who val) s (fun c => c.eng.tchkWait = true ∧ KeepsSetup s c))
    ∧ (bitOf val.toNat 1 = false → Runs (.tchkAdopt who val) s (fun c =>
      c.bit rTCHK_CTL 0 = true ∧ c.bit rTCHK_CTL 2 = true ∧ c.bit rTCHK_CTL 3 = false ∧ (∀ o, o ≠ rTCHK_CTL → c.word o = s.chip.word o)
      ∧ c.eng = s.chip.eng ∧ KeepsSetup s c ∧ KeepsStore s c ∧ KeepsTables s c)))
  ∧ (∀ s : State, Serves s .seq → s.chip.eng.tchkWait = true → s.chip.bit rTCHK_CTL 0 = true →
    Runs .tchkInitDone s (fun c =>
      c.bit rTCHK_CTL 2 = true ∧ c.eng.tchkWait = false ∧ (∀ o, o ≠ rTCHK_CTL → c.word o = s.chip.word o)
      ∧ KeepsSetup s c ∧ KeepsStore s c ∧ KeepsTables s c))

/-! ### Coherence (R255 to R278) -/

/-- Coherent requests (R271, R272): while another agent holds the line in M, the home forwards a snoop to it (SNP_SHARED, SNP_OWN) and
grants the requester S or M at once; an UPGRADE without other holders is answered with M. It says where these commands complete:
RD_SHARED, RD_OWN, UPGRADE. -/
def Obligations.HomesGrantLines : Prop :=
  (∀ (s : State) (link pla k : Nat) (m : Msg) (x : ElbE), ServedHere s.chip m pla → CohIdle s.chip →
    (s.chip.wake.check (elbLink link) (msgReq m pla 64 (rRead + rMapCoh) false true)).2.1 = .granted x → x.e.coh = 1 →
    look s.chip.ext.revokes x.handle = none →
    s.chip.agentOk x.c m = true → s.chip.holders (pla / 64) = [(k, true)] → k ≠ x.c.agent →
    Runs (.rdShared link m) s (fun c =>
      (∃ e, c.fent x.c.agent (pla / 64) = some e ∧ e.m = false)
      ∧ (∃ a lat, Out.msg a lat ∈ c.out ∧ a.opcode = 0x50 ∧ a.dest = (s.chip.agent k).node ∧ a.cls = clsFwd)
      ∧ c.fent k (pla / 64) = s.chip.fent k (pla / 64) ∧ c.mem = s.chip.mem ∧ KeepsSetup s c))
  ∧ (∀ (s : State) (link pla k : Nat) (m : Msg) (x : ElbE), ServedHere s.chip m pla → CohIdle s.chip →
    (s.chip.wake.check (elbLink link) (msgReq m pla 64 (rRead + rMapCoh + rWrite) true true)).2.1 = .granted x → x.e.coh = 1 →
    look s.chip.ext.revokes x.handle = none →
    s.chip.agentOk x.c m = true → s.chip.holders (pla / 64) = [(k, true)] → k ≠ x.c.agent →
    Runs (.rdOwn link m) s (fun c =>
      (∃ e, c.fent x.c.agent (pla / 64) = some e ∧ e.m = true)
      ∧ (∃ a lat, Out.msg a lat ∈ c.out ∧ a.opcode = 0x51 ∧ a.dest = (s.chip.agent k).node ∧ a.cls = clsFwd)
      ∧ c.fent k (pla / 64) = s.chip.fent k (pla / 64) ∧ c.mem = s.chip.mem ∧ KeepsSetup s c))
  ∧ (∀ (s : State) (link pla : Nat) (m : Msg) (x : ElbE) (e : FEnt), ServedHere s.chip m pla → CohIdle s.chip →
    (s.chip.wake.check (elbLink link) (msgReq m pla 64 (rRead + rMapCoh + rWrite) true true)).2.1 = .granted x → x.e.coh = 1 →
    look s.chip.ext.revokes x.handle = none →
    s.chip.agentOk x.c m = true → s.chip.holders (pla / 64) = [(x.c.agent, false)] → s.chip.fent x.c.agent (pla / 64) = some e → e.m = false →
    Runs (.upgrade link m) s (fun c =>
      (∃ f, c.fent x.c.agent (pla / 64) = some f ∧ f.m = true) ∧ Answered c m 0x62 (fun a => a.status = 0)
      ∧ c.coh.txns = [] ∧ c.mem = s.chip.mem ∧ KeepsSetup s c))

/-- Notices (R269, R270): EVICT_S and the writebacks of a line that the agent holds take its entry out of the filter and are acknowledged;
the data of WB_DATA is written. It says where these commands complete: EVICT_S, WB_CLEAN, WB_DATA. -/
def Obligations.NoticesGiveLinesUp : Prop :=
  (∀ (s : State) (link pla : Nat) (m : Msg) (x : ElbE) (e : FEnt), ServedHere s.chip m pla → CohIdle s.chip → s.chip.extOpen = true →
    (s.chip.wake.noticeCheck (elbLink link) (msgReq m pla 64 0 false true)).2 = .granted x → x.e.coh = 1 → FromAgent s.chip x m →
    s.chip.fent x.c.agent (pla / 64) = some e → e.m = false →
    Runs (.evictS link m) s (fun c =>
      c.fent x.c.agent (pla / 64) = none ∧ (∀ n, n ≠ x.c.agent → c.part n = s.chip.part n) ∧ Answered c m 0x65 (fun a => a.status = 0)
      ∧ c.mem = s.chip.mem ∧ KeepsSetup s c))
  ∧ (∀ (s : State) (link pla : Nat) (m : Msg) (x : ElbE) (e : FEnt), ServedHere s.chip m pla → CohIdle s.chip → s.chip.extOpen = true →
    (s.chip.wake.noticeCheck (elbLink link) (msgReq m pla 64 rWrite false true)).2 = .granted x → x.e.coh = 1 → FromAgent s.chip x m →
    s.chip.fent x.c.agent (pla / 64) = some e → e.m = true →
    Runs (.wbClean link m) s (fun c =>
      c.fent x.c.agent (pla / 64) = none ∧ (∀ n, n ≠ x.c.agent → c.part n = s.chip.part n) ∧ Answered c m 0x65 (fun a => a.status = 0)
      ∧ c.mem = s.chip.mem ∧ KeepsSetup s c))
  ∧ (∀ (s : State) (link pla : Nat) (m : Msg) (x : ElbE) (e : FEnt), ServedHere s.chip m pla → CohIdle s.chip → s.chip.extOpen = true →
    (s.chip.wake.noticeCheck (elbLink link) (msgReq m pla 64 rWrite false true)).2 = .granted x → x.e.coh = 1 → FromAgent s.chip x m →
    s.chip.fent x.c.agent (pla / 64) = some e → e.m = true → m.data.length = 64 →
    Runs (.wbData link m) s (fun c =>
      c.fent x.c.agent (pla / 64) = none ∧ (∀ n, n ≠ x.c.agent → c.part n = s.chip.part n)
      ∧ (∃ id w, look c.int.writes id = some w ∧ w.who = .wb m ∧ w.tgt = x.target (pla / 64 * 64) ∧ w.status = .ok) ∧ KeepsSetup s c))

/-- A snoop answer frees its slot (R256). After an internal access's SNP_INV the agent no longer holds the line, and after the last answer
the access waits for none; the answer to a BINV of a revoke leaves its extent's count, and its data is discarded where the revoke says so;
the data of the answer to an AGENT_LEAVE's BINV is written (R272 to R274). It says where these commands complete: SNP_ACK, SNP_ACK_DATA. -/
def Obligations.SnoopAnswersEndSnoops : Prop :=
  (∀ (s : State) (link id : Nat) (m : Msg) (p : Snp) (t : CohTxn), Sunk s.chip m → s.chip.held.contains .coh = false →
    s.chip.coh.txns = [(id, t)] → t.who = .none → t.started = true → s.chip.coh.queue = [] → s.chip.coh.front = [] → s.chip.coh.posts = [] →
    look s.chip.coh.snps m.txn.toNat = some p → (s.chip.agent p.agent).node = m.src → p.why = .txn id → p.op = 0x52 → p.crossed = false →
    Runs (.snpAck link m) s (fun c =>
      look c.coh.snps m.txn.toNat = none ∧ c.fent p.agent p.line = none
      ∧ ((∀ e ∈ s.chip.coh.snps, e.2.why = .txn id → e.1 = m.txn.toNat) → c.awaits id = false) ∧ (∀ n, n ≠ p.agent → c.part n = s.chip.part n)
      ∧ c.ext = s.chip.ext ∧ c.mem = s.chip.mem ∧ KeepsSetup s c))
  ∧ (∀ (s : State) (link h : Nat) (m : Msg) (p : Snp), Sunk s.chip m → s.chip.held.contains .coh = false →
    s.chip.coh.txns = [] → s.chip.coh.queue = [] → s.chip.coh.front = [] → s.chip.coh.posts = [] →
    look s.chip.coh.snps m.txn.toNat = some p → (s.chip.agent p.agent).node = m.src → p.why = .revoke h true →
    Runs (.snpAckData link m) s (fun c =>
      look c.coh.snps m.txn.toNat = none ∧ c.inflight h = s.chip.inflight h - 1 ∧ c.int.writes = s.chip.int.writes
      ∧ c.coh.parts = s.chip.coh.parts ∧ c.mem = s.chip.mem ∧ KeepsSetup s c))
  ∧ (∀ (s : State) (link : Nat) (m : Msg) (p : Snp) (t : Target), Sunk s.chip m → s.chip.held.contains .coh = false →
    s.chip.coh.txns = [] → s.chip.coh.queue = [] → s.chip.coh.front = [] → s.chip.coh.posts = [] →
    look s.chip.coh.snps m.txn.toNat = some p → (s.chip.agent p.agent).node = m.src → p.why = .leave → p.crossed = false → s.chip.lineTarget p.line = some t → m.data.length = 64 →
    Runs (.snpAckData link m) s (fun c =>
      look c.coh.snps m.txn.toNat = none ∧ c.coh.agents = s.chip.coh.agents
      ∧ (∃ id w, look c.int.writes id = some w ∧ w.tgt = t ∧ w.status = .ok) ∧ KeepsSetup s c))

/-- Agents join with an empty partition, leave by back-invalidating theirs, and are FREE when the last answer has come; a lost agent's
lines in M hold their extents (R260, R261, R263, R276, R277). It says where these commands complete: AGENT_JOIN, AGENT_LEAVE,
AGENT_LEAVE_DONE, AGENT_LOSS. -/
def Obligations.AgentsJoinAndLeave : Prop :=
  (∀ (s : State) (d : Desc), Serves s .coh → s.chip.unbinding (d.bitsAt 24 0 10) = false → s.chip.bit rCOH_CTL 0 = true →
    s.chip.adminOf d (d.bitsAt 24 0 10) = true → d.zero 16 6 2 = true → d.zero 17 4 4 = true → d.zero 18 7 1 = true → d.zero 19 0 8 = true →
    d.zero 20 24 8 = true → d.zero 24 10 6 = true → d.zero 26 0 304 = true → d.bitsAt 18 0 7 ≠ 0 → d.bitsAt 18 0 7 ≤ 64 →
    2 ^ d.bitsAt 17 0 4 * d.bitsAt 18 0 7 ≤ 32768 → (s.chip.agent (d.bitsAt 16 0 6)).st = .free → s.chip.card = false →
    Runs (.agentJoin d) s (fun c =>
      (c.agent (d.bitsAt 16 0 6)).st = .joined ∧ (c.agent (d.bitsAt 16 0 6)).node = BitVec.ofNat 24 (d.bitsAt 20 0 24)
      ∧ (c.agent (d.bitsAt 16 0 6)).tenant = d.bitsAt 24 0 10 ∧ (c.agent (d.bitsAt 16 0 6)).ways = d.bitsAt 18 0 7
      ∧ (c.agent (d.bitsAt 16 0 6)).setsLog2 = d.bitsAt 17 0 4
      ∧ c.part (d.bitsAt 16 0 6) = [] ∧ (∀ n, n ≠ d.bitsAt 16 0 6 → c.agent n = s.chip.agent n ∧ c.part n = s.chip.part n)
      ∧ Completed c bufCoh d .ok ∧ c.ext = s.chip.ext ∧ KeepsSetup s c ∧ KeepsStore s c))
  ∧ (∀ (s : State) (d : Desc), Serves s .coh → s.chip.bit rCOH_CTL 0 = true → s.chip.adminOf d (s.chip.agent (d.bitsAt 16 0 6)).tenant = true →
    d.zero 16 6 2 = true → d.zero 17 0 376 = true → (s.chip.agent (d.bitsAt 16 0 6)).st = .joined → s.chip.card = false →
    Runs (.agentLeave d) s (fun c =>
      (c.agent (d.bitsAt 16 0 6)).st = .leaving ∧ (c.agent (d.bitsAt 16 0 6)).leave = some d
      ∧ (c.agent (d.bitsAt 16 0 6)).binvs = (s.chip.part (d.bitsAt 16 0 6)).length ∧ c.part (d.bitsAt 16 0 6) = []
      ∧ (∀ n, n ≠ d.bitsAt 16 0 6 → c.agent n = s.chip.agent n ∧ c.part n = s.chip.part n)
      ∧ c.ext = s.chip.ext ∧ c.rng = s.chip.rng ∧ KeepsSetup s c ∧ KeepsStore s c))
  ∧ (∀ (s : State) (n : Nat) (d : Desc), Serves s .coh → (s.chip.agent n).st = .leaving → (∀ p ∈ s.chip.allSnps, p.agent ≠ n) →
    (∀ e ∈ s.chip.coh.txns, e.2.agent ≠ n) → (∀ t ∈ s.chip.coh.front, t.agent ≠ n) → (s.chip.agent n).leave = some d →
    Runs (.agentLeaveDone n) s (fun c =>
      c.agent n = {} ∧ c.part n = [] ∧ CompletedWith c bufCoh d .ok ((s.chip.agent n).binvs % 2 ^ 24)
      ∧ (∀ k, k ≠ n → c.agent k = s.chip.agent k ∧ c.part k = s.chip.part k) ∧ c.ext = s.chip.ext ∧ KeepsSetup s c ∧ KeepsStore s c))
  ∧ (∀ (s : State) (n : Nat) (why : LossCause), Serves s .coh → (s.chip.agent n).st = .joined → s.chip.lossHolds n why = true →
    s.chip.coh.txns = [] → s.chip.coh.queue = [] → s.chip.coh.front = [] → s.chip.coh.posts = [] →
    Runs (.agentLoss n why) s (fun c =>
      (c.agent n).st = .lost ∧ c.part n = [] ∧ (∀ e ∈ c.coh.snps, e.2.agent ≠ n)
      ∧ (∀ e ∈ s.chip.part n, e.m = true → ∀ h, s.chip.handleAt (e.line * 64) = some h → (c.extent h).st ≠ .live)
      ∧ (∀ k, k ≠ n → c.part k = s.chip.part k) ∧ KeepsSetup s c))

/-! ### Links and the router (R284 to R318, R425 to R427) -/

/-- A link trains (R284, R296): CTL.ENABLE leaves DISABLED for DARK, light starts LOCK, block lock on the eight wavelengths starts PARAM
and its two HELLOs, the second HELLO of the peer gives the credits and starts KEY, with the OFFER at once where SEC runs fewer than four
links (R425). Light that returns to a link in training turns its transmitter on again. A probe burst sends light and changes nothing. It
says where these commands complete: LINK_ENABLE, LIGHT_DETECTED, PROBE_BURST, LINK_LOCK_DONE, HELLO. -/
def Obligations.LinksTrain : Prop :=
  (∀ (s : State) (who : Who) (n : Nat) (val : Word), n < 24 → Reaches s who (lnkReg n 0) → s.chip.card = false →
    (bitOf val.toNat 0 = true → s.chip.lnkState n = lsDisabled → Runs (.linkEnable who n val) s (fun c =>
      c.lnkState n = lsDark ∧ c.bit (lnkReg n 0) 0 = true ∧ c.out = s.chip.out ∧ c.links = s.chip.links ∧ OtherLinks s c n ∧ LinksOnly s c))
    ∧ (bitOf val.toNat 0 = false → s.chip.lnkState n = lsDark → Runs (.linkEnable who n val) s (fun c =>
      c.lnkState n = lsDisabled ∧ c.bit (lnkReg n 0) 0 = false ∧ c.out = s.chip.out ∧ c.links = s.chip.links ∧ OtherLinks s c n
      ∧ LinksOnly s c)))
  ∧ (∀ (s : State) (n : Nat), n < 24 → Serves s (.lnk n) → s.chip.bit (lnkReg n 4) 6 = true →
    (s.chip.lnkState n = lsDark → Runs (.lightDetected n) s (fun c =>
      c.lnkState n = lsLock ∧ c.bit (lnkReg n 4) 5 = false ∧ c.out = s.chip.out ++ [.transmitter n true] ∧ c.links = s.chip.links
      ∧ OtherLinks s c n ∧ LinksOnly s c))
    ∧ (s.chip.lnkState n ∈ [lsLock, lsParam, lsKey, lsDelay] → s.chip.bit (lnkReg n 4) 5 = true → Runs (.lightDetected n) s (fun c =>
      c.lnkState n = s.chip.lnkState n ∧ c.bit (lnkReg n 4) 5 = false ∧ c.out = s.chip.out ++ [.transmitter n true]
      ∧ c.links = s.chip.links ∧ OtherLinks s c n ∧ LinksOnly s c)))
  ∧ (∀ (s : State) (n : Nat), n < 24 → Serves s (.lnk n) → s.chip.lnkState n = lsDark → s.chip.bit (lnkReg n 4) 6 = true →
    Runs (.probeBurst n) s (fun c => c = s.chip.wake.emit (.probe n)))
  ∧ (∀ (s : State) (n : Nat) (low : Bool), n < 24 → Serves s (.lnk n) → s.chip.lnkState n = lsLock →
    Runs (.linkLockDone n 255 low) s (fun c =>
      c.lnkState n = lsParam ∧ (c.link n).hellos = [] ∧ c.get (lnkReg n 4) 8 8 = 255
      ∧ (∃ h : HelloFlit, h.node = s.chip.node ∧ h.port = BitVec.ofNat 5 n ∧ h.lightOk = (low && s.chip.bit (lnkReg n 0) 1)
        ∧ h.dedicated = 72 ∧ h.shared = 3232 ∧ c.out = s.chip.out ++ [.hello n h, .hello n h]) ∧ OtherLinks s c n ∧ LinksOnly s c))
  ∧ (∀ (s : State) (n : Nat) (f g : HelloFlit), n < 24 → Serves s (.lnk n) → s.chip.lnkState n = lsParam →
    (s.chip.link n).hellos = [g] → 72 ≤ f.dedicated →
    (s.chip.keyRuns < 4 → s.chip.secServes = true → Runs (.hello n f) s (fun c =>
      HelloTaken s c n f g ∧ (c.link n).begun = true
      ∧ c.out = s.chip.out ++ [.keyOffer n (offerBytes (c.ownOffer n)) (c.bit (lnkReg n 4) 4)]))
    ∧ (4 ≤ s.chip.keyRuns → Runs (.hello n f) s (fun c => HelloTaken s c n f g ∧ (c.link n).begun = false ∧ c.out = s.chip.out)))

/-- The keys of a link (R425, R426): an OFFER whose anchor is fused and not revoked and whose endorsement verifies is answered with an
encapsulation to its key, one that comes before SEC takes the link up is held; a RESPONSE is answered with the FINISH that signs the
transcript; a FINISH that verifies gives the link its keys. An OFFER or a FINISH that does not verify takes the link DOWN. The sixteenth
TIME makes the link ACTIVE, with the least delay measured (R298). It says where these commands complete: KEY_OFFER, KEY_RESPONSE,
KEY_FINISH, TIME. -/
def Obligations.LinksAreKeyed : Prop :=
  (∀ (s : State) (n : Nat) (fr : Frags) (o : Offer), n < 24 → Serves s (.lnk n) → s.chip.lnkState n = lsKey → (s.chip.link n).offer = none →
    s.chip.secServes = true → fragsWhole fr = true →
    let fused := look s.chip.fuses.anchors o.anchor.toNat = some (Config.sha3 (sized 2592 o.anchorPk))
    ((s.chip.link n).begun = true → o.anchor.toNat < 8 → fused → o.anchor.toNat ∉ s.chip.fuses.anchorsRevoked → o.endorsed = true →
      Runs (.keyOffer n fr o) s (fun c =>
        c.lnkState n = lsKey ∧ (c.link n).offer = some o
        ∧ (∃ r, (c.link n).ct = sized 1568 (Config.encapsCt o.ek r) ∧ (c.link n).secret = Config.encapsSecret o.ek r)
        ∧ c.out = s.chip.out ++ [.keyResponse n (c.link n).ct (c.bit (lnkReg n 4) 4)] ∧ (c.link n).keys = (s.chip.link n).keys
        ∧ OtherLinks s c n ∧ LinksOnly s c))
    ∧ ((s.chip.link n).begun = true → (8 ≤ o.anchor.toNat ∨ ¬ fused ∨ o.anchor.toNat ∈ s.chip.fuses.anchorsRevoked ∨ o.endorsed = false) →
      Runs (.keyOffer n fr o) s (fun c => IsDown s c n ∧ LinksOnly s c))
    ∧ ((s.chip.link n).begun = false → Runs (.keyOffer n fr o) s (fun c =>
        c.link n = { s.chip.link n with offer := some o } ∧ c.lnkState n = lsKey ∧ c.out = s.chip.out ∧ OtherLinks s c n ∧ LinksOnly s c)))
  ∧ (∀ (s : State) (n : Nat) (fr : Frags) (ct : List Byte) (secret : BitVec 256), n < 24 → Serves s (.lnk n) → s.chip.lnkState n = lsKey →
    (s.chip.link n).begun = true → (s.chip.link n).offer.isSome = true → (s.chip.link n).resp = none → s.chip.secServes = true →
    fragsWhole fr = true →
    Runs (.keyResponse n fr ct secret) s (fun c =>
      c.lnkState n = lsKey ∧ (c.link n).resp = some (ct, secret)
      ∧ c.out = s.chip.out ++ [.keyFinish n (Config.sign s.chip.fuses.seed (bytesBE 48 (c.transcript n).toNat)) (c.bit (lnkReg n 4) 4)]
      ∧ OtherLinks s c n ∧ LinksOnly s c))
  ∧ (∀ (s : State) (n : Nat) (fr : Frags), n < 24 → Serves s (.lnk n) → s.chip.lnkState n = lsKey → (s.chip.link n).resp.isSome = true →
    s.chip.secServes = true → fragsWhole fr = true →
    Runs (.keyFinish n fr true) s (fun c =>
      c.lnkState n = lsDelay ∧ c.bit (lnkReg n 4) 7 = true ∧ (c.link n).keys.isSome = true ∧ (c.link n).tx = 0 ∧ (c.link n).rx = 0
      ∧ c.out = s.chip.out ++ [.time n s.chip.time16 0 0 (c.bit (lnkReg n 4) 4)] ∧ OtherLinks s c n ∧ LinksOnly s c)
    ∧ Runs (.keyFinish n fr false) s (fun c => IsDown s c n ∧ LinksOnly s c))
  ∧ (∀ (s : State) (n t1 t2 t3 arrival : Nat), n < 24 → Serves s (.lnk n) → s.chip.lnkState n = lsDelay →
    Runs (.time n t1 t2 t3 arrival) s (fun c =>
      (c.link n).delays = (s.chip.link n).delays ++ [(arrival - t2 - t3) / 2]
      ∧ ((s.chip.link n).delays.length < 15 → c.lnkState n = lsDelay
        ∧ c.out = s.chip.out ++ [.time n s.chip.time16 t1 (s.chip.time16 - arrival) (s.chip.bit (lnkReg n 4) 4)])
      ∧ (15 ≤ (s.chip.link n).delays.length → c.lnkState n = lsActive ∧ c.out = s.chip.out
        ∧ (∀ d ∈ (c.link n).delays, d < 2 ^ 24 → c.get (lnkReg n 0xC) 0 24 ≤ d))
      ∧ OtherLinks s c n ∧ LinksOnly s c))

/-- What takes a link out of service (R296, R297, R317): loss of light, of a laser, or a training timeout lets it go DOWN without its
keys; lock on fewer than eight wavelengths leaves it where it is; after the hold time it is DARK again where it is enabled. LINK_CMD.DOWN
(R319): GOING_DOWN falls due once no message is on its way, and with every group acknowledged the link is DOWN, planned. It says where
these commands complete: LOSS_OF_SIGNAL, LASER_LOSS, LASER_OK_SET, LINK_LOCK_DONE, LINK_TRAIN_TIMEOUT, DOWN_HOLD_EXPIRY, LINK_CMD_DOWN. -/
def Obligations.LinksGoDown : Prop :=
  (∀ (s : State) (n : Nat), n < 24 → Serves s (.lnk n) → (s.chip.lnkState n = lsActive ∨ s.chip.lnkState n = lsRetrain) →
    Runs (.lossOfSignal n) s (fun c => IsDown s c n ∧ c.bit (lnkReg n 4) 5 = true ∧ LinksOnly s c))
  ∧ (∀ (s : State) (k : Nat), k < 4 → s.chip.held.contains .rte = false →
    Runs (.laserLoss k) s (fun c =>
      (∀ n ∈ laserLinks k, c.bit (lnkReg n 4) 6 = false
        ∧ c.lnkState n = (if s.chip.lnkState n = lsDisabled then lsDisabled else lsDown)
        ∧ (s.chip.lnkState n ≠ lsDisabled → s.chip.lnkState n ≠ lsDown → (c.link n).keys = none))
      ∧ (∀ n, n < 24 → n ∉ laserLinks k → c.lnkState n = s.chip.lnkState n) ∧ LinksOnly s c))
  ∧ (∀ (s : State) (k : Nat), k < 4 → s.chip.held.contains .rte = false →
    Runs (.laserOkSet k) s (fun c =>
      (∀ n ∈ laserLinks k, c.bit (lnkReg n 4) 6 = true) ∧ (∀ n, n < 24 → c.lnkState n = s.chip.lnkState n) ∧ c.links = s.chip.links
      ∧ c.out = s.chip.out ∧ LinksOnly s c))
  ∧ (∀ (s : State) (n : Nat) (locked : Byte) (low : Bool), n < 24 → Serves s (.lnk n) →
    (s.chip.lnkState n = lsLock ∨ s.chip.lnkState n = lsRetrain) → locked ≠ 255 →
    Runs (.linkLockDone n locked low) s (fun c =>
      c.get (lnkReg n 4) 8 8 = locked.toNat ∧ c.lnkState n = s.chip.lnkState n ∧ c.links = s.chip.links ∧ c.out = s.chip.out
      ∧ OtherLinks s c n ∧ LinksOnly s c))
  ∧ (∀ (s : State) (n : Nat), n < 24 → Serves s (.lnk n) → s.chip.lnkState n ∈ [lsLock, lsParam, lsKey, lsDelay, lsRetrain] →
    Runs (.linkTrainTimeout n) s (fun c => IsDown s c n ∧ LinksOnly s c))
  ∧ (∀ (s : State) (n : Nat), n < 24 → Serves s (.lnk n) → s.chip.lnkState n = lsDown →
    Runs (.downHoldExpiry n) s (fun c =>
      c.lnkState n = (if s.chip.bit (lnkReg n 0) 0 && !s.chip.card then lsDark else lsDisabled) ∧ c.out = s.chip.out ∧ c.links = s.chip.links
      ∧ OtherLinks s c n ∧ LinksOnly s c))
  ∧ (∀ (s : State) (who : Who) (n : Nat), n < 24 → Reaches s who (lnkReg n 0x10) → s.chip.lnkState n = lsActive →
    let l := s.chip.link n
    (l.feed ≠ 0 → Runs (.linkCmdDown who n) s (fun c =>
      c.link n = { l with closing := true } ∧ c.lnkState n = lsActive ∧ c.out = s.chip.out ∧ OtherLinks s c n ∧ LinksOnly s c))
    ∧ (l.feed = 0 → l.said = false → Runs (.linkCmdDown who n) s (fun c =>
      (c.link n).closing = true ∧ (c.link n).said = true ∧ (∃ f t, (c.link n).owed = some (f, t) ∧ f.goingDown = true)
      ∧ (c.link n).keys = l.keys ∧ (c.link n).replay = l.replay ∧ c.lnkState n = lsActive ∧ c.out = s.chip.out
      ∧ OtherLinks s c n ∧ LinksOnly s c))
    ∧ (l.feed = 0 → l.said = true → l.owed = none → l.later = [] → l.replay = [] → Runs (.linkCmdDown who n) s (fun c =>
      IsDown s c n ∧ c.bit (lnkReg n 4) 16 = true ∧ LinksOnly s c)))

/-- Tag groups and retry on an ACTIVE link (R288, R289, R297, R299, R301): the group expected is released and its acknowledgement falls
due, with the next number expected; for another, and for a bad tag, a NAK falls due; the third bad tag of a second takes the link DOWN. An
acknowledgement takes every group up to it out of the replay buffer, and returns credits. The causes of RETRAIN: LINK_CMD, 64 µs without
an acknowledgement, more than 16 bad blocks of a beat under light FEC. It says where these commands complete: TAG, LCTL, REPLAY_TIMEOUT,
UNCORRECTABLE_BLOCK, LIGHT_FEC_FALLBACK, LINK_CMD_RETRAIN. -/
def Obligations.GroupsAreAcknowledged : Prop :=
  (∀ (s : State) (n : Nat) (g : TagIn) (seq : Quad), n < 24 → Serves s (.lnk n) → s.chip.lnkState n = lsActive →
    let l := s.chip.link n
    (seq = l.rx → (∀ p, l.part = some p → p.out = .hold) → Runs (.tag n g seq true) s (fun c =>
      (c.link n).rx = seq + 1 ∧ (c.link n).waiting = false ∧ (c.link n).replay = l.replay ∧ (c.link n).keys = l.keys
      ∧ (∃ f t, (c.link n).owed = some (f, t) ∧ f.ackValid = true ∧ f.ackSeq = seq.setWidth 16)
      ∧ (∀ o ∈ c.out, o ∈ s.chip.out ∨ ∃ m, o = .deliver n m)
      ∧ c.lnkState n = lsActive ∧ OtherLinks s c n ∧ LinksOnly s c))
    ∧ (seq ≠ l.rx → l.waiting = false → Runs (.tag n g seq true) s (fun c =>
      (c.link n).waiting = true ∧ (c.link n).rx = l.rx ∧ (c.link n).replay = l.replay ∧ (c.link n).keys = l.keys ∧ OwesNak c n
      ∧ c.lnkState n = lsActive ∧ c.out = s.chip.out ∧ OtherLinks s c n ∧ LinksOnly s c))
    ∧ (seq ≠ l.rx → l.waiting = true → Runs (.tag n g seq true) s (fun c =>
      c.link n = l ∧ c.lnkState n = lsActive ∧ c.out = s.chip.out ∧ OtherLinks s c n ∧ LinksOnly s c))
    ∧ let fails := (l.fails ++ [s.chip.esc.now]).filter (fun t => s.chip.esc.now < t + 1250000000)
      (fails.length < 3 → (seq = l.rx ∨ l.waiting = false) → Runs (.tag n g seq false) s (fun c =>
        (c.link n).fails = fails ∧ (c.link n).bad = l.bad + 1 ∧ (c.link n).waiting = true ∧ (c.link n).rx = l.rx
        ∧ (c.link n).replay = l.replay ∧ OwesNak c n ∧ c.lnkState n = lsActive ∧ c.out = s.chip.out ∧ OtherLinks s c n ∧ LinksOnly s c))
      ∧ (3 ≤ fails.length → Runs (.tag n g seq false) s (fun c => IsDown s c n ∧ LinksOnly s c)))
  ∧ (∀ (s : State) (n : Nat) (f : LctlFlit) (old rest : List Group) (g : Group), n < 24 → Serves s (.lnk n) → s.chip.lnkState n = lsActive →
    (s.chip.link n).replay = old ++ g :: rest → g.seq.setWidth 16 = f.ackSeq → (∀ x ∈ old, x.seq.setWidth 16 ≠ f.ackSeq) →
    f.ackValid = true → f.nakValid = false → (s.chip.link n).closing = false → (s.chip.link n).later = [] →
    Runs (.lctl n f) s (fun c =>
      (c.link n).replay = rest ∧ (c.link n).ackCyc = s.chip.esc.now ∧ (c.link n).shared = (s.chip.link n).shared + f.shared
      ∧ (∀ v, v < 12 → (c.link n).credit.getD v 0 = (s.chip.link n).credit.getD v 0 + f.credit.getD v 0)
      ∧ (c.link n).peerClosing = ((s.chip.link n).peerClosing || f.goingDown) ∧ c.regs = s.chip.regs ∧ c.out = s.chip.out
      ∧ OtherLinks s c n ∧ LinksOnly s c))
  ∧ (∀ (s : State) (n : Nat), n < 24 → Serves s (.lnk n) → s.chip.lnkState n = lsActive → (s.chip.link n).replay ≠ [] →
    (s.chip.link n).ackCyc + 80000 ≤ s.chip.esc.now →
    Runs (.replayTimeout n) s (fun c =>
      c.lnkState n = lsRetrain ∧ (c.link n).replay = (s.chip.link n).replay ∧ c.out = s.chip.out ∧ OtherLinks s c n ∧ LinksOnly s c))
  ∧ (∀ (s : State) (n : Nat) (seq : Quad), n < 24 → Serves s (.lnk n) → s.chip.lnkState n = lsActive → (s.chip.link n).waiting = false →
    Runs (.uncorrectableBlock n seq) s (fun c =>
      (c.link n).bad = (s.chip.link n).bad + 1 ∧ (c.link n).waiting = true ∧ (c.link n).rx = (s.chip.link n).rx
      ∧ (c.link n).replay = (s.chip.link n).replay ∧ OwesNak c n ∧ c.lnkState n = lsActive ∧ c.out = s.chip.out
      ∧ OtherLinks s c n ∧ LinksOnly s c))
  ∧ (∀ (s : State) (n : Nat), n < 24 → Serves s (.lnk n) → s.chip.lnkState n = lsActive → s.chip.bit (lnkReg n 4) 4 = true →
    16 < (s.chip.link n).bad →
    Runs (.lightFecFallback n) s (fun c =>
      c.lnkState n = lsRetrain ∧ c.bit (lnkReg n 4) 4 = false ∧ (c.link n).standard = true ∧ c.out = s.chip.out
      ∧ OtherLinks s c n ∧ LinksOnly s c))
  ∧ (∀ (s : State) (who : Who) (n : Nat), n < 24 → Reaches s who (lnkReg n 0x10) → s.chip.lnkState n = lsActive →
    Runs (.linkCmdRetrain who n) s (fun c =>
      c.lnkState n = lsRetrain ∧ (c.link n).replay = (s.chip.link n).replay ∧ c.out = s.chip.out ∧ OtherLinks s c n ∧ LinksOnly s c))

/-- The router (R298, R301, R302, R306, R318): a message at the head of an input VC with a productive port that can take it leaves by such
a port on its ADAPT channel, and its buffer space is returned; so does one of the package's own at the head of its injection queue, and
one that no port leads toward is dropped and counted. A partial message that MSG_ABORT names is discarded and its credits fall due; where
it was sent on as it came, its output aborts it too. A write of RTE_CTL.ENABLE with no ACTIVE link makes the card configuration, and
disables every link. It says where these commands complete: MESSAGE_ROUTE, MSG_ABORT, RTE_ENABLE. -/
def Obligations.MessagesAreRouted : Prop :=
  (∀ (s : State) (inp vc : Nat) (m : Transit) (rest : List Transit), inp < 24 → Serves s .rte → s.chip.bit rRTE_CTL 0 = true →
    lookD (s.chip.link inp).vcs vc [] = m :: rest → s.chip.isOwnDest (headDest m.head) = false →
    (∃ p ∈ s.chip.productive (s.chip.targetOf (headDest m.head)), s.chip.canSend p (3 * headCls m.head) (1 + m.data.length) = true) →
    Runs (.messageRoute inp vc) s (fun c =>
      lookD (c.link inp).vcs vc [] = rest ∧ (∀ v, v ≠ vc → lookD (c.link inp).vcs v [] = lookD (s.chip.link inp).vcs v [])
      ∧ (∃ p ∈ s.chip.productive (s.chip.targetOf (headDest m.head)),
        Out.transit p 0 { head := withChan m.head 0, data := m.data } ∈ c.out
        ∧ (s.chip.link p).replay <+: (c.link p).replay ∧ (∀ k, k ≠ p → k ≠ inp → c.link k = s.chip.link k)) ∧ LinksOnly s c))
  ∧ (∀ (s : State) (vc : Nat) (m : Msg) (rest : List Msg), Serves s .rte → s.chip.stopped = false → s.chip.bit rRTE_CTL 0 = true →
    lookD s.chip.inject.q (vc / 3) [] = m :: rest → s.chip.isOwnDest m.dest = false →
    ((∃ p ∈ s.chip.productive (s.chip.targetOf m.dest), s.chip.canSend p (3 * (vc / 3)) (1 + (flitsOfBytes m.data).length) = true) →
      Runs (.messageRoute ownPort vc) s (fun c =>
        lookD c.inject.q (vc / 3) [] = rest
        ∧ (∃ p ∈ s.chip.productive (s.chip.targetOf m.dest),
          Out.transit p 0 { head := withChan (headOf m 0) 0, data := flitsOfBytes m.data } ∈ c.out
          ∧ (s.chip.link p).replay <+: (c.link p).replay ∧ (∀ k, k ≠ p → c.link k = s.chip.link k)) ∧ LinksOnly s c))
    ∧ (s.chip.productive (s.chip.targetOf m.dest) = [] → s.chip.escape (s.chip.targetOf m.dest) ownPort 0 = none →
      Runs (.messageRoute ownPort vc) s (fun c =>
        lookD c.inject.q (vc / 3) [] = rest ∧ (c.word rRTE_DROPS).toNat = satAdd 32 (s.chip.word rRTE_DROPS).toNat 1
        ∧ c.links = s.chip.links ∧ c.out = s.chip.out ∧ LinksOnly s c)))
  ∧ (∀ (s : State) (n vc : Nat) (p : Partial), n < 24 → vc < 12 → Serves s (.lnk n) → s.chip.lnkState n = lsActive →
    (s.chip.link n).part = some p → p.vc = vc →
    (p.out = .hold → (s.chip.link n).owed = none → Runs (.msgAbort n vc) s (fun c =>
      (c.link n).part = none ∧ (c.link n).vcs = (s.chip.link n).vcs
      ∧ (∃ f t, (c.link n).owed = some (f, t) ∧ f.credit.getD vc 0 + f.shared = 1 + p.data.length ∧ f.ackValid = false)
      ∧ c.out = s.chip.out ∧ c.regs = s.chip.regs ∧ OtherLinks s c n ∧ LinksOnly s c))
    ∧ (∀ q chan sh, p.out = .port q chan sh → q ≠ n → (s.chip.link q).later = [] → { s.chip.link q with feed := 0 }.linkRoom = true →
      Runs (.msgAbort n vc) s (fun c =>
        (c.link n).part = none ∧ (c.link q).feed = 0 ∧ Out.abort q (3 * headCls p.head + chan) ∈ c.out ∧ LinksOnly s c)))
  ∧ (∀ (s : State) (who : Who) (val : Word), Reaches s who rRTE_CTL → bitOf val.toNat 0 = true → s.chip.bit rRTE_CTL 0 = false →
    ((∃ n, n < 24 ∧ s.chip.lnkState n = lsActive) → Runs (.rteEnable who val) s (fun c =>
      c.bit rRTE_CTL 0 = true ∧ c.card = s.chip.card ∧ (∀ n, n < 24 → c.lnkState n = s.chip.lnkState n) ∧ c.links = s.chip.links
      ∧ LinksOnly s c))
    ∧ ((∀ n, n < 24 → s.chip.lnkState n ≠ lsActive) → Runs (.rteEnable who val) s (fun c =>
      c.bit rRTE_CTL 0 = true ∧ c.card = true ∧ (∀ n, n < 24 → c.lnkState n = lsDisabled) ∧ c.links = s.chip.links ∧ LinksOnly s c)))

/-! ### Stacks and integrity (R322 to R371) -/

/-- Refresh, RFM, temperature, rows and training of a stack (R330, R339 to R344): a refresh that is due goes to a bank that is free; one
of a busy bank is postponed up to 8, when the next goes first; an RFM holds the bank and counts the activations afresh; above 85 the
refresh rate doubles, below 80 it is single again; a row that nothing has asked of for 67 cycles is closed; a pause that fails is tried
again, and after three retries the stack is FAILED. It says where these commands complete: REFRESH_DUE, RFM_DUE, TEMP_READ,
TRAIN_PAUSE_END, ROW_IDLE_CLOSE. -/
def Obligations.StacksAreMaintained : Prop :=
  (∀ (s : State) (k bank : Nat), k < 20 → Serves s (.stk k) → s.chip.stkState k = stkReady →
    (∀ t, look (s.chip.stkOf k).due bank = some t → t + s.chip.refreshGap k ≤ s.chip.esc.now) →
    let d := lookD (s.chip.stkOf k).debt bank 0
    (s.chip.bankBusy k bank = false → s.chip.holdBarred k bank false = false → Runs (.refreshDue k bank) s (fun c =>
      lookD (c.stkOf k).debt bank 0 = d ∧ look (c.stkOf k).rows bank = none
      ∧ look (c.stkOf k).holds bank = some ⟨s.chip.esc.now + 200, false, false⟩ ∧ (c.stkOf k).acts = (s.chip.stkOf k).acts
      ∧ c.regs = s.chip.regs ∧ OtherStacks s c k ∧ c = { s.chip with stk := c.stk, dbg := c.dbg, pwr := c.pwr }))
    ∧ ((s.chip.bankBusy k bank = true ∨ s.chip.holdBarred k bank false = true) → Runs (.refreshDue k bank) s (fun c =>
      lookD (c.stkOf k).debt bank 0
        = (if d < 7 then d + 1 else if s.chip.holdBarred k bank false then 8 else 7)
      ∧ (c.word (stkReg k 0x10)).toNat = satAdd 32 (s.chip.word (stkReg k 0x10)).toNat 1 ∧ OtherStacks s c k
      ∧ c = { s.chip with regs := c.regs, stk := c.stk, dbg := c.dbg, pwr := c.pwr })))
  ∧ (∀ (s : State) (k bank : Nat), k < 20 → Serves s (.stk k) → s.chip.stkState k = stkReady →
    max 1 (s.chip.stkOf k).rfmAt ≤ lookD (s.chip.stkOf k).acts bank 0 → s.chip.holdBarred k bank true = false →
    Runs (.rfmDue k bank) s (fun c =>
      look (c.stkOf k).acts bank = none ∧ look (c.stkOf k).rows bank = none ∧ (c.stkOf k).debt = (s.chip.stkOf k).debt
      ∧ look (c.stkOf k).holds bank = some ⟨s.chip.esc.now + 200, true, false⟩
      ∧ (c.word (stkReg k 0x1C)).toNat = satAdd 32 (s.chip.word (stkReg k 0x1C)).toNat 1
      ∧ (∀ b, b ≠ bank → look (c.stkOf k).acts b = look (s.chip.stkOf k).acts b) ∧ OtherStacks s c k
      ∧ c = { s.chip with regs := c.regs, stk := c.stk, pwr := c.pwr }))
  ∧ (∀ (s : State) (k temp : Nat), k < 20 →
    (s.chip.stkState k ≠ stkSelf → Runs (.tempRead k temp) s (fun c =>
      c.get (stkReg k 8) 0 8 = min temp 255
      ∧ c.bit (stkReg k 4) 3 = (if 85 < temp then true else if temp < 80 then false else s.chip.bit (stkReg k 4) 3)
      ∧ c.bit (stkReg k 4) 5 = (if 85 < temp then true else if temp < 80 then false else s.chip.bit (stkReg k 4) 5)
      ∧ (∀ o, o ≠ stkReg k 8 → o ≠ stkReg k 4 → c.word o = s.chip.word o) ∧ OtherStacks s c k ∧ c = { s.chip with regs := c.regs }))
    ∧ (s.chip.stkState k = stkSelf → Runs (.tempRead k temp) s (fun c =>
      (c.stkOf k).fast = (if 85 < temp then true else if temp < 80 then false else (s.chip.stkOf k).fast) ∧ OtherStacks s c k
      ∧ c = { s.chip with stk := c.stk })))
  ∧ (∀ (s : State) (k : Nat), k < 20 → Serves s (.stk k) → (s.chip.stkOf k).pause.running = true →
    Runs (.trainPauseEnd k true) s (fun c =>
      (c.stkOf k).pause = ⟨((s.chip.stkOf k).pause.channel + 1) % 32, 0, 0, false⟩ ∧ c.bit (stkReg k 4) 4 = false ∧ OtherStacks s c k
      ∧ c = { s.chip with regs := c.regs, stk := c.stk, pwr := c.pwr })
    ∧ Runs (.trainPauseEnd k false) s (fun c =>
      (c.stkOf k).pause.running = false ∧ c.bit (stkReg k 4) 4 = false
      ∧ ((s.chip.stkOf k).pause.retries < 3 → (c.stkOf k).pause.retries = (s.chip.stkOf k).pause.retries + 1 ∧ c.stkState k = s.chip.stkState k)
      ∧ (3 ≤ (s.chip.stkOf k).pause.retries → c.stackFailed k = true) ∧ OtherStacks s c k
      ∧ c = { s.chip with regs := c.regs, stk := c.stk, int := c.int, pwr := c.pwr }))
  ∧ (∀ (s : State) (k bank : Nat), k < 20 → Serves s (.stk k) → (look (s.chip.stkOf k).rows bank).isSome = true →
    (∀ t, look (s.chip.stkOf k).seen bank = some t → t + 67 ≤ s.chip.esc.now) →
    Runs (.rowIdleClose k bank) s (fun c =>
      look (c.stkOf k).rows bank = none ∧ (∀ b, b ≠ bank → look (c.stkOf k).rows b = look (s.chip.stkOf k).rows b)
      ∧ (bank ∉ (s.chip.stkOf k).predicted → c.reg = s.chip.reg) ∧ OtherStacks s c k
      ∧ c = { s.chip with stk := c.stk, reg := c.reg, dbg := c.dbg, pwr := c.pwr }))

/-- Requests rise in urgency and are promoted (R333, R334): a read that has waited for its level of its port's T, a write in a queue
likewise, with T itself counted; a best-effort request that has waited a beat counts as guaranteed from then on. Stacks enter self-refresh
under an S or C reset with nothing left in their write queues, and leave it READY, or FAILED (R342, R345, R346). It says where these
commands complete: URGENCY_RISE, BEST_EFFORT_PROMOTE, SELF_REFRESH_DONE, STACK_READY. -/
def Obligations.StacksRestAndReturn : Prop :=
  (∀ (s : State) (k port level id : Nat) (r : ReadOp), k < 20 → Serves s (.stk k) → s.chip.aget (rSTK_REG + 16 * port) 0 1 = 0 →
    1 ≤ level → level ≤ 4 → (∀ e ∈ s.chip.int.stripes, e.2.q.port ≠ port) → (∀ w ∈ (s.chip.stkOf k).wq, w.q.port ≠ port) →
    s.chip.int.reads.find? (fun e => e.2.port == port && e.2.guaranteed && e.2.urgency == level - 1
      && s.chip.urgentBy port e.2.start level && e.2.waitsAt k) = some (id, r) → look s.chip.int.reads id = some r →
    Runs (.urgencyRise k port level) s (fun c =>
      look c.int.reads id = some { r with urgency := level } ∧ (∀ j, j ≠ id → look c.int.reads j = look s.chip.int.reads j)
      ∧ (c.word (stkReg k 0x14)).toNat = satAdd 32 (s.chip.word (stkReg k 0x14)).toNat (if level = 4 then 1 else 0)
      ∧ c = { s.chip with regs := c.regs, int := c.int, pwr := c.pwr }))
  ∧ (∀ (s : State) (k port level : Nat) (w : WrEnt), k < 20 → Serves s (.stk k) → s.chip.aget (rSTK_REG + 16 * port) 0 1 = 0 →
    1 ≤ level → level ≤ 4 → (∀ e ∈ s.chip.int.reads, e.2.port ≠ port) → (∀ e ∈ s.chip.int.stripes, e.2.q.port ≠ port) →
    (s.chip.stkOf k).wq.find? (fun w => w.q.port == port && w.q.guaranteed && w.q.urgency == level - 1
      && s.chip.urgentBy port w.q.start level) = some w →
    look s.chip.int.reads w.q.age = none → look s.chip.int.stripes w.q.age = none →
    Runs (.urgencyRise k port level) s (fun c =>
      (c.stkOf k).wq = (s.chip.stkOf k).wq.map (fun x => if x.q.age = w.q.age then { x with q := { x.q with urgency := level } } else x)
      ∧ OtherStacks s c k ∧ c = { s.chip with regs := c.regs, stk := c.stk, pwr := c.pwr }))
  ∧ (∀ (s : State) (id : Nat), Serves s .int →
    (∀ r, look s.chip.int.reads id = some r → r.guaranteed = false → 0 < r.waited → Runs (.bestEffortPromote id) s (fun c =>
      look c.int.reads id = some { r with guaranteed := true, start := s.chip.esc.now }
      ∧ (∀ j, j ≠ id → look c.int.reads j = look s.chip.int.reads j) ∧ c = { s.chip with regs := c.regs, int := c.int, pwr := c.pwr }))
    ∧ (∀ o, look s.chip.int.reads id = none → look s.chip.int.stripes id = some o → o.q.guaranteed = false → 0 < o.q.waited →
      Runs (.bestEffortPromote id) s (fun c =>
        look c.int.stripes id = some { o with q := { o.q with guaranteed := true, start := s.chip.esc.now } }
        ∧ (∀ j, j ≠ id → look c.int.stripes j = look s.chip.int.stripes j) ∧ c = { s.chip with int := c.int, pwr := c.pwr })))
  ∧ (∀ (s : State) (k : Nat), k < 20 → s.chip.selfAsked = true → s.chip.stkState k = stkReady →
    Runs (.selfRefreshDone k) s (fun c =>
      c.stkState k = stkSelf ∧ (c.stkOf k).debt = [] ∧ (c.stkOf k).rows = [] ∧ (c.stkOf k).wq = []
      ∧ (c.stkOf k).acts = (s.chip.stkOf k).acts ∧ (c.stkOf k).fast = s.chip.bit (stkReg k 4) 3
      ∧ (c.stkOf k).trained = ((s.chip.stkOf k).trained && s.chip.rcu.asserted != some .s) ∧ OtherStacks s c k
      ∧ c = { s.chip with regs := c.regs, stk := c.stk, dbg := c.dbg }))
  ∧ (∀ (s : State) (k : Nat), k < 20 → Serves s (.stk k) → s.chip.stkState k ≠ stkReady → s.chip.stkState k ≠ stkFailed →
    s.chip.selfAsked = false →
    Runs (.stackReady k true) s (fun c =>
      c.stkState k = stkReady ∧ (c.stkOf k).debt = [] ∧ (c.stkOf k).trained = true ∧ OtherStacks s c k
      ∧ c = { s.chip with regs := c.regs, stk := c.stk, pwr := c.pwr })
    ∧ Runs (.stackReady k false) s (fun c =>
      c.stackFailed k = true ∧ (s.chip.stackFailed k = false → c.stkState k = stkFailed) ∧ OtherStacks s c k
      ∧ c = { s.chip with regs := c.regs, stk := c.stk, int := c.int, pwr := c.pwr }))

/-- Scrub, zeroing, the table of correctable addresses, the flip and the self-test (R361 to R371): a scrub advances SCRUB_POS by one
stripe and writes only that stripe's lines, none while corrections are off; a zeroed folio is CLEAN, and after its last one the extent is
FREE; the self-test leaves every stored byte 0. It says where these commands complete: SCRUB_STRIPE, INT_SCRUB_NOW, ZERO_FOLIO,
INT_FLIP_ARM, CAT_CLEAR, SELF_TEST. -/
def Obligations.IntegrityWorks : Prop :=
  (∀ s : State, Serves s .int → s.chip.int.scrubNow = none → s.chip.bit rINT_CTL 0 = true → s.chip.int.walkGrant ≠ 0 → s.chip.quiesced = false →
    s.chip.mayAccess 29 = true → s.chip.locked < 2048 → s.chip.stripeHeld (s.chip.word rINT_SCRUB_POS).toNat = false →
    Runs .scrubStripe s (fun c =>
      c.int.walkGrant = s.chip.int.walkGrant - 1
      ∧ (c.word rINT_SCRUB_POS).toNat = (if s.chip.stripeCount ≤ (s.chip.word rINT_SCRUB_POS).toNat + 1 then 0
          else (s.chip.word rINT_SCRUB_POS).toNat + 1)
      ∧ OutsideStripes s c (s.chip.word rINT_SCRUB_POS).toNat 1 ∧ (s.chip.bit rINT_CTL 1 = false → SameMemory s c)
      ∧ c.out = s.chip.out ∧ KeepsSetup s c ∧ KeepsTables s c ∧ KeepsEngines s c))
  ∧ (∀ (s : State) (n : Nat), Serves s .int → s.chip.int.scrubNow = some n → s.chip.mayAccess 29 = true →
    s.chip.locked < 2048 → s.chip.stripeHeld n = false →
    Runs .scrubStripe s (fun c =>
      c.int.scrubNow = none ∧ c.int.walkGrant = s.chip.int.walkGrant ∧ c.word rINT_SCRUB_POS = s.chip.word rINT_SCRUB_POS
      ∧ OutsideStripes s c n 1 ∧ (s.chip.bit rINT_CTL 1 = false → SameMemory s c) ∧ KeepsSetup s c ∧ KeepsTables s c ∧ KeepsEngines s c))
  ∧ (∀ (s : State) (who : Who) (stripe : Word), Reaches s who 0x1000020 → stripe.toNat < s.chip.stripeCount →
    Runs (.intScrubNow who stripe) s (fun c =>
      c = { s.chip with latch := c.latch, dbg := c.dbg, int := { s.chip.int with scrubNow := some stripe.toNat } }))
  ∧ (∀ (s : State) (j : ZeroJob) (rest : List ZeroJob), Serves s .int → s.chip.int.zero = j :: rest → (s.chip.extent j.handle).st = .scrubbing →
    s.chip.folioCost - s.chip.int.paid ≤ s.chip.zeroLeft → s.chip.groupState 0 < 3 → s.chip.groupState 1 < 3 →
    let e := s.chip.extent j.handle
    Runs .zeroFolio s (fun c =>
      c.folio (e.backing + j.next) = .clean ∧ c.int.paid = 0 ∧ (∀ f, f ≠ e.backing + j.next → c.folio f = s.chip.folio f)
      ∧ (j.next + 1 < e.len → c.int.zero = { j with next := j.next + 1 } :: rest ∧ c.ext.dir = s.chip.ext.dir)
      ∧ (e.len ≤ j.next + 1 → c.int.zero = rest ∧ c.extent j.handle = { e with st := .free }
        ∧ ∀ h, h ≠ j.handle → c.extent h = s.chip.extent h)
      ∧ OutsideStripes s c ((e.backing + j.next) * 4096) 4096 ∧ c.ext.ctxs = s.chip.ext.ctxs ∧ c.held = s.chip.held))
  ∧ (∀ (s : State) (who : Who) (val : Word), Reaches s who rINT_FLIP_CTL → bitOf val.toNat 0 = true →
    (s.chip.card = true → Runs (.intFlipArm who val) s (fun c =>
      c.bit rINT_FLIP_CTL 1 = false ∧ (∀ o, o ≠ rINT_FLIP_CTL → c.word o = s.chip.word o)
      ∧ c = { s.chip with regs := c.regs, latch := c.latch, dbg := c.dbg }))
    ∧ (s.chip.card = false → Runs (.intFlipArm who val) s (fun c => c = { s.chip with latch := c.latch, dbg := c.dbg })))
  ∧ (∀ (s : State) (who : Who) (n : Nat), Reaches s who (0x1001000 + 16 * n) →
    Runs (.catClear who n) s (fun c =>
      look c.int.cat n = none ∧ (∀ k, k ≠ n → look c.int.cat k = look s.chip.int.cat k) ∧ c.int.catStamp = s.chip.int.catStamp
      ∧ c = { s.chip with latch := c.latch, dbg := c.dbg, int := c.int }))
  ∧ (∀ (s : State) (failing : List (Nat × Nat)), Serves s .int → s.chip.bit 0x1000040 1 = false →
    (∀ k, k < 20 → s.chip.stkState k = stkReady ∨ s.chip.stkState k = stkFailed) →
    Runs (.selfTest failing) s (fun c =>
      (∀ a, c.mem.byte a = 0 ∧ c.mem.disagrees a = false) ∧ c.bit 0x1000040 1 = true ∧ c.bit rINT_STATUS 0 = true ∧ c.bit rRED_STATUS 0 = true
      ∧ (∀ f, c.folio f = .clean) ∧ (failing ≠ [] → c.bit 0x1000040 2 = true) ∧ KeepsSetup s c ∧ c.ext.dir = s.chip.ext.dir
      ∧ c.ext.ctxs = s.chip.ext.ctxs))

/-! ### Pair groups, journal, restore (R373 to R395) -/

/-- Pair groups (R377 to R382): a group that an extent names keeps its VALID bit; the loss of the partner makes a group SOLO, strikes its
mirror writes and marks their folios dirty; a resync copies every dirty folio of the window, all of them with RESYNC 2, piece by piece as
the beat's grant allows, and after the last acknowledged folio the group is PAIRED. It says where these commands complete:
RED_GROUP_CLEAR, PARTNER_LOSS, MIRROR_RETRY, RESYNC_FOLIO_DONE, RESYNC_ALL, RESYNC_DIRTY. -/
def Obligations.PairsLoseAndResync : Prop :=
  (∀ (s : State) (who : Who) (g : Nat), Reaches s who (groupWord g 0) → s.chip.groupOn g = true →
    ((∀ e ∈ s.chip.usedExts, e.red = true → e.pairGroup ≠ g) → Runs (.redGroupClear who g) s (fun c =>
      c.bit (groupWord g 0) 31 = false ∧ (∀ r ∈ c.red.resyncs, r.group ≠ g) ∧ (∀ o, o ≠ groupWord g 0 → c.word o = s.chip.word o)
      ∧ KeepsSetup s c ∧ KeepsStore s c ∧ KeepsTables s c ∧ KeepsEngines s c))
    ∧ ((∃ e ∈ s.chip.usedExts, e.red = true ∧ e.pairGroup = g) → Runs (.redGroupClear who g) s (fun c =>
      c.bit (groupWord g 0) 31 = true ∧ c.bit rRED_STATUS 5 = true ∧ c = { s.chip with regs := c.regs, latch := c.latch, dbg := c.dbg })))
  ∧ (∀ (s : State) (g : Nat) (why : LossCause), Serves s .red → s.chip.groupOn g = true → s.chip.groupPair g ≠ 1 →
    s.chip.partnerGone g why = true →
    Runs (.partnerLoss g why) s (fun c =>
      c.groupPair g = 1 ∧ (∀ e ∈ c.red.mirrors, e.2.group ≠ g) ∧ (∀ r ∈ c.red.resyncs, r.group ≠ g)
      ∧ (∀ e ∈ s.chip.red.mirrors, e.2.group = g → e.2.line * 64 / 2 ^ 21 ∈ c.red.dirty) ∧ (∀ f ∈ s.chip.red.dirty, f ∈ c.red.dirty)
      ∧ c.ext.dir = s.chip.ext.dir ∧ c.mem = s.chip.mem ∧ KeepsSetup s c))
  ∧ (∀ (s : State) (id t : Nat) (m : Mirror), Serves s .red → look s.chip.red.mirrors id = some m → m.retryAt = some t → t ≤ s.chip.esc.now →
    Runs (.mirrorRetry id) s (fun c =>
      look c.red.mirrors id = some { m with retryAt := none, sent := true }
      ∧ (∀ j, j ≠ id → look c.red.mirrors j = look s.chip.red.mirrors j)
      ∧ c.out = s.chip.out ++ [.msg (s.chip.mirrorMsg id m) 0] ∧ c = { s.chip with red := c.red, pwr := c.pwr, out := c.out, inject := c.inject }))
  ∧ (∀ (s : State) (who : Who) (g : Nat) (all : Bool), Reaches s who (groupWord g 0) → s.chip.groupOn g = true → s.chip.bit rRED_CTL 0 = true →
    Runs (if all then .resyncAll who g else .resyncDirty who g) s (fun c =>
      (all = true → ∀ f, s.chip.inPair g f = true → f ∈ c.red.dirty) ∧ (all = false → c.red.dirty = s.chip.red.dirty)
      ∧ (∀ f ∈ c.red.dirty, s.chip.inPair g f = true → ∃ r ∈ c.red.resyncs, r.group = g ∧ r.folio = f)
      ∧ (∀ f ∈ s.chip.red.dirty, f ∈ c.red.dirty)
      ∧ c.groupPair g = (if c.red.resyncs.any (fun r => r.group == g) then 2 else 0)
      ∧ c.mem = s.chip.mem ∧ c.lcc = s.chip.lcc ∧ c.stk = s.chip.stk ∧ KeepsSetup s c ∧ KeepsTables s c ∧ KeepsEngines s c))
  -- covers: resyncAll resyncDirty
  ∧ (∀ (s : State) (g f : Nat) (r : Resync), Serves s .red → r ∈ s.chip.red.resyncs → r.group = g → r.folio = f → r.next = 512 →
    (∀ id ∈ r.outstanding, look s.chip.red.mirrors id = none) →
    Runs (.resyncFolioDone g f) s (fun c =>
      (∀ x, x ∈ c.red.dirty ↔ x ∈ s.chip.red.dirty ∧ x ≠ f) ∧ (∀ x ∈ c.red.resyncs, x.group = g → x.folio ≠ f)
      ∧ (s.chip.groupPair g = 2 → (∀ x ∈ s.chip.red.resyncs, x.group = g → x.folio = f) → c.groupPair g = 0)
      ∧ c.mem = s.chip.mem ∧ c.lcc = s.chip.lcc ∧ c.stk = s.chip.stk ∧ KeepsSetup s c ∧ KeepsTables s c ∧ KeepsEngines s c))

/-- A rebuilt stripe (R392): its eight data lines stand in the stacks as the partner gave them, no other stripe changes, and the rebuild
goes on with the next. Restore (R388 to R391): after S reset RED is READY, with the contexts of its current header, and no key slot is
BOUND; a takeover asks the partner for both headers; a takeover read that failed says so, one that arrived leaves ELBs empty and RED
READY. It says where these commands complete: REBUILD_STRIPE, TABLE_RESTORE, RESTORE_START, RESTORE_DONE. -/
def Obligations.TablesAndStripesAreRestored : Prop :=
  (∀ (s : State) (h next : Nat) (rest : List (Nat × Nat)) (lines : List (List Byte)), Serves s .int → s.chip.red.rebuilding = (h, next) :: rest →
    s.chip.groupPair (s.chip.extent h).pairGroup ≠ 1 → 640 ≤ s.chip.int.rebuildGrant → lines.length = 8 → (∀ l ∈ lines, l.length = 64) →
    s.chip.red.fetch = some next → s.chip.mayAccess 29 = true → (s.chip.extent h).tchk = 0 → s.chip.groupState (next % 2) < 3 →
    Runs (.rebuildStripe next lines) s (fun c =>
      (s.chip.bit rINT_FLIP_CTL 0 = false → ∀ d, d < 8 → s.chip.stackFailed (placeOf next d).1 = false →
        c.mem.run (stackAddr (placeOf next d)) 64 = lines.getD d [])
      ∧ OutsideStripes s c next 1 ∧ c.int.rebuildGrant = s.chip.int.rebuildGrant - 640
      ∧ c.red.rebuilding = (if next + 1 = ((s.chip.extent h).backing + (s.chip.extent h).len) * 4096 then rest else (h, next + 1) :: rest)
      ∧ KeepsSetup s c ∧ KeepsTables s c ∧ KeepsEngines s c))
  ∧ (∀ s : State, Serves s .red → s.chip.bit rINT_STATUS 0 = true → s.chip.bit rRED_STATUS 0 = false → s.chip.bit rTCHK_CTL 2 = false →
    (∀ h, s.chip.red.header = some h → s.chip.bit rRED_REGION 0 = true → Runs .tableRestore s (fun c =>
      c.bit rRED_STATUS 0 = true ∧ (∀ n, (c.slot n).st = .free ∨ (c.slot n).st = .awaiting)
      ∧ (((s.chip.localTables h).ctxs.map (fun e => e.1)).Nodup → ∀ n, c.ctx n = lookD (s.chip.localTables h).ctxs n (ctxDefault n))
      ∧ c.red.jseq = (s.chip.localRestore h).2
      ∧ c.mem = s.chip.mem ∧ c.held = s.chip.held))
    ∧ (s.chip.red.header = none → Runs .tableRestore s (fun c =>
      c.bit rRED_STATUS 0 = true ∧ c = { s.chip with regs := c.regs, pwr := c.pwr })))
  ∧ (∀ (s : State) (who : Who), Reaches s who 0x1100038 → s.chip.bit rRED_CTL 0 = true → s.chip.get rRED_STATUS 2 2 ≠ 1 →
    Runs (.restoreStart who) s (fun c =>
      c.get rRED_STATUS 2 2 = 1 ∧ (∀ o, o ≠ rRED_STATUS → c.word o = s.chip.word o)
      ∧ (∃ a b : Msg, c.out = s.chip.out ++ [.msg a 0, .msg b 0] ∧ a.opcode = 0x01 ∧ b.opcode = 0x01
        ∧ a.dest = BitVec.ofNat 24 (s.chip.get64 0x1100028) ∧ b.dest = a.dest
        ∧ a.addr = BitVec.ofNat 64 (s.chip.get64 0x1100030 % 2 ^ 48) ∧ b.addr = BitVec.ofNat 64 (s.chip.get64 0x1100030 % 2 ^ 48 + 0x1000))
      ∧ c = { s.chip with regs := c.regs, latch := c.latch, dbg := c.dbg, out := c.out, inject := c.inject,
                          red := { s.chip.red with nextTxn := c.red.nextTxn } }))
  ∧ (∀ s : State, Serves s .red → s.chip.get rRED_STATUS 2 2 = 1 → s.chip.bit rTCHK_CTL 2 = false →
    Runs (.restoreDone none) s (fun c => c.get rRED_STATUS 2 2 = 3 ∧ c = { s.chip with regs := c.regs, pwr := c.pwr })
    ∧ ∀ x : Restored, x.code = s.chip.get 0x0 24 2 → x.imageOk = true → Runs (.restoreDone (some x)) s (fun c =>
      c.get rRED_STATUS 2 2 = 2 ∧ c.bit rRED_STATUS 0 = true ∧ (∀ n, c.elb n = [])
      ∧ (∀ n, (c.slot n).st = .free ∨ (c.slot n).st = .awaiting) ∧ c.mem = s.chip.mem ∧ c.held = s.chip.held))

/-- The active copies (R376). A block acts on the bitwise majority of the three copies; the rewrite of a copy that disagrees makes all
three equal to it, so no value that a block acts on changes; the shadow registers, held once, and everything else stay. It says where
these commands complete: ACTIVE_COPY_REWRITE. -/
def Obligations.ActiveCopiesAreVoted : Prop :=
  (∀ (c : Chip) (off i : Nat) (v : Votes), look c.act off = some v → i < 32 →
    (c.actWord off).getLsbD i = decide (2 ≤ (v.a.getLsbD i).toNat + (v.b.getLsbD i).toNat + (v.d.getLsbD i).toNat))
  ∧ (∀ (s : State) (off : Nat) (v : Votes), s.chip.stopped = false → look s.chip.act off = some v →
    Runs (.activeCopyRewrite off) s (fun c =>
      (∃ w : Word, look c.act off = some ⟨w, w, w⟩ ∧ w = s.chip.actWord off) ∧ (∀ o, c.actWord o = s.chip.actWord o)
      ∧ (∀ o, o ≠ off → look c.act o = look s.chip.act o) ∧ c = { s.chip with act := c.act }))

/-- The journal and the checkpoint (R384 to R387): RED_CTL.ENABLE; an acknowledgement marks its record, and the descriptors whose records
are all acknowledged wait no longer; the header written becomes the current one, and is deferred while BEAT_UNLOCKED is 1. It says where
these commands complete: RED_ENABLE, JOURNAL_ACK, CHECKPOINT_HEADER. -/
def Obligations.JournalAndCheckpoint : Prop :=
  (∀ (s : State) (who : Who) (val : Word), Reaches s who rRED_CTL →
    (bitOf val.toNat 0 = true → Runs (.redEnable who val) s (fun c =>
      c.bit rRED_CTL 0 = true ∧ (∀ o, o ≠ rRED_CTL → c.word o = s.chip.word o)
      ∧ c = { s.chip with regs := c.regs, latch := c.latch, dbg := c.dbg }))
    ∧ (bitOf val.toNat 0 = false → Runs (.redEnable who val) s (fun c =>
      c.bit rRED_CTL 0 = false ∧ c.journalOn = false ∧ c.red.header = none ∧ c.red.ckpt = none ∧ c.red.journal = s.chip.red.journal
      ∧ c.red.mirrors = s.chip.red.mirrors ∧ c = { s.chip with regs := c.regs, latch := c.latch, dbg := c.dbg, red := c.red })))
  ∧ (∀ (s : State) (q : Quad) (partner : Bool), Serves s .red → (partner = true ∨ s.chip.red.owed = 0) →
    Runs (.journalAck q partner) s (fun c =>
      c.red.journal = s.chip.red.journal.map (fun r => if r.jseq = q then
          { r with copied := r.copied || partner, stored := r.stored || !partner } else r)
      ∧ (∀ w, w ∈ c.red.jwaits ↔ w ∈ s.chip.red.jwaits ∧ ∃ r ∈ c.red.journal, r.open' = true ∧ r.jseq ∈ w.recs)
      ∧ KeepsSetup s c ∧ KeepsStore s c ∧ KeepsTables s c ∧ KeepsEngines s c))
  ∧ (∀ (s : State) (h : Header), Serves s .red → s.chip.red.ckpt = some h → s.chip.red.ckptTxns = [] → s.chip.red.owed = 0 →
    (s.chip.esc.lock.unlockedFlag = false → s.chip.get 0x20010 0 3 = 0 → Runs .checkpointHeader s (fun c =>
      c.red.header = some h ∧ c.red.ckpt = none ∧ c.bit rRED_STATUS 1 = true ∧ c.get64 0x1100040 = h.beat.toNat
      ∧ (∀ r, r ∈ c.red.journal ↔ r ∈ s.chip.red.journal ∧ (h.jseq.toNat ≤ r.jseq.toNat ∨ r.open' = true))
      ∧ KeepsSetup s c ∧ KeepsStore s c ∧ KeepsTables s c ∧ KeepsEngines s c))
    ∧ (s.chip.esc.lock.unlockedFlag = true → Runs .checkpointHeader s (fun c =>
      c.red.header = s.chip.red.header ∧ c.red.ckpt = some h ∧ c.red.deferred = true ∧ c.out = s.chip.out
      ∧ (c.word rRED_CKPT_DEFERRED).toNat = satAdd 32 (s.chip.word rRED_CKPT_DEFERRED).toNat (if s.chip.red.deferred then 0 else 1)
      ∧ KeepsSetup s c ∧ KeepsStore s c ∧ KeepsTables s c ∧ KeepsEngines s c)))

/-! ### Security (R398 to R435, R481, R482, R487 to R490) -/

/-- Signed commands (R402, R429 to R433): one that verifies has its effect, its COUNTER is the last accepted and M4 is extended; one that
does not verify is answered with RIGHTS_FAULT and changes nothing that SEC holds. It says where these commands complete: FW_STAGE,
FW_CANCEL, SVN_ADVANCE, MGMT_KEY_SET, ANCHOR_SET, DEBUG_UNLOCK. -/
def Obligations.SignedCommandsAct : Prop :=
  (∀ (s : State) (x : SignedCmd) (slot : Nat) (img : Image), SignedOk s.chip x false → s.chip.inhibit = false → slot < 2 →
    slot ≠ s.chip.activeSlot → s.chip.slotValid slot = true → s.chip.imageOk img = true → s.chip.fuses.therm ≤ img.svn →
    Runs (.fwStage x slot img) s (fun c =>
      Accepted s c x ∧ HasRecord c slot s.chip.activeSlot 1 ∧ c.sec.staged = some (img.whole, slot) ∧ c.bit rSEC_STATUS 3 = true
      ∧ c.fuses = s.chip.fuses ∧ c.slots = s.chip.slots ∧ c.keys = s.chip.keys))
  ∧ (∀ (s : State) (x : SignedCmd), SignedOk s.chip x false → s.chip.inhibit = false →
    Runs (.fwCancel x) s (fun c =>
      Accepted s c x ∧ HasRecord c s.chip.activeSlot (1 - s.chip.activeSlot) 0 ∧ c.sec.staged = none ∧ c.bit rSEC_STATUS 3 = false
      ∧ c.fuses = s.chip.fuses ∧ c.slots = s.chip.slots ∧ c.keys = s.chip.keys)
    ∧ Runs (.svnAdvance x) s (fun c =>
      Accepted s c x ∧ c.fuses = { s.chip.fuses with therm := max s.chip.fuses.therm (min 64 (s.chip.get rSEC_FW 16 16)) }
      ∧ c.flash = s.chip.flash ∧ c.slots = s.chip.slots ∧ c.keys = s.chip.keys))
  ∧ (∀ (s : State) (x : SignedCmd) (slot : Nat), SignedOk s.chip x true → s.chip.inhibit = false → slot < 4 →
    (∀ h : BitVec 384, look s.chip.fuses.mgmt slot = none → Runs (.mgmtKeySet x slot (.program h)) s (fun c =>
      Accepted s c x ∧ look c.fuses.mgmt slot = some h ∧ (∀ k, k ≠ slot → look c.fuses.mgmt k = look s.chip.fuses.mgmt k)
      ∧ c.fuses = { s.chip.fuses with mgmt := c.fuses.mgmt } ∧ c.flash = s.chip.flash))
    ∧ Runs (.mgmtKeySet x slot .revoke) s (fun c =>
      Accepted s c x ∧ (∀ k, k ∈ c.fuses.mgmtRevoked ↔ k ∈ s.chip.fuses.mgmtRevoked ∨ k = slot)
      ∧ c.fuses = { s.chip.fuses with mgmtRevoked := c.fuses.mgmtRevoked } ∧ c.flash = s.chip.flash))
  ∧ (∀ (s : State) (x : SignedCmd) (slot : Nat), SignedOk s.chip x false → s.chip.inhibit = false → 0 < slot → slot < 8 →
    (∀ h : BitVec 384, look s.chip.fuses.anchors slot = none → Runs (.anchorSet x slot (.program h)) s (fun c =>
      Accepted s c x ∧ look c.fuses.anchors slot = some h ∧ (∀ k, k ≠ slot → look c.fuses.anchors k = look s.chip.fuses.anchors k)
      ∧ c.fuses = { s.chip.fuses with anchors := c.fuses.anchors } ∧ c.flash = s.chip.flash))
    ∧ Runs (.anchorSet x slot .revoke) s (fun c =>
      Accepted s c x ∧ (∀ k, k ∈ c.fuses.anchorsRevoked ↔ k ∈ s.chip.fuses.anchorsRevoked ∨ k = slot)
      ∧ c.fuses = { s.chip.fuses with anchorsRevoked := c.fuses.anchorsRevoked } ∧ c.flash = s.chip.flash))
  ∧ (∀ (s : State) (x : SignedCmd), SignedOk s.chip x false →
    Runs (.debugUnlock x 0) s (fun c =>
      Accepted s c x ∧ c.bit 0x50000 0 = true ∧ c.bit 0x50000 1 = s.chip.bit 0x50000 1 ∧ c.keys = s.chip.keys ∧ c.slots = s.chip.slots
      ∧ c.fuses = s.chip.fuses ∧ c.flash = s.chip.flash)
    ∧ (s.chip.fuses.debugLocked = false → Runs (.debugUnlock x 1) s (fun c =>
      Accepted s c x ∧ c.bit 0x50000 1 = true ∧ c.bit rSEC_STATUS 5 = true ∧ Zeroised c
      ∧ (∀ n, n < 24 → c.lnkState n = lsDisabled ∨ c.lnkState n = lsDown) ∧ c.fuses = s.chip.fuses ∧ c.flash = s.chip.flash)))
  ∧ (∀ (s : State) (x : SignedCmd) (slot level : Nat) (img : Image) (k : KeySet), s.chip.held.contains .sec = false →
    (x.eth.isSome = true → s.chip.held.contains .mgt = false ∧ s.chip.recovery = false) → (x.eth = none → s.chip.mboxBusy = false) →
    s.chip.secError = false → s.chip.secReady = true → x.lenOk = true → x.rsvd = false → (x.keyIndex.toNat < 4 ∨ x.keyIndex.toNat = 255) →
    ∀ p ∈ [(false, Instr.fwStage x slot img), (false, .fwCancel x), (false, .svnAdvance x), (true, .mgmtKeySet x slot k),
        (false, .anchorSet x slot k), (false, .debugUnlock x level)],
      s.chip.verifies x p.1 = false →
      Runs p.2 s (fun c =>
        Replied c x .rightsFault ∧ c.sec = s.chip.sec ∧ c.fuses = s.chip.fuses ∧ c.flash = s.chip.flash ∧ c.keys = s.chip.keys
        ∧ c.slots = s.chip.slots ∧ c.bit 0x50000 0 = s.chip.bit 0x50000 0))

/-- Tenants are bound and unbound (R414 to R420). A blob that every check lets pass binds its slot and holds its data key; a FREE slot's
bind gives the tenant its admin context. An unbind revokes the tenant's LIVE and HELD extents, then aborts its rings, then retires its
slot and clears its contexts, and when its last extent is FREE its slot is FREE and its key gone. It says where these commands complete:
TENANT_BIND, TENANT_UNBIND, UNBIND_RINGS_ABORT, UNBIND_RETIRE, UNBIND_COMPLETE. -/
def Obligations.TenantsBindAndUnbind : Prop :=
  (∀ (s : State) (d : Desc) (b : BindBlob) (o : BindSealed), Serves s .sec → SecFree s.chip d → s.chip.secStep1 true = none →
    (s.chip.caller d).mgmt = true → tbBad d = false → b.opened = some o →
    let r := s.chip.turn.poolRead elbSeq 27 (secReq d 24 1712 false)
    let w := r.1.wouldAdmit elbSeq (secReq d 32 32 true)
    let p := w.1.poolWrite elbSeq 27 (secReq d 32 32 true) (bytesBE 32 o.confirm.toNat)
    (∃ st n x l, r.2 = .got st n x l ∧ st.good = true) → w.2.1 = none → w.1.bindFails d b = none →
    (∃ st n x l, p.2 = .got st n x l ∧ st.good = true) →
    Runs (.tenantBind d b) s (fun c =>
      c.slot (tbSlot d) = { st := .bound, tenant := tbTenant d, kcv := kcvOf o.dataKey } ∧ lookD c.keys (tbSlot d) 0 = o.dataKey
      ∧ (∀ n, n ≠ tbSlot d → c.slot n = p.1.slot n)
      ∧ ((p.1.slot (tbSlot d)).st = .free → c.ctx o.adminId.toNat
          = { CtxE.ofBits o.adminEntry.toNat with valid := true, admin := true, mgmt := false, tenant := tbTenant d })
      ∧ ((∀ x ∈ c.red.journal, x.open' = false) → Completed c bufSec d .ok)
      ∧ c.mem = p.1.mem ∧ c.held = s.chip.held ∧ c.fuses = s.chip.fuses ∧ c.flash = s.chip.flash))
  ∧ (∀ (s : State) (d : Desc), Serves s .sec → SecFree s.chip d → s.chip.secStep1 false = none →
    ((s.chip.caller d).mgmt = true ∨ ((s.chip.caller d).admin = true ∧ (s.chip.caller d).tenant = tbTenant d)) →
    tbTenant d ≠ 0 → d.zero 16 10 6 = true → d.zero 18 0 368 = true → s.chip.unbinding (tbTenant d) = false →
    (s.chip.turn.nothingLeft (tbTenant d) = false → s.chip.journalFull = false → Runs (.tenantUnbind d) s (fun c =>
      look c.unbinds (tbTenant d) = some { descs := [d] } ∧ (∀ t, t ≠ tbTenant d → look c.unbinds t = look s.chip.unbinds t)
      ∧ (∀ h ∈ s.chip.tenantHandles (tbTenant d), ((s.chip.extent h).st = .live ∨ (s.chip.extent h).st = .held) →
          (c.extent h).st = .draining ∧ (c.extent h).gen = (s.chip.extent h).gen + 1)
      ∧ c.held = s.chip.held ∧ c.slots = s.chip.slots ∧ c.keys = s.chip.keys))
    ∧ (s.chip.turn.nothingLeft (tbTenant d) = true → Runs (.tenantUnbind d) s (fun c =>
      Completed c bufSec d .ok ∧ c.unbinds = s.chip.unbinds ∧ c.ext = s.chip.ext ∧ c.mem = s.chip.mem ∧ c.slots = s.chip.slots)))
  ∧ (∀ (s : State) (t : Nat) (u : Unbind), Serves s .rng → look s.chip.unbinds t = some u → u.aborted = false →
    (∀ h ∈ s.chip.tenantHandles t, ∀ rv, look s.chip.ext.revokes h = some rv → rv.point = true) →
    Runs (.unbindRingsAbort t) s (fun c =>
      look c.unbinds t = some { u with aborted := true }
      ∧ (∀ r ∈ s.chip.tenantRings t, (∀ d ∈ u.descs, d.ring ≠ r) → (c.ring r).st = .aborting)
      ∧ c.held = s.chip.held ∧ c.slots = s.chip.slots ∧ c.keys = s.chip.keys))
  ∧ (∀ (s : State) (t : Nat) (u : Unbind), Serves s .ext → t ≠ 0 → look s.chip.unbinds t = some u → u.aborted = true → u.retired = false →
    (∀ h ∈ s.chip.tenantHandles t, (s.chip.extent h).st ≠ .draining) → (∀ r ∈ s.chip.tenantRings t, ∃ d ∈ u.descs, d.ring = r) →
    Runs (.unbindRetire t) s (fun c =>
      look c.unbinds t = some { u with retired := true } ∧ (∀ n, s.chip.slotOf t = some n → (c.slot n).st = .retiring)
      ∧ (∀ n, (c.ctx n).valid = true → (c.ctx n).tenant ≠ t) ∧ c.held = s.chip.held ∧ c.keys = s.chip.keys ∧ c.fuses = s.chip.fuses))
  ∧ (∀ (s : State) (t : Nat) (u : Unbind), Serves s .rng → look s.chip.unbinds t = some u → u.retired = true → s.chip.tenantHandles t = [] →
    Runs (.unbindComplete t) s (fun c =>
      look c.unbinds t = none ∧ (∀ n, s.chip.slotOf t = some n → (c.slot n).st = .free ∧ look c.keys n = none)
      ∧ ((∀ x ∈ c.red.journal, x.open' = false) → ∀ d ∈ u.descs, Completed c bufSec d .ok)
      ∧ c.held = s.chip.held ∧ c.ext = s.chip.ext ∧ c.mem = s.chip.mem))

/-- SEC at work: attestation, content keys, the DRBG and the self-tests, boot and its digests, IDE and DOE (R398, R401 to R406, R421 to
R424, R428, R435, R481, R482, R487, R490). It says where these commands complete: ATTEST, CONTENT_KEY_LOAD, ENTROPY_HEALTH_FAIL,
DRBG_RESEED, SEC_SELF_TEST, ROM_BOOT, SEQ_DIGEST_CHECK, BOOT_RECORD_WRITE, IDE_SESSION_OPEN, IDE_KM, IDE_STREAM_INSECURE, DOE_DISCOVERY. -/
def Obligations.SecServes : Prop :=
  (∀ (s : State) (via : Transport) (tenant : Nat) (valid : Bool) (nonce : BitVec 256) (fn : Nat), s.chip.held.contains .sec = false →
    s.chip.secError = false → s.chip.recovery = false →
    let held := { s.chip.sec with attests := s.chip.sec.attests ++ [⟨via, tenant, valid, nonce⟩] }
    let busy (us : Nat) := Out.report via .busyRetry us (bytesLE 1 Status.busyRetry.code ++ zeros 3 ++ bytesLE 4 us)
    (s.chip.secReady = true → s.chip.sec.attests.length < 4 → via = .mailbox → s.chip.mboxBusy = false →
      Runs (.attest via tenant valid nonce) s (fun c =>
        c.mboxBusy = true ∧ (∀ o, o ≠ rSEC_MBOX_CTL → c.word o = s.chip.word o) ∧ c = { s.chip with regs := c.regs, sec := held }))
    ∧ (s.chip.secReady = true → s.chip.sec.attests.length < 4 → via = .doe fn →
      Runs (.attest via tenant valid nonce) s (fun c => c = s.chip.setSec held))
    ∧ (∀ id : Word, s.chip.secReady = true → via = .ethernet id → (s.chip.sec.attests.any (fun x => ethVia x.via) = false →
        s.chip.sec.attests.length < 4 → Runs (.attest via tenant valid nonce) s (fun c => c = s.chip.setSec held))
      ∧ (s.chip.sec.attests.any (fun x => ethVia x.via) = true → s.chip.held.contains .mgt = false →
        Runs (.attest via tenant valid nonce) s (fun c => (∃ us, c.out = s.chip.out ++ [busy us]) ∧ c.sec = s.chip.sec)))
    ∧ (s.chip.secReady = true → s.chip.sec.attests.length = 4 → via = .doe fn → s.chip.held.contains .pci = false →
      Runs (.attest via tenant valid nonce) s (fun c => c = s.chip.emit (busy 2000)))
    ∧ (s.chip.secReady = false → via = .doe fn → s.chip.held.contains .pci = false →
      Runs (.attest via tenant valid nonce) s (fun c => c = s.chip.emit (busy 50000))))
  ∧ (∀ (c : Chip) (r : AttestReq) (rest : List AttestReq) (fn : Nat), c.sec.attests = r :: rest → r.via = .doe fn →
    c.held.contains .sec = false → c.held.contains .pci = false → c.secError = false → c.recovery = false → c.secReady = true →
    ∃ t k : Chip, step ⟨c, []⟩ = .next ⟨t, []⟩ ∧ t.sec.attests = rest ∧ k.fuses = c.fuses ∧ k.sec.m = c.sec.m ∧ k.esc.beat = c.esc.beat
      ∧ Out.report r.via .ok 0 (bytesLE 1 0 ++ zeros 3 ++ bytesLE 4 0 ++ k.report' r.tenant r.valid r.nonce) ∈ t.out)
  ∧ (∀ (s : State) (d : Desc) (e : Envelope) (x : Option ElbE) (slot : Nat), Serves s .sec → SecFree s.chip d → s.chip.secStep1 true = none →
    ckBad d e = false →
    (∃ st n x l, (s.chip.ckHeader d e).2 = .got st n x l ∧ st.good = true) → (s.chip.ckSource d e).2.1 = none → (s.chip.ckDest d e).2.1 = none →
    (s.chip.ckDest d e).2.2 = x → (s.chip.ckDest d e).1.slotOf ((s.chip.ckDest d e).1.caller d).tenant = some slot →
    ((s.chip.ckDest d e).1.slot slot).st = .bound → (∃ y, x = some y ∧ y.e.keyValid = true ∧ y.e.keySlot = slot) → e.names = true →
    e.unwraps = true → (s.chip.ckLoaded d e).2.2 = .stops → ckTiles d ≤ (s.chip.ckLoaded d e).2.1 →
    Runs (.contentKeyLoad d e) s (fun c =>
      CompletedWith c bufSec d .ok ((s.chip.ckLoaded d e).2.1 % 2 ^ 24) ∧ c.mem = (s.chip.ckLoaded d e).1.mem ∧ c.keys = s.chip.keys ∧ c.held = s.chip.held))
  ∧ (∀ s : State, s.chip.held.contains .sec = false →
    Runs .entropyHealthFail s (fun c =>
      c.sec.entropyFails = s.chip.sec.entropyFails + 1 ∧ c.sec.draws = (if s.chip.sec.entropyFails = 1 then 0 else s.chip.sec.draws)
      ∧ (2 ≤ s.chip.sec.entropyFails → s.chip.secError = false → c.secError = true ∧ c.sec.testsOk = false)
      ∧ (s.chip.sec.entropyFails < 2 → c = s.chip.setSec c.sec))
    ∧ (2 ^ 24 ≤ s.chip.sec.draws → Runs .drbgReseed s (fun c => c = s.chip.setSec { s.chip.sec with draws := 0, entropyFails := 0 }))
    ∧ (s.chip.sec.testsOk = false → s.chip.secError = false →
      Runs (.secSelfTest true) s (fun c =>
        c.sec = { s.chip.sec with testsOk := true } ∧ (s.chip.bootState = 2 → c.secReady = true) ∧ c = { s.chip with regs := c.regs, sec := c.sec })
      ∧ Runs (.secSelfTest false) s (fun c => c.secError = true ∧ c.sec = s.chip.sec ∧ KeepsSetup s c)))
  ∧ (∀ (s : State) (a b : Image) (r : BootRec) (isA : Bool), s.chip.held.contains .sec = false → s.chip.bootState = 0 →
    s.chip.flash.current = some (r, isA) → r.active < 2 → r.prev < 2 →
    let first := if r.st = 1 ∧ s.chip.bit rMGT_BOOT 0 = true then r.prev else r.active
    let img (k : Nat) : Image := if k = 0 then a else b
    (s.chip.boots (img first) = true → Runs (.romBoot a b) s (fun c =>
      c.activeSlot = first ∧ c.bootState = 2 ∧ (∀ x, x ∈ c.held ↔ x ∈ s.chip.held ∧ ((x ≠ .mgt ∧ x ≠ .seq ∧ ∀ n, x ≠ .lnk n) ∨ x.domain ∈ s.chip.rcu.lost))
      ∧ (s.chip.sec.m.length = 6 → ∀ p ∈ [(1, (img first).first), (2, (img first).mgt), (3, (img first).seq)],
          c.sec.m.getD p.1 0 = Config.sha3 (bytesBE 48 (s.chip.sec.m.getD p.1 0).toNat ++ bytesBE 48 p.2.toNat))
      ∧ (s.chip.sec.testsOk = true → c.secReady = true) ∧ c.fuses = s.chip.fuses))
    ∧ (s.chip.boots (img first) = false → s.chip.boots (img (1 - first)) = false → Runs (.romBoot a b) s (fun c =>
      c.bootState = 3 ∧ c.recovery = true ∧ (∀ x, x ∈ c.held ↔ x ∈ s.chip.held ∧ (x ≠ .mgt ∨ 46 ∈ s.chip.rcu.lost))
      ∧ c.fuses = s.chip.fuses)))
  ∧ (∀ (s : State) (mgt : Bool) (digest : BitVec 384), s.chip.held.contains .sec = false → s.chip.held.contains (if mgt then .mgt else .seq) = true →
    s.chip.bootState = 2 → s.chip.rcu.asserted = none → s.chip.pwr.retain = false →
    let good := digest = (if mgt then s.chip.sec.mgtDigest else s.chip.sec.seqDigest)
    (good → Runs (.seqDigestCheck mgt digest) s (fun c =>
      (∀ x, x ∈ c.held ↔ x ∈ s.chip.held ∧ (x ≠ (if mgt then .mgt else .seq) ∨ x.domain ∈ s.chip.rcu.lost))
      ∧ c = { s.chip with regs := c.regs, held := c.held }))
    ∧ (¬ good → Runs (.seqDigestCheck mgt digest) s (fun c => c = { s.chip with regs := c.regs, int := c.int })))
  ∧ (∀ (s : State) (link : Word), s.chip.bootState = 2 → s.chip.held.contains .mgt = false → s.chip.sec.confirmed = false →
    s.chip.inhibit = false →
    Runs (.bootRecordWrite link) s (fun c =>
      HasRecord c s.chip.activeSlot (1 - s.chip.activeSlot) (if s.chip.flash.bootedPrev then 2 else 0) ∧ c.bit rMGT_BOOT 0 = false
      ∧ (47 ∉ s.chip.rcu.lost → c.get rMGT_STATUS 4 2 = if s.chip.bit 0x14 1 then 2 else 1)
      ∧ (s.chip.stays .pci = false → c.word 0x1400004 = link &&& 0x7FF)
      ∧ (∀ x, x ∈ c.held ↔ x ∈ s.chip.held ∧ (x ≠ .pci ∨ s.chip.stays .pci = true))
      ∧ c = { s.chip with regs := c.regs, held := c.held, flash := c.flash, out := c.out, sec := { s.chip.sec with confirmed := true } }))
  ∧ (∀ (s : State) (ct : List Byte) (secret : BitVec 256), s.chip.held.contains .sec = false → s.chip.held.contains .pci = false →
    s.chip.secReady = true → s.chip.secError = false →
    Runs (.ideSessionOpen ct secret) s (fun c =>
      c.sec.session.isSome = true ∧ c.sec.streams = s.chip.sec.streams ∧ c = s.chip.setSec { s.chip.sec with session := c.sec.session }))
  ∧ (∀ (s : State) (n : Nat) (key : BitVec 256), s.chip.held.contains .sec = false → s.chip.held.contains .pci = false → n < 5 →
    s.chip.sec.session.isSome = true → s.chip.secError = false → s.chip.hostWait = [] →
    Runs (.ideKm n key) s (fun c =>
      look c.sec.streams n = some key ∧ c.ideOk (some n) = true ∧ (∀ k, k ≠ n → look c.sec.streams k = look s.chip.sec.streams k)
      ∧ c = s.chip.setSec { s.chip.sec with streams := c.sec.streams }))
  ∧ (∀ (s : State) (n : Nat), (look s.chip.sec.streams n).isSome = true → s.chip.held.contains .pci = false →
    Runs (.ideStreamInsecure n) s (fun c =>
      look c.sec.streams n = none ∧ c.ideOk (some n) = false ∧ c.bit rPCI_EVT 6 = true
      ∧ (∀ k, k ≠ n → look c.sec.streams k = look s.chip.sec.streams k) ∧ c.mem = s.chip.mem ∧ KeepsSetup s c))
  ∧ (∀ (s : State) (fn : Nat), fn < 256 → s.chip.held.contains .pci = false →
    Runs (.doeDiscovery fn) s (fun c => c = s.chip.emit (.doe fn (if fn = 0 then [0, 1, 2] else [0, 1]))))

/-! ### Resets, clocks, power (R437 to R458) -/

/-- The sources of reset (R437 to R443, R450, R451): each sets its cause bit and enters its level; the ninth reset of a second is a storm,
held in S reset; the loss of a clock resets what it drives. It says where these commands complete: POWER_ON_RESET, PERST, RST_SYS_N,
VDD_CORE_LOW, TAMPER, WATCHDOG_EXPIRY, RCU_CMD_SYSTEM, RST_CORE_N, RCU_CMD_CORE, RCU_WDT_KICK, CLOCK_LOSS. -/
def Obligations.ResetsAreEntered : Prop :=
  (∀ s : State, Runs .powerOnReset s (fun c =>
    c.rcu.asserted = some .p ∧ c.held = allBlks ∧ Out.thermtripN true ∈ c.out ∧ Out.ibi ∈ c.out ∧ (∀ o, c.word o = resetWord o) ∧ c.esc.beat = 0 ∧ c.ext = Chip.reset.ext
    ∧ (∀ a, c.mem.byte a = 0) ∧ c.slots = [] ∧ c.keys = [] ∧ c.links = [] ∧ c.fuses = s.chip.fuses ∧ c.flash.recA = s.chip.flash.recA
    ∧ c.flash.recB = s.chip.flash.recB ∧ c.flash.pages = s.chip.flash.pages))
  ∧ (∀ s : State,
    (s.chip.get 0x10000 0 2 = 2 → s.chip.absorbs .s = false → Runs .perst s (fun c => EntersS s c 1))
    ∧ (s.chip.get 0x10000 0 2 = 1 → s.chip.absorbs .c = false → s.chip.recentResets.length < 8 → Runs .perst s (fun c => EntersC s c 1 [.pci]))
    ∧ (s.chip.get 0x10000 0 2 ≠ 1 → s.chip.get 0x10000 0 2 ≠ 2 → Runs .perst s (fun c =>
      (∀ b, b ∈ c.held ↔ b ∈ s.chip.held ∨ b = .pci) ∧ c.bit 0x10008 1 = true ∧ c.rcu = { s.chip.rcu with perst := true } ∧ c.pci.pba = []
      ∧ c.sec.streams = [] ∧ c.sec.session = none ∧ c.hostWait = [] ∧ c.mem = s.chip.mem ∧ c.ext.dir = s.chip.ext.dir
      ∧ c.ext.ctxs = s.chip.ext.ctxs ∧ c.slots = s.chip.slots ∧ c.keys = s.chip.keys
      ∧ (PortIdle s.chip → c.rng = s.chip.rng ∧ c.eng = s.chip.eng ∧ c.ext = s.chip.ext ∧ c.stk = s.chip.stk))))
  ∧ (∀ (s : State) (who : Who) (sensor : TamperSensor), s.chip.absorbs .s = false →
    Runs .rstSysN s (fun c => EntersS s c 2) ∧ Runs .vddCoreLow s (fun c => EntersS s c 9)
    ∧ ((sensor = .voltage false → s.chip.rcu.sysPin = false) → Runs (.tamper sensor) s (fun c => EntersS s c 6 ∧ c.scrubKey = 0))
    ∧ (s.chip.bit 0x10040 0 = true → s.chip.rcu.kick + s.chip.get 0x10040 16 16 * 1250000 ≤ s.chip.esc.now →
      Runs .watchdogExpiry s (fun c => EntersS s c 5))
    ∧ ((who = .pf0 ∨ who = .mgt) → Reaches s who 0x10004 → Runs (.rcuCmdSystem who 0xA5C3) s (fun c => EntersS s c 4)))
  ∧ (∀ (s : State) (who : Who), s.chip.absorbs .c = false →
    (s.chip.recentResets.length < 8 →
      Runs .rstCoreN s (fun c => EntersC s c 3 [] ∧ c.stk = s.chip.stk)
      ∧ ((who = .pf0 ∨ who = .mgt) → Reaches s who 0x10004 → Runs (.rcuCmdCore who 0xA5C3) s (fun c => EntersC s c 4 [] ∧ c.stk = s.chip.stk)))
    ∧ (8 ≤ s.chip.recentResets.length → Runs .rstCoreN s (fun c => EntersS s c 3 ∧ c.bit 0x10010 0 = true)))
  ∧ (∀ (s : State) (who : Who), (who = .pf0 ∨ who = .mgt) → Reaches s who 0x10044 →
    Runs (.rcuWdtKick who) s (fun c =>
      c = { s.chip with latch := c.latch, dbg := c.dbg, rcu := { s.chip.rcu with kick := s.chip.esc.now } }))
  ∧ (∀ s : State, s.chip.rcu.sysPin = true → Runs (.tamper (.voltage false)) s (fun c => c = s.chip))
  ∧ (∀ s : State, 0 ∉ s.chip.rcu.lost → s.chip.absorbs .c = false → s.chip.recentResets.length < 8 →
    Runs (.clockLoss 0) s (fun c => EntersC s c 8 [] ∧ c.stk = s.chip.stk ∧ 0 ∈ c.rcu.lost))
  ∧ (∀ s : State, 51 ∉ s.chip.rcu.lost → s.chip.absorbs .s = false →
    Runs (.clockLoss 51) s (fun c => EntersS s c 8 ∧ c.rcu.refLost = true))
  ∧ (∀ (s : State) (k : Nat), k < 20 → 1 + k ∉ s.chip.rcu.lost →
    Runs (.clockLoss (1 + k)) s (fun c =>
      c.stackFailed k = true ∧ (∀ b, b ∈ c.held ↔ b ∈ s.chip.held ∨ b = .stk k) ∧ c.rcu.lost = s.chip.rcu.lost ++ [1 + k]
      ∧ c.bit 0x10020 (1 + k) = false ∧ c.mem = s.chip.mem ∧ c.ext = s.chip.ext))
  ∧ (∀ (s : State) (n : Nat), n < 24 → 21 + n ∉ s.chip.rcu.lost →
    Runs (.clockLoss (21 + n)) s (fun c =>
      (c.lnkState n = lsDown ∨ c.lnkState n = lsDisabled) ∧ (∀ b, b ∈ c.held ↔ b ∈ s.chip.held ∨ b = .lnk n)
      ∧ c.rcu.lost = s.chip.rcu.lost ++ [21 + n] ∧ c.mem = s.chip.mem ∧ c.ext = s.chip.ext))

/-- The levels of reset (R443): S reset takes over from a C reset that is under way; C reset during S or P and their release, and S during
P, are absorbed, and the source's bit is still set; RST_SYS_N during P holds P reset (R513); P reset overrides everything. It says where
these commands complete: RST_SYS_N, VDD_CORE_LOW, RST_CORE_N, POWER_ON_RESET. -/
def Obligations.HigherLevelsTakeOver : Prop :=
  (∀ s : State, (s.chip.rcu.asserted = some .c ∨ s.chip.rcu.asserted = none) → s.chip.rcu.releasing ≠ some .p →
    s.chip.bit 0x10014 1 = false →
    Runs .rstSysN s (fun c => EntersS s c 2) ∧ Runs .vddCoreLow s (fun c => EntersS s c 9))
  ∧ (∀ s : State, (s.chip.rcu.asserted = some .p ∨ s.chip.rcu.releasing = some .p) →
    Runs .vddCoreLow s (fun c =>
      c.bit 0x10008 9 = true ∧ (∀ n, n ≠ 9 → c.bit 0x10008 n = s.chip.bit 0x10008 n) ∧ (∀ o, o ≠ 0x10008 → c.word o = s.chip.word o)
      ∧ c = { s.chip with regs := c.regs }))
  ∧ (∀ s : State, (s.chip.rcu.asserted = some .s ∨ s.chip.rcu.asserted = some .p ∨ s.chip.rcu.releasing = some .p ∨ s.chip.rcu.fusing = true) →
    Runs .rstCoreN s (fun c =>
      c.bit 0x10008 3 = true ∧ (∀ n, n ≠ 3 → c.bit 0x10008 n = s.chip.bit 0x10008 n) ∧ (∀ o, o ≠ 0x10008 → c.word o = s.chip.word o)
      ∧ c = { s.chip with regs := c.regs }))
  ∧ (∀ s : State, s.chip.rcu.asserted = some .s →
    Runs .rstSysN s (fun c =>
      c.bit 0x10008 2 = true ∧ (∀ n, n ≠ 2 → c.bit 0x10008 n = s.chip.bit 0x10008 n) ∧ (∀ o, o ≠ 0x10008 → c.word o = s.chip.word o)
      ∧ c = { s.chip with regs := c.regs, rcu := { s.chip.rcu with sysPin := true } }))
  ∧ (∀ s : State, s.chip.rcu.asserted = some .p →
    Runs .rstSysN s (fun c => c = s.chip.setRcu { s.chip.rcu with sysPin := true }))
  ∧ (∀ s : State, Runs .powerOnReset s (fun c =>
      c.rcu.asserted = some .p ∧ c.rcu.releasing = none ∧ c.held = allBlks ∧ (∀ o, c.word o = resetWord o)))

/-- The release of resets (R445 to R447, R450): P and S go on with the fuses, C releases the core but SEQ; a storm leaves MGT and DBG
alone; a verified fuse load shows the part and releases all but SEQ, MGT, PCI and the links; the third failed one is the fuse-fault state.
It says where these commands complete: RESET_RELEASE, FUSE_LOAD, STORM_CLEAR, CLOCK_GOOD. -/
def Obligations.ResetsAreReleased : Prop :=
  (∀ (s : State) (link : Word), s.chip.rcu.asserted = some .p →
    Runs (.resetRelease link) s (fun c =>
      c = s.chip.setRcu { s.chip.rcu with asserted := none, releasing := some .p, fusing := true, sysPin := false, perst := false }))
  ∧ (∀ (s : State) (link : Word), s.chip.rcu.asserted = some .s → (∀ k, k < 20 → s.chip.stkState k ≠ stkReady) → s.chip.rcu.refLost = false →
    (s.chip.bit 0x10010 0 = false → Runs (.resetRelease link) s (fun c =>
      c = s.chip.setRcu { s.chip.rcu with asserted := none, releasing := some .s, fusing := true, sysPin := false, perst := false }))
    ∧ (s.chip.bit 0x10010 0 = true → Runs (.resetRelease link) s (fun c =>
      c.recovery = true ∧ (∀ b, b ∈ c.held ↔ b ∈ s.chip.held ∧ ((b ≠ .mgt ∧ b ≠ .dbg) ∨ b.domain ∈ s.chip.rcu.lost))
      ∧ c = { s.chip with regs := c.regs, held := c.held, rcu := { s.chip.rcu with sysPin := false, perst := false } })))
  ∧ (∀ (s : State) (link : Word), s.chip.rcu.asserted = none → s.chip.held.contains .pci = true → s.chip.sec.confirmed = true →
    s.chip.pwr.retain = false → 45 ∉ s.chip.rcu.lost →
    Runs (.resetRelease link) s (fun c =>
      (∀ b, b ∈ c.held ↔ b ∈ s.chip.held ∧ b ≠ .pci) ∧ c.word 0x1400004 = link &&& 0x7FF ∧ (∀ o, o ≠ 0x1400004 → c.word o = s.chip.word o)
      ∧ c = { s.chip with regs := c.regs, held := c.held, rcu := { s.chip.rcu with perst := false } }))
  ∧ (∀ (s : State) (link : Word), s.chip.rcu.asserted = some .c → (∀ k, k < 20 → s.chip.stkState k ≠ stkReady) → 0 ∉ s.chip.rcu.lost →
    s.chip.held.contains .pci = false →
    Runs (.resetRelease link) s (fun c =>
      c.rcu.asserted = none
      ∧ (∀ b, b ∈ c.held ↔ b ∈ s.chip.held ∧ ¬(b ∈ coreBlks ∧ b ≠ .seq ∧ b.domain ∉ s.chip.rcu.lost))
      ∧ (s.chip.ext.revokes = [] → c.ext.dir = s.chip.ext.dir ∧ c.mem = s.chip.mem) ∧ c.slots = s.chip.slots ∧ c.keys = s.chip.keys))
  ∧ (∀ (s : State) (ok : Bool), s.chip.rcu.fusing = true → s.chip.rcu.asserted = none → s.chip.bit 0x10014 1 = false →
    (ok = true → Runs (.fuseLoad ok) s (fun c =>
      c.bit 0x10014 0 = true ∧ c.get 0x10014 2 2 = 0 ∧ c.rcu.fusing = false ∧ c.get 0x10 0 20 = (if s.chip.fuses.code = 0 then 786432 else 524288)
      ∧ c.get64 0x8 = s.chip.fuses.serial.toNat
      ∧ (∀ b, b ∈ c.held ↔ b ∈ s.chip.held ∧ (b = .seq ∨ b = .mgt ∨ b = .pci ∨ (∃ n, b = .lnk n) ∨ b.domain ∈ s.chip.rcu.lost))
      ∧ (∀ k, k < 20 → 1 + k ∉ s.chip.rcu.lost → s.chip.stkState k ≠ stkFailed → c.stkState k = 1)
      ∧ c.mem = s.chip.mem ∧ c.ext = s.chip.ext ∧ c.fuses = s.chip.fuses))
    ∧ (ok = false → s.chip.get 0x10014 2 2 < 2 → Runs (.fuseLoad ok) s (fun c =>
      c.get 0x10014 2 2 = s.chip.get 0x10014 2 2 + 1 ∧ c = { s.chip with regs := c.regs }))
    ∧ (ok = false → s.chip.get 0x10014 2 2 = 2 → Runs (.fuseLoad ok) s (fun c =>
      c.bit 0x10014 1 = true ∧ c.recovery = true ∧ c.rcu.fusing = false
      ∧ (∀ b, b ∈ c.held ↔ b ∈ s.chip.held ∧ ((b ≠ .mgt ∧ b ≠ .dbg) ∨ b.domain ∈ s.chip.rcu.lost))
      ∧ c = { s.chip with regs := c.regs, held := c.held, rcu := c.rcu })))
  ∧ (∀ (s : State) (i3c : Bool), s.chip.bit 0x10010 0 = true → s.chip.rcu.asserted = some .s → s.chip.rcu.refLost = false →
    Runs (.stormClear i3c) s (fun c =>
      c.bit 0x10010 0 = false ∧ c.rcu = { s.chip.rcu with asserted := none, releasing := some .s, fusing := true }
      ∧ (∀ b, b ∈ c.held ↔ b ∈ s.chip.held ∨ b = .mgt) ∧ c.recovery = false
      ∧ c = { s.chip with regs := c.regs, held := c.held, rcu := c.rcu, latch := c.latch }))
  ∧ (∀ (s : State) (d : Nat), d < 52 → d ∈ s.chip.rcu.lost →
    Runs (.clockGood d) s (fun c =>
      (∀ x, x ∈ c.rcu.lost ↔ x ∈ s.chip.rcu.lost ∧ x ≠ d) ∧ c.bit (if d < 32 then 0x10020 else 0x10024) (d % 32) = true
      ∧ (s.chip.rcu.asserted = none → s.chip.rcu.fusing = false →
          (d = 48 → .sec ∉ c.held)
          ∧ (s.chip.pwr.retain = false →
            (1 ≤ d → d ≤ 20 → .stk (d - 1) ∉ c.held) ∧ (21 ≤ d → d ≤ 44 → s.chip.bootState = 2 → .lnk (d - 21) ∉ c.held)
            ∧ (d = 45 → s.chip.sec.confirmed = true → s.chip.rcu.perst = false → .pci ∉ c.held)
            ∧ (d = 46 → s.chip.bootState = 2 ∨ s.chip.bootState = 3 → .mgt ∉ c.held) ∧ (d = 50 → .dbg ∉ c.held)))
      ∧ (∀ b : Blk, b.domain ≠ d → (b ∈ c.held ↔ b ∈ s.chip.held))
      ∧ c = { s.chip with regs := c.regs, held := c.held, rcu := c.rcu }))

/-- Power states, supplies and temperature (R452 to R457): IDLE where there is no work, QUIESCE and RUN wait for a boundary, RETAIN is
refused with its first reason or entered with the stored bytes and the keys kept; a supply trip sets INHIBIT until its end; the thermal
level follows the temperatures. It says where these commands complete: IDLE_ENTRY, PWR_RUN, PWR_QUIESCE, PWR_RETAIN, QUIESCE_REACHED,
RETAIN_WAKE, SUPPLY_TRIP, INHIBIT_CLEAR, THERMAL_SAMPLE. -/
def Obligations.PowerStatesChange : Prop :=
  (∀ s : State, s.chip.stopped = false → s.chip.noWork = true → s.chip.quiesced = false → s.chip.pwr.retain = false →
    s.chip.held.contains .rng = false →
    Runs .idleEntry s (fun c => c.pwrState = 1 ∧ c = s.chip.setPwr { s.chip.pwr with idle := true }))
  ∧ (∀ (s : State) (who : Who), Reaches s who 0x20004 →
    Runs (.pwrRun who) s (fun c =>
      c = { s.chip with latch := c.latch, dbg := c.dbg, pwr := { s.chip.pwr with cmd := some (0, s.chip.esc.now) } })
    ∧ Runs (.pwrQuiesce who) s (fun c =>
      c = { s.chip with latch := c.latch, dbg := c.dbg, pwr := { s.chip.pwr with cmd := some (2, s.chip.esc.now) } })
    ∧ (∀ pciIdle : Bool, s.chip.pwr.retain = false →
      (s.chip.retainRefusal pciIdle ≠ 0 → Runs (.pwrRetain who pciIdle) s (fun c =>
        c.get 0x20000 4 3 = s.chip.retainRefusal pciIdle ∧ c = { s.chip with regs := c.regs, latch := c.latch, dbg := c.dbg }))
      ∧ (s.chip.retainRefusal pciIdle = 0 → Runs (.pwrRetain who pciIdle) s (fun c =>
        c.pwrState = 3 ∧ (∀ b ∈ coreBlks, b ∈ c.held) ∧ .mgt ∈ c.held ∧ .pci ∈ c.held ∧ .dbg ∈ c.held ∧ c.ext.dir = s.chip.ext.dir ∧ c.ext.ctxs = s.chip.ext.ctxs
        ∧ c.slots = s.chip.slots ∧ c.keys = s.chip.keys ∧ c.mem = s.chip.mem ∧ c.stk = s.chip.stk ∧ c.rng.rings = []))))
  ∧ (∀ s : State, s.chip.quiesced = true → s.chip.unitsIdle = true →
    Runs .quiesceReached s (fun c => c = s.chip.setPwr { s.chip.pwr with reached := true }))
  ∧ (∀ s : State, s.chip.pwr.retain = true → (∀ k, k < 20 → s.chip.stkState k ≠ stkReady) → s.chip.ext.revokes = [] →
    Runs .retainWake s (fun c =>
      c.pwr = { s.chip.pwr with retain := false, reached := true }
      ∧ (∀ b, b ∈ c.held ↔ b ∈ s.chip.held ∧ ¬((b ∈ coreBlks ∧ b ≠ .seq ∨ b = .rte ∨ b = .pci ∨ b = .dbg ∨ ∃ n, b = .lnk n)
          ∧ s.chip.stays b = false))
      ∧ c.ext.dir = s.chip.ext.dir ∧ c.slots = s.chip.slots ∧ c.keys = s.chip.keys ∧ c.mem = s.chip.mem))
  ∧ (∀ (s : State) (r : Rail),
    Runs (.supplyTrip r) s (fun c =>
      c.bit 0x20010 (railBit r) = true ∧ c.inhibit = true ∧ c.bit 0x20010 8 = true ∧ Out.ibi ∈ c.out
      ∧ (c.word 0x20014).toNat = satAdd 32 (s.chip.word 0x20014).toNat 1
      ∧ (∀ o, s.chip.flash.op = some o → c.flash.op = (if o.erase then some o else none)) ∧ c.mem = s.chip.mem ∧ c.ext = s.chip.ext))
  ∧ (∀ s : State, Runs .inhibitClear s (fun c =>
      c.inhibit = false ∧ c.get 0x20010 0 3 = 0 ∧ c.bit 0x20010 8 = s.chip.bit 0x20010 8
      ∧ (s.chip.red.deferred = false ∨ s.chip.held.contains .red = true → c = { s.chip with regs := c.regs })))
  ∧ (∀ (s : State) (t : Nat), nextLevel (s.chip.get 0x20020 0 2) t s.chip.hottest < 3 →
    Runs (.thermalSample t) s (fun c =>
      c.get 0x20020 0 2 = nextLevel (s.chip.get 0x20020 0 2) t s.chip.hottest ∧ c.get 0x20020 8 8 = min t 255
      ∧ c.held = s.chip.held ∧ c.mem = s.chip.mem ∧ c.ext = s.chip.ext ∧ c.rcu = s.chip.rcu))
  ∧ (∀ (s : State) (t : Nat), s.chip.get 0x20020 0 2 < 3 → 125 ≤ t → s.chip.absorbs .s = false →
    Runs (.thermalSample t) s (fun c => EntersS s c 6 ∧ Out.thermtripN false ∈ c.out))

/-! ### Observation and management (R461 to R473, R483 to R486, R502) -/

/-- The global stop and the trace (R468 to R472): a stop sets STOPPED with its cause and holds every block's state, and every table stays;
RESUME lets them go on; a capture starts empty, takes entries and the trigger, and spills whole tiles. It says where these commands
complete: DBG_STOP, GSTOP_N_FALL, JTAG_STOP, DBG_RESUME, SCAN_OUT, TRC_ARM, TRC_FORCE_TRIG, TRACE_ENTRY, TRACE_SPILL. -/
def Obligations.StopsAndTrace : Prop :=
  (∀ (s : State) (who : Who), s.chip.dbgLevel ≠ 0 → s.chip.stopped = false →
    (Reaches s who 0x50010 → Runs (.dbgStop who) s (fun c =>
      c.stopped = true ∧ c.get 0x50010 12 4 = 1 ∧ c = { s.chip with regs := c.regs, latch := c.latch, dbg := c.dbg, out := c.out }))
    ∧ (s.chip.bit 0x50010 3 = true → Runs .gstopNFall s (fun c =>
      c.stopped = true ∧ c.get 0x50010 12 4 = 4 ∧ c = { s.chip with regs := c.regs, out := c.out }))
    ∧ Runs .jtagStop s (fun c => c.stopped = true ∧ c.get 0x50010 12 4 = 5 ∧ c = { s.chip with regs := c.regs, out := c.out }
      ∧ (∀ o, o ≠ 0x50010 → c.word o = s.chip.word o) ∧ c.out = s.chip.out ++ (if s.chip.bit 0x50010 4 then [.gstopN false] else [])))
  ∧ (∀ (s : State) (who : Who), Reaches s who 0x50010 → s.chip.dbgLevel ≠ 0 → s.chip.stopped = true →
    (s.chip.bit 0x50010 9 = false → Runs (.dbgResume who) s (fun c =>
      c.stopped = false ∧ c.mem = s.chip.mem ∧ c.ext = s.chip.ext ∧ c.rng = s.chip.rng ∧ KeepsSetup s c
      ∧ (s.chip.bit 0x50010 4 = true → Out.gstopN true ∈ c.out)))
    ∧ (s.chip.bit 0x50010 9 = true → Runs (.dbgResume who) s (fun c => c = { s.chip with latch := c.latch, dbg := c.dbg })))
  ∧ (∀ s : State, s.chip.dbgLevel = 2 → s.chip.stopped = true →
    Runs .scanOut s (fun c => c.bit 0x50010 9 = true ∧ c.stopped = true ∧ c = { s.chip with regs := c.regs }))
  ∧ (∀ (s : State) (who : Who), Reaches s who 0x1300100 → s.chip.dbgLevel ≠ 0 →
    (s.chip.capturing = false → Runs (.trcArm who) s (fun c =>
      c.capturing = true ∧ c.triggered = false ∧ c.dbg.fifo = [] ∧ c.dbg.buf = [] ∧ c.get64 rTRC_WRITE_PTR = 0 ∧ c.get64 rTRC_DROPPED = 0
      ∧ c = { s.chip with regs := c.regs, latch := c.latch, dbg := c.dbg }))
    ∧ (s.chip.capturing = true → s.chip.triggered = false → Runs (.trcForceTrig who) s (fun c =>
      c.triggered = true ∧ (s.chip.dbg.fifo = [] → s.chip.dbg.run = 0 → ∃ e, e.getD 8 0 = 0x0C ∧ Traced c e)
      ∧ c.mem = s.chip.mem ∧ c.ext = s.chip.ext)))
  ∧ (∀ (s : State) (e : TraceEntry), s.chip.capturing = true → s.chip.kindTaken e.kind.toNat = true → s.chip.trigMatch e = false →
    s.chip.dbg.fifo = [] → s.chip.dbg.run = 0 → s.chip.trcFull = false →
    Runs (.traceEntry e) s (fun c => Traced c (traceBytes s.chip.esc.cyc s.chip.esc.beat.toNat e) ∧ c.mem = s.chip.mem ∧ c.ext = s.chip.ext))
  ∧ (∀ s : State, s.chip.stopped = false → s.chip.trcSpill = true → 128 ≤ s.chip.dbg.written - s.chip.dbg.spilled → s.chip.mayAccess 31 = true →
    s.chip.held.contains .spine = false →
    (∃ st n x l, (s.chip.poolWrite elbInt 31 s.chip.spillReq s.chip.spillData).2 = .got st n x l ∧ st ≠ .busyRetry) →
    Runs .traceSpill s (fun c =>
      c.dbg.spilled = s.chip.dbg.spilled + 128 ∧ c.mem = (s.chip.poolWrite elbInt 31 s.chip.spillReq s.chip.spillData).1.mem
      ∧ c.held = s.chip.held))

/-- The line cache's sweep, the boot flash and the management service (R483 to R486, R502): INVALIDATE drops every line; an erase or a
program of an unprotected address starts and, when the device has ended it, changes its pages; a protected address is refused; STATUS is
answered. It says where these commands complete: LCC_INVALIDATE, LCC_SWEEP_DONE, MGT_FLASH_ERASE, MGT_FLASH_PROGRAM, FLASH_OP_DONE,
ETH_STATUS. -/
def Obligations.FlashAndCacheCommands : Prop :=
  (∀ (s : State) (who : Who), Reaches s who 0xB00000 → s.chip.bit rLCC_STATUS 1 = false →
    Runs (.lccInvalidate who) s (fun c =>
      c.lccValid = 0 ∧ c.bit rLCC_STATUS 1 = true ∧ c = { s.chip with regs := c.regs, latch := c.latch, lcc := c.lcc, dbg := c.dbg }))
  ∧ (∀ s : State, Serves s .lcc → Runs .lccSweepDone s (fun c =>
      c.bit rLCC_STATUS 1 = false ∧ (∀ o, o ≠ rLCC_STATUS → c.word o = s.chip.word o) ∧ c = { s.chip with regs := c.regs, pwr := c.pwr }))
  ∧ (∀ (s : State) (who : Who), Reaches s who 0x40014 → FlashFree s.chip → s.chip.inhibit = false →
    let a := s.chip.get 0x40010 0 26
    (s.chip.flashProtected (a / 65536 * 65536) = false → Runs (.mgtFlashErase (.register who)) s (fun c =>
      (∃ o, c.flash.op = some o ∧ o.erase = true ∧ o.addr = a / 65536 * 65536 ∧ o.src = .register who) ∧ c.bit rMGT_FLASH_STAT 0 = true
      ∧ c.out = s.chip.out ++ [.flashErase (a / 65536 * 65536)] ∧ c.flash.pages = s.chip.flash.pages
      ∧ c = { s.chip with regs := c.regs, flash := c.flash, out := c.out, latch := c.latch, dbg := c.dbg }))
    ∧ (s.chip.flashProtected (a / 65536 * 65536) = true → Runs (.mgtFlashErase (.register who)) s (fun c =>
      c.get rMGT_FLASH_STAT 2 2 = 1 ∧ c.bit rMGT_FLASH_STAT 1 = true ∧ c.bit rMGT_FLASH_STAT 0 = false
      ∧ c = { s.chip with regs := c.regs, latch := c.latch, dbg := c.dbg }))
    ∧ (∀ data : List Byte, s.chip.flashProtected (a / 256 * 256) = false → Runs (.mgtFlashProgram (.register who) data) s (fun c =>
      ∃ bytes, bytes.length = 256 ∧ c.flash = { s.chip.flash with op := some ⟨false, a / 256 * 256, bytes, .register who⟩ }
      ∧ c.bit rMGT_FLASH_STAT 0 = true ∧ c.out = s.chip.out ++ [.flashProgram (a / 256 * 256) bytes]
      ∧ c = { s.chip with regs := c.regs, flash := c.flash, out := c.out, latch := c.latch, dbg := c.dbg })))
  ∧ (∀ (s : State) (id : Word) (raw : Nat) (data : List Byte), FlashFree s.chip → s.chip.inhibit = false → raw < 2 ^ 26 → data.length = 256 →
    s.chip.flashProtected (raw / 256 * 256) = false →
    Runs (.mgtFlashProgram (.service id raw) data) s (fun c =>
      c.flash = { s.chip.flash with op := some ⟨false, raw / 256 * 256, data, .service id raw⟩ }
      ∧ c.out = s.chip.out ++ [.flashProgram (raw / 256 * 256) data] ∧ c = { s.chip with flash := c.flash, out := c.out }))
  ∧ (∀ (s : State) (o : FlashOp) (who : Who), s.chip.flash.op = some o → o.src = .register who → s.chip.recovery = false →
    Runs (.flashOpDone true) s (fun c =>
      c.flash.op = none ∧ c.bit rMGT_FLASH_STAT 0 = false ∧ c.bit rMGT_FLASH_STAT 1 = true ∧ c.get rMGT_FLASH_STAT 2 2 = 0
      ∧ (o.erase = true → ∀ x, look c.flash.pages x = if o.addr ≤ x ∧ x < o.addr + 65536 then none else look s.chip.flash.pages x)
      ∧ (o.erase = false → ∀ x, look c.flash.pages x = if x = o.addr then some o.data else look s.chip.flash.pages x)
      ∧ c = { s.chip with regs := c.regs, flash := c.flash })
    ∧ Runs (.flashOpDone false) s (fun c =>
      c.flash = { s.chip.flash with op := none } ∧ c.get rMGT_FLASH_STAT 2 2 = 3 ∧ c = { s.chip with regs := c.regs, flash := c.flash }))
  ∧ (∀ (s : State) (id : Word), s.chip.held.contains .mgt = false → Runs (.ethStatus id) s (fun c => c = s.chip.emit (.eth id s.chip.ethAnswer)))
end

