-- ==== Sys2Proof/Laws/Maps.lean ====
section
/-! SUPPORT. What a sparse table reads as after each of its operations: the equations that proofs use in place of `look`, `put` and `del`. -/

namespace Sys2Proof.Machine

variable {α β : Type}

@[simp] theorem look_nil (k : Nat) : look ([] : List (Nat × α)) k = none := rfl

@[simp] theorem look_put_self (m : List (Nat × α)) (k : Nat) (v : α) : look (put m k v) k = some v := by
  induction m with
  | nil => simp [put, look]
  | cons e r ih =>
    obtain ⟨j, w⟩ := e
    simp only [put]
    split
    · simp [look]
    · split
      · simp [look]
      · simp only [look]; rw [if_neg (by omega)]; exact ih

theorem look_put_ne (m : List (Nat × α)) {j k : Nat} (v : α) (h : j ≠ k) : look (put m k v) j = look m j := by
  induction m with
  | nil => simp [put, look]; omega
  | cons e r ih =>
    obtain ⟨i, w⟩ := e
    simp only [put]
    split
    · simp only [look]; rw [if_neg (by omega)]
    · split
      · subst_vars; simp only [look]; rw [if_neg (by omega), if_neg (by omega)]
      · simp only [look]; split
        · rfl
        · exact ih

theorem look_filter_key (m : List (Nat × α)) (p : Nat → Bool) (k : Nat) :
    look (m.filter (fun e => p e.1)) k = if p k then look m k else none := by
  induction m with
  | nil => simp [look]
  | cons e r ih =>
    obtain ⟨j, v⟩ := e
    simp only [List.filter_cons]
    by_cases e : j = k
    · subst e; cases hj : p j <;> simp [look, ih, hj]
    · cases hj : p j <;> simp [look, ih, e]

@[simp] theorem look_del_self (m : List (Nat × α)) (k : Nat) : look (del m k) k = none := by
  rw [del, look_filter_key m (fun j => j != k)]; simp

theorem look_del_ne (m : List (Nat × α)) {j k : Nat} (h : j ≠ k) : look (del m k) j = look m j := by
  rw [del, look_filter_key m (fun j => j != k)]; simp [h]

@[simp] theorem look_mapVals (m : List (Nat × α)) (f : Nat → α → β) (k : Nat) : look (mapVals m f) k = (look m k).map (f k) := by
  induction m with
  | nil => rfl
  | cons e r ih =>
    obtain ⟨j, v⟩ := e
    have ih' : look (r.map (fun e => (e.1, f e.1 e.2))) k = (look r k).map (f k) := ih
    simp only [mapVals, List.map_cons, look]
    split
    · subst_vars; rfl
    · exact ih'

@[simp] theorem lookD_put_self (m : List (Nat × α)) (k : Nat) (v d : α) : lookD (put m k v) k d = v := by simp [lookD]

theorem lookD_put_ne (m : List (Nat × α)) {j k : Nat} (v d : α) (h : j ≠ k) : lookD (put m k v) j d = lookD m j d := by
  simp [lookD, look_put_ne m v h]

theorem mem_of_look {m : List (Nat × α)} {k : Nat} {v : α} (h : look m k = some v) : (k, v) ∈ m := by
  induction m with
  | nil => cases h
  | cons e r ih =>
    obtain ⟨j, w⟩ := e
    simp only [look] at h
    split at h
    · subst_vars; cases h; simp
    · exact List.mem_cons_of_mem _ (ih h)

theorem look_none_of_lt {m : List (Nat × α)} {k : Nat} (h : ∀ e ∈ m, k < e.1) : look m k = none := by
  induction m with
  | nil => rfl
  | cons e r ih =>
    obtain ⟨j, w⟩ := e
    have hj : k < j := h (j, w) (by simp)
    simp only [look]; rw [if_neg (by omega)]
    exact ih (fun e he => h e (List.mem_cons_of_mem _ he))

end Sys2Proof.Machine
end

