-- ==== Sys2Proof/Laws/Memory.lean ====
section
/-! SUPPORT. The canonical form of stored memory (11_memory_stacks.md R349, log 18) and that every operation over it keeps it. -/

namespace Sys2Proof.Machine

/-- The form in one line: addresses strictly rise, and no listed byte is 0. -/
theorem cellsWf_iff (l : List Host.Cell) : cellsWf l = true ↔ l.Pairwise (fun a b => a.1 < b.1) ∧ ∀ e ∈ l, e.2 ≠ 0 := by
  induction l with
  | nil => simp [cellsWf]
  | cons e r ih =>
    cases r with
    | nil => obtain ⟨a, b⟩ := e; simp [cellsWf]
    | cons e' r =>
      obtain ⟨a, b⟩ := e
      obtain ⟨a', b'⟩ := e'
      simp only [cellsWf, Bool.and_eq_true, decide_eq_true_eq, bne_iff_ne, ih]
      constructor
      · rintro ⟨⟨h, hb⟩, p, q⟩
        refine ⟨List.pairwise_cons.2 ⟨fun x hx => ?_, p⟩, fun x hx => ?_⟩
        · rcases List.mem_cons.1 hx with rfl | hx
          · exact h
          · exact Nat.lt_trans h ((List.pairwise_cons.1 p).1 x hx)
        · rcases List.mem_cons.1 hx with rfl | hx
          · exact hb
          · exact q x hx
      · rintro ⟨p, q⟩
        exact ⟨⟨(List.pairwise_cons.1 p).1 (a', b') (by simp), q (a, b) (by simp)⟩, (List.pairwise_cons.1 p).2,
          fun x hx => q x (List.mem_cons_of_mem _ hx)⟩

theorem risingWf_iff (l : List Nat) : risingWf l = true ↔ l.Pairwise (· < ·) := by
  induction l with
  | nil => simp [risingWf]
  | cons a r ih =>
    cases r with
    | nil => simp [risingWf]
    | cons b r =>
      simp only [risingWf, Bool.and_eq_true, decide_eq_true_eq, ih]
      constructor
      · rintro ⟨h, p⟩
        refine List.pairwise_cons.2 ⟨fun x hx => ?_, p⟩
        rcases List.mem_cons.1 hx with rfl | hx
        · exact h
        · exact Nat.lt_trans h ((List.pairwise_cons.1 p).1 x hx)
      · intro p
        exact ⟨(List.pairwise_cons.1 p).1 _ (by simp), (List.pairwise_cons.1 p).2⟩

/-- The cells of a run lie in it and hold no 0. -/
theorem mem_cellsOf {a : Nat} {l : List Byte} {e : Host.Cell} (h : e ∈ cellsOf a l) : a ≤ e.1 ∧ e.1 < a + l.length ∧ e.2 ≠ 0 := by
  induction l generalizing a with
  | nil => cases h
  | cons b r ih =>
    simp only [cellsOf] at h
    split at h
    · obtain ⟨p, q, z⟩ := ih h; exact ⟨by omega, by rw [List.length_cons]; omega, z⟩
    · rcases List.mem_cons.1 h with rfl | h
      · exact ⟨Nat.le_refl _, by simp, by assumption⟩
      · obtain ⟨p, q, z⟩ := ih h; exact ⟨by omega, by rw [List.length_cons]; omega, z⟩

theorem cellsOf_rising (a : Nat) (l : List Byte) : (cellsOf a l).Pairwise (fun x y => x.1 < y.1) := by
  induction l generalizing a with
  | nil => exact List.Pairwise.nil
  | cons b r ih =>
    simp only [cellsOf]
    split
    · exact ih _
    · exact List.pairwise_cons.2 ⟨fun x hx => by have := mem_cellsOf hx; simp only; omega, ih _⟩

@[simp] theorem maskedBytes_length (old new : List Byte) (mask : List Bool) : (maskedBytes old new mask).length = old.length := by
  simp [maskedBytes, upTo]

@[simp] theorem run_length (m : Mem) (a n : Nat) : (m.run a n).length = n := by simp [Mem.run, upTo]

theorem insertNat_mem {a x : Nat} {l : List Nat} : x ∈ insertNat a l ↔ x = a ∨ x ∈ l := by
  induction l with
  | nil => simp [insertNat]
  | cons b r ih =>
    simp only [insertNat]
    split
    · simp
    · split
      · subst_vars; simp
      · simp only [List.mem_cons, ih]; tauto

theorem insertNat_rising {a : Nat} {l : List Nat} (h : l.Pairwise (· < ·)) : (insertNat a l).Pairwise (· < ·) := by
  induction l with
  | nil => simp [insertNat]
  | cons b r ih =>
    have hb := List.pairwise_cons.1 h
    simp only [insertNat]
    split
    · refine List.pairwise_cons.2 ⟨fun x hx => ?_, h⟩
      rcases List.mem_cons.1 hx with rfl | hx
      · assumption
      · have := hb.1 x hx; omega
    · split
      · exact h
      · refine List.pairwise_cons.2 ⟨fun x hx => ?_, ih hb.2⟩
        rcases insertNat_mem.1 hx with rfl | hx
        · omega
        · exact hb.1 x hx

/-- A masked write keeps the canonical form. -/
theorem Mem.write_canonical {m : Mem} (h : m.wf = true) (a : Nat) (data : List Byte) (mask : List Bool) : (m.write a data mask).wf = true := by
  rw [Mem.wf, Bool.and_eq_true, cellsWf_iff, risingWf_iff] at h ⊢
  obtain ⟨⟨hp, hz⟩, hr⟩ := h
  refine ⟨⟨?_, ?_⟩, hr.filter _⟩
  · simp only [Mem.write, List.pairwise_append, List.mem_filter, List.mem_append, decide_eq_true_eq]
    refine ⟨⟨hp.filter _, cellsOf_rising _ _, ?_⟩, hp.filter _, ?_⟩
    · intro x hx y hy
      have := mem_cellsOf hy; omega
    · rintro x (hx | hx) y hy
      · omega
      · have := mem_cellsOf hx
        simp only [maskedBytes_length, run_length] at this; omega
  · simp only [Mem.write, List.mem_append, List.mem_filter]
    rintro e ((he | he) | he)
    · exact hz e he.1
    · exact (mem_cellsOf he).2.2
    · exact hz e he.1

/-- A flipped check bit keeps the canonical form. -/
theorem Mem.toggle_canonical {m : Mem} (h : m.wf = true) (a : Nat) : (m.toggle a).wf = true := by
  rw [Mem.wf, Bool.and_eq_true, risingWf_iff] at h
  unfold Mem.toggle
  split
  · rw [Mem.wf, Bool.and_eq_true, risingWf_iff]; exact ⟨h.1, h.2.filter _⟩
  · rw [Mem.wf, Bool.and_eq_true, risingWf_iff]; exact ⟨h.1, insertNat_rising h.2⟩

/-- Memory after reset has the form. -/
theorem reset_mem_canonical : State.reset.chip.mem.wf = true := by decide

end Sys2Proof.Machine
end

