-- ==== Sys2Proof/Laws/State.lean ====
section
/-! SUPPORT. What each field of the package holds after each of its updates: one equation per field per update, so that no proof unfolds a
record update. -/

namespace Sys2Proof.Machine


/-! ### setEsc -/

@[simp] theorem Chip.setEsc_regs (c : Chip) (x : Esc) : (c.setEsc x).regs = c.regs := rfl
@[simp] theorem Chip.setEsc_act (c : Chip) (x : Esc) : (c.setEsc x).act = c.act := rfl
@[simp] theorem Chip.setEsc_latch (c : Chip) (x : Esc) : (c.setEsc x).latch = c.latch := rfl
@[simp] theorem Chip.setEsc_held (c : Chip) (x : Esc) : (c.setEsc x).held = c.held := rfl
@[simp] theorem Chip.setEsc_esc (c : Chip) (x : Esc) : (c.setEsc x).esc = x := rfl
@[simp] theorem Chip.setEsc_elec (c : Chip) (x : Esc) : (c.setEsc x).elec = c.elec := rfl
@[simp] theorem Chip.setEsc_com (c : Chip) (x : Esc) : (c.setEsc x).com = c.com := rfl
@[simp] theorem Chip.setEsc_ext (c : Chip) (x : Esc) : (c.setEsc x).ext = c.ext := rfl
@[simp] theorem Chip.setEsc_rng (c : Chip) (x : Esc) : (c.setEsc x).rng = c.rng := rfl
@[simp] theorem Chip.setEsc_mem (c : Chip) (x : Esc) : (c.setEsc x).mem = c.mem := rfl
@[simp] theorem Chip.setEsc_lcc (c : Chip) (x : Esc) : (c.setEsc x).lcc = c.lcc := rfl
@[simp] theorem Chip.setEsc_stk (c : Chip) (x : Esc) : (c.setEsc x).stk = c.stk := rfl
@[simp] theorem Chip.setEsc_reg (c : Chip) (x : Esc) : (c.setEsc x).reg = c.reg := rfl
@[simp] theorem Chip.setEsc_int (c : Chip) (x : Esc) : (c.setEsc x).int = c.int := rfl
@[simp] theorem Chip.setEsc_red (c : Chip) (x : Esc) : (c.setEsc x).red = c.red := rfl
@[simp] theorem Chip.setEsc_slots (c : Chip) (x : Esc) : (c.setEsc x).slots = c.slots := rfl
@[simp] theorem Chip.setEsc_keys (c : Chip) (x : Esc) : (c.setEsc x).keys = c.keys := rfl
@[simp] theorem Chip.setEsc_scrubKey (c : Chip) (x : Esc) : (c.setEsc x).scrubKey = c.scrubKey := rfl
@[simp] theorem Chip.setEsc_pci (c : Chip) (x : Esc) : (c.setEsc x).pci = c.pci := rfl
@[simp] theorem Chip.setEsc_hostWait (c : Chip) (x : Esc) : (c.setEsc x).hostWait = c.hostWait := rfl
@[simp] theorem Chip.setEsc_coh (c : Chip) (x : Esc) : (c.setEsc x).coh = c.coh := rfl
@[simp] theorem Chip.setEsc_xlt (c : Chip) (x : Esc) : (c.setEsc x).xlt = c.xlt := rfl
@[simp] theorem Chip.setEsc_eng (c : Chip) (x : Esc) : (c.setEsc x).eng = c.eng := rfl
@[simp] theorem Chip.setEsc_kve (c : Chip) (x : Esc) : (c.setEsc x).kve = c.kve := rfl
@[simp] theorem Chip.setEsc_dbg (c : Chip) (x : Esc) : (c.setEsc x).dbg = c.dbg := rfl
@[simp] theorem Chip.setEsc_pwr (c : Chip) (x : Esc) : (c.setEsc x).pwr = c.pwr := rfl
@[simp] theorem Chip.setEsc_unbinds (c : Chip) (x : Esc) : (c.setEsc x).unbinds = c.unbinds := rfl
@[simp] theorem Chip.setEsc_links (c : Chip) (x : Esc) : (c.setEsc x).links = c.links := rfl
@[simp] theorem Chip.setEsc_inject (c : Chip) (x : Esc) : (c.setEsc x).inject = c.inject := rfl
@[simp] theorem Chip.setEsc_fuses (c : Chip) (x : Esc) : (c.setEsc x).fuses = c.fuses := rfl
@[simp] theorem Chip.setEsc_sec (c : Chip) (x : Esc) : (c.setEsc x).sec = c.sec := rfl
@[simp] theorem Chip.setEsc_flash (c : Chip) (x : Esc) : (c.setEsc x).flash = c.flash := rfl
@[simp] theorem Chip.setEsc_rcu (c : Chip) (x : Esc) : (c.setEsc x).rcu = c.rcu := rfl
@[simp] theorem Chip.setEsc_out (c : Chip) (x : Esc) : (c.setEsc x).out = c.out := rfl
@[simp] theorem Chip.setEsc_fresh (c : Chip) (x : Esc) : (c.setEsc x).fresh = c.fresh := rfl

/-! ### setElec -/

@[simp] theorem Chip.setElec_regs (c : Chip) (x : Elect) : (c.setElec x).regs = c.regs := rfl
@[simp] theorem Chip.setElec_act (c : Chip) (x : Elect) : (c.setElec x).act = c.act := rfl
@[simp] theorem Chip.setElec_latch (c : Chip) (x : Elect) : (c.setElec x).latch = c.latch := rfl
@[simp] theorem Chip.setElec_held (c : Chip) (x : Elect) : (c.setElec x).held = c.held := rfl
@[simp] theorem Chip.setElec_esc (c : Chip) (x : Elect) : (c.setElec x).esc = c.esc := rfl
@[simp] theorem Chip.setElec_elec (c : Chip) (x : Elect) : (c.setElec x).elec = x := rfl
@[simp] theorem Chip.setElec_com (c : Chip) (x : Elect) : (c.setElec x).com = c.com := rfl
@[simp] theorem Chip.setElec_ext (c : Chip) (x : Elect) : (c.setElec x).ext = c.ext := rfl
@[simp] theorem Chip.setElec_rng (c : Chip) (x : Elect) : (c.setElec x).rng = c.rng := rfl
@[simp] theorem Chip.setElec_mem (c : Chip) (x : Elect) : (c.setElec x).mem = c.mem := rfl
@[simp] theorem Chip.setElec_lcc (c : Chip) (x : Elect) : (c.setElec x).lcc = c.lcc := rfl
@[simp] theorem Chip.setElec_stk (c : Chip) (x : Elect) : (c.setElec x).stk = c.stk := rfl
@[simp] theorem Chip.setElec_reg (c : Chip) (x : Elect) : (c.setElec x).reg = c.reg := rfl
@[simp] theorem Chip.setElec_int (c : Chip) (x : Elect) : (c.setElec x).int = c.int := rfl
@[simp] theorem Chip.setElec_red (c : Chip) (x : Elect) : (c.setElec x).red = c.red := rfl
@[simp] theorem Chip.setElec_slots (c : Chip) (x : Elect) : (c.setElec x).slots = c.slots := rfl
@[simp] theorem Chip.setElec_keys (c : Chip) (x : Elect) : (c.setElec x).keys = c.keys := rfl
@[simp] theorem Chip.setElec_scrubKey (c : Chip) (x : Elect) : (c.setElec x).scrubKey = c.scrubKey := rfl
@[simp] theorem Chip.setElec_pci (c : Chip) (x : Elect) : (c.setElec x).pci = c.pci := rfl
@[simp] theorem Chip.setElec_hostWait (c : Chip) (x : Elect) : (c.setElec x).hostWait = c.hostWait := rfl
@[simp] theorem Chip.setElec_coh (c : Chip) (x : Elect) : (c.setElec x).coh = c.coh := rfl
@[simp] theorem Chip.setElec_xlt (c : Chip) (x : Elect) : (c.setElec x).xlt = c.xlt := rfl
@[simp] theorem Chip.setElec_eng (c : Chip) (x : Elect) : (c.setElec x).eng = c.eng := rfl
@[simp] theorem Chip.setElec_kve (c : Chip) (x : Elect) : (c.setElec x).kve = c.kve := rfl
@[simp] theorem Chip.setElec_dbg (c : Chip) (x : Elect) : (c.setElec x).dbg = c.dbg := rfl
@[simp] theorem Chip.setElec_pwr (c : Chip) (x : Elect) : (c.setElec x).pwr = c.pwr := rfl
@[simp] theorem Chip.setElec_unbinds (c : Chip) (x : Elect) : (c.setElec x).unbinds = c.unbinds := rfl
@[simp] theorem Chip.setElec_links (c : Chip) (x : Elect) : (c.setElec x).links = c.links := rfl
@[simp] theorem Chip.setElec_inject (c : Chip) (x : Elect) : (c.setElec x).inject = c.inject := rfl
@[simp] theorem Chip.setElec_fuses (c : Chip) (x : Elect) : (c.setElec x).fuses = c.fuses := rfl
@[simp] theorem Chip.setElec_sec (c : Chip) (x : Elect) : (c.setElec x).sec = c.sec := rfl
@[simp] theorem Chip.setElec_flash (c : Chip) (x : Elect) : (c.setElec x).flash = c.flash := rfl
@[simp] theorem Chip.setElec_rcu (c : Chip) (x : Elect) : (c.setElec x).rcu = c.rcu := rfl
@[simp] theorem Chip.setElec_out (c : Chip) (x : Elect) : (c.setElec x).out = c.out := rfl
@[simp] theorem Chip.setElec_fresh (c : Chip) (x : Elect) : (c.setElec x).fresh = c.fresh := rfl

/-! ### setCom -/

@[simp] theorem Chip.setCom_regs (c : Chip) (x : Commit) : (c.setCom x).regs = c.regs := rfl
@[simp] theorem Chip.setCom_act (c : Chip) (x : Commit) : (c.setCom x).act = c.act := rfl
@[simp] theorem Chip.setCom_latch (c : Chip) (x : Commit) : (c.setCom x).latch = c.latch := rfl
@[simp] theorem Chip.setCom_held (c : Chip) (x : Commit) : (c.setCom x).held = c.held := rfl
@[simp] theorem Chip.setCom_esc (c : Chip) (x : Commit) : (c.setCom x).esc = c.esc := rfl
@[simp] theorem Chip.setCom_elec (c : Chip) (x : Commit) : (c.setCom x).elec = c.elec := rfl
@[simp] theorem Chip.setCom_com (c : Chip) (x : Commit) : (c.setCom x).com = x := rfl
@[simp] theorem Chip.setCom_ext (c : Chip) (x : Commit) : (c.setCom x).ext = c.ext := rfl
@[simp] theorem Chip.setCom_rng (c : Chip) (x : Commit) : (c.setCom x).rng = c.rng := rfl
@[simp] theorem Chip.setCom_mem (c : Chip) (x : Commit) : (c.setCom x).mem = c.mem := rfl
@[simp] theorem Chip.setCom_lcc (c : Chip) (x : Commit) : (c.setCom x).lcc = c.lcc := rfl
@[simp] theorem Chip.setCom_stk (c : Chip) (x : Commit) : (c.setCom x).stk = c.stk := rfl
@[simp] theorem Chip.setCom_reg (c : Chip) (x : Commit) : (c.setCom x).reg = c.reg := rfl
@[simp] theorem Chip.setCom_int (c : Chip) (x : Commit) : (c.setCom x).int = c.int := rfl
@[simp] theorem Chip.setCom_red (c : Chip) (x : Commit) : (c.setCom x).red = c.red := rfl
@[simp] theorem Chip.setCom_slots (c : Chip) (x : Commit) : (c.setCom x).slots = c.slots := rfl
@[simp] theorem Chip.setCom_keys (c : Chip) (x : Commit) : (c.setCom x).keys = c.keys := rfl
@[simp] theorem Chip.setCom_scrubKey (c : Chip) (x : Commit) : (c.setCom x).scrubKey = c.scrubKey := rfl
@[simp] theorem Chip.setCom_pci (c : Chip) (x : Commit) : (c.setCom x).pci = c.pci := rfl
@[simp] theorem Chip.setCom_hostWait (c : Chip) (x : Commit) : (c.setCom x).hostWait = c.hostWait := rfl
@[simp] theorem Chip.setCom_coh (c : Chip) (x : Commit) : (c.setCom x).coh = c.coh := rfl
@[simp] theorem Chip.setCom_xlt (c : Chip) (x : Commit) : (c.setCom x).xlt = c.xlt := rfl
@[simp] theorem Chip.setCom_eng (c : Chip) (x : Commit) : (c.setCom x).eng = c.eng := rfl
@[simp] theorem Chip.setCom_kve (c : Chip) (x : Commit) : (c.setCom x).kve = c.kve := rfl
@[simp] theorem Chip.setCom_dbg (c : Chip) (x : Commit) : (c.setCom x).dbg = c.dbg := rfl
@[simp] theorem Chip.setCom_pwr (c : Chip) (x : Commit) : (c.setCom x).pwr = c.pwr := rfl
@[simp] theorem Chip.setCom_unbinds (c : Chip) (x : Commit) : (c.setCom x).unbinds = c.unbinds := rfl
@[simp] theorem Chip.setCom_links (c : Chip) (x : Commit) : (c.setCom x).links = c.links := rfl
@[simp] theorem Chip.setCom_inject (c : Chip) (x : Commit) : (c.setCom x).inject = c.inject := rfl
@[simp] theorem Chip.setCom_fuses (c : Chip) (x : Commit) : (c.setCom x).fuses = c.fuses := rfl
@[simp] theorem Chip.setCom_sec (c : Chip) (x : Commit) : (c.setCom x).sec = c.sec := rfl
@[simp] theorem Chip.setCom_flash (c : Chip) (x : Commit) : (c.setCom x).flash = c.flash := rfl
@[simp] theorem Chip.setCom_rcu (c : Chip) (x : Commit) : (c.setCom x).rcu = c.rcu := rfl
@[simp] theorem Chip.setCom_out (c : Chip) (x : Commit) : (c.setCom x).out = c.out := rfl
@[simp] theorem Chip.setCom_fresh (c : Chip) (x : Commit) : (c.setCom x).fresh = c.fresh := rfl

/-! ### setExt -/

@[simp] theorem Chip.setExt_regs (c : Chip) (x : Ext) : (c.setExt x).regs = c.regs := rfl
@[simp] theorem Chip.setExt_act (c : Chip) (x : Ext) : (c.setExt x).act = c.act := rfl
@[simp] theorem Chip.setExt_latch (c : Chip) (x : Ext) : (c.setExt x).latch = c.latch := rfl
@[simp] theorem Chip.setExt_held (c : Chip) (x : Ext) : (c.setExt x).held = c.held := rfl
@[simp] theorem Chip.setExt_esc (c : Chip) (x : Ext) : (c.setExt x).esc = c.esc := rfl
@[simp] theorem Chip.setExt_elec (c : Chip) (x : Ext) : (c.setExt x).elec = c.elec := rfl
@[simp] theorem Chip.setExt_com (c : Chip) (x : Ext) : (c.setExt x).com = c.com := rfl
@[simp] theorem Chip.setExt_ext (c : Chip) (x : Ext) : (c.setExt x).ext = x := rfl
@[simp] theorem Chip.setExt_rng (c : Chip) (x : Ext) : (c.setExt x).rng = c.rng := rfl
@[simp] theorem Chip.setExt_mem (c : Chip) (x : Ext) : (c.setExt x).mem = c.mem := rfl
@[simp] theorem Chip.setExt_lcc (c : Chip) (x : Ext) : (c.setExt x).lcc = c.lcc := rfl
@[simp] theorem Chip.setExt_stk (c : Chip) (x : Ext) : (c.setExt x).stk = c.stk := rfl
@[simp] theorem Chip.setExt_reg (c : Chip) (x : Ext) : (c.setExt x).reg = c.reg := rfl
@[simp] theorem Chip.setExt_int (c : Chip) (x : Ext) : (c.setExt x).int = c.int := rfl
@[simp] theorem Chip.setExt_red (c : Chip) (x : Ext) : (c.setExt x).red = c.red := rfl
@[simp] theorem Chip.setExt_slots (c : Chip) (x : Ext) : (c.setExt x).slots = c.slots := rfl
@[simp] theorem Chip.setExt_keys (c : Chip) (x : Ext) : (c.setExt x).keys = c.keys := rfl
@[simp] theorem Chip.setExt_scrubKey (c : Chip) (x : Ext) : (c.setExt x).scrubKey = c.scrubKey := rfl
@[simp] theorem Chip.setExt_pci (c : Chip) (x : Ext) : (c.setExt x).pci = c.pci := rfl
@[simp] theorem Chip.setExt_hostWait (c : Chip) (x : Ext) : (c.setExt x).hostWait = c.hostWait := rfl
@[simp] theorem Chip.setExt_coh (c : Chip) (x : Ext) : (c.setExt x).coh = c.coh := rfl
@[simp] theorem Chip.setExt_xlt (c : Chip) (x : Ext) : (c.setExt x).xlt = c.xlt := rfl
@[simp] theorem Chip.setExt_eng (c : Chip) (x : Ext) : (c.setExt x).eng = c.eng := rfl
@[simp] theorem Chip.setExt_kve (c : Chip) (x : Ext) : (c.setExt x).kve = c.kve := rfl
@[simp] theorem Chip.setExt_dbg (c : Chip) (x : Ext) : (c.setExt x).dbg = c.dbg := rfl
@[simp] theorem Chip.setExt_pwr (c : Chip) (x : Ext) : (c.setExt x).pwr = c.pwr := rfl
@[simp] theorem Chip.setExt_unbinds (c : Chip) (x : Ext) : (c.setExt x).unbinds = c.unbinds := rfl
@[simp] theorem Chip.setExt_links (c : Chip) (x : Ext) : (c.setExt x).links = c.links := rfl
@[simp] theorem Chip.setExt_inject (c : Chip) (x : Ext) : (c.setExt x).inject = c.inject := rfl
@[simp] theorem Chip.setExt_fuses (c : Chip) (x : Ext) : (c.setExt x).fuses = c.fuses := rfl
@[simp] theorem Chip.setExt_sec (c : Chip) (x : Ext) : (c.setExt x).sec = c.sec := rfl
@[simp] theorem Chip.setExt_flash (c : Chip) (x : Ext) : (c.setExt x).flash = c.flash := rfl
@[simp] theorem Chip.setExt_rcu (c : Chip) (x : Ext) : (c.setExt x).rcu = c.rcu := rfl
@[simp] theorem Chip.setExt_out (c : Chip) (x : Ext) : (c.setExt x).out = c.out := rfl
@[simp] theorem Chip.setExt_fresh (c : Chip) (x : Ext) : (c.setExt x).fresh = c.fresh := rfl

/-! ### setRng -/

@[simp] theorem Chip.setRng_regs (c : Chip) (x : Rng) : (c.setRng x).regs = c.regs := rfl
@[simp] theorem Chip.setRng_act (c : Chip) (x : Rng) : (c.setRng x).act = c.act := rfl
@[simp] theorem Chip.setRng_latch (c : Chip) (x : Rng) : (c.setRng x).latch = c.latch := rfl
@[simp] theorem Chip.setRng_held (c : Chip) (x : Rng) : (c.setRng x).held = c.held := rfl
@[simp] theorem Chip.setRng_esc (c : Chip) (x : Rng) : (c.setRng x).esc = c.esc := rfl
@[simp] theorem Chip.setRng_elec (c : Chip) (x : Rng) : (c.setRng x).elec = c.elec := rfl
@[simp] theorem Chip.setRng_com (c : Chip) (x : Rng) : (c.setRng x).com = c.com := rfl
@[simp] theorem Chip.setRng_ext (c : Chip) (x : Rng) : (c.setRng x).ext = c.ext := rfl
@[simp] theorem Chip.setRng_rng (c : Chip) (x : Rng) : (c.setRng x).rng = x := rfl
@[simp] theorem Chip.setRng_mem (c : Chip) (x : Rng) : (c.setRng x).mem = c.mem := rfl
@[simp] theorem Chip.setRng_lcc (c : Chip) (x : Rng) : (c.setRng x).lcc = c.lcc := rfl
@[simp] theorem Chip.setRng_stk (c : Chip) (x : Rng) : (c.setRng x).stk = c.stk := rfl
@[simp] theorem Chip.setRng_reg (c : Chip) (x : Rng) : (c.setRng x).reg = c.reg := rfl
@[simp] theorem Chip.setRng_int (c : Chip) (x : Rng) : (c.setRng x).int = c.int := rfl
@[simp] theorem Chip.setRng_red (c : Chip) (x : Rng) : (c.setRng x).red = c.red := rfl
@[simp] theorem Chip.setRng_slots (c : Chip) (x : Rng) : (c.setRng x).slots = c.slots := rfl
@[simp] theorem Chip.setRng_keys (c : Chip) (x : Rng) : (c.setRng x).keys = c.keys := rfl
@[simp] theorem Chip.setRng_scrubKey (c : Chip) (x : Rng) : (c.setRng x).scrubKey = c.scrubKey := rfl
@[simp] theorem Chip.setRng_pci (c : Chip) (x : Rng) : (c.setRng x).pci = c.pci := rfl
@[simp] theorem Chip.setRng_hostWait (c : Chip) (x : Rng) : (c.setRng x).hostWait = c.hostWait := rfl
@[simp] theorem Chip.setRng_coh (c : Chip) (x : Rng) : (c.setRng x).coh = c.coh := rfl
@[simp] theorem Chip.setRng_xlt (c : Chip) (x : Rng) : (c.setRng x).xlt = c.xlt := rfl
@[simp] theorem Chip.setRng_eng (c : Chip) (x : Rng) : (c.setRng x).eng = c.eng := rfl
@[simp] theorem Chip.setRng_kve (c : Chip) (x : Rng) : (c.setRng x).kve = c.kve := rfl
@[simp] theorem Chip.setRng_dbg (c : Chip) (x : Rng) : (c.setRng x).dbg = c.dbg := rfl
@[simp] theorem Chip.setRng_pwr (c : Chip) (x : Rng) : (c.setRng x).pwr = c.pwr := rfl
@[simp] theorem Chip.setRng_unbinds (c : Chip) (x : Rng) : (c.setRng x).unbinds = c.unbinds := rfl
@[simp] theorem Chip.setRng_links (c : Chip) (x : Rng) : (c.setRng x).links = c.links := rfl
@[simp] theorem Chip.setRng_inject (c : Chip) (x : Rng) : (c.setRng x).inject = c.inject := rfl
@[simp] theorem Chip.setRng_fuses (c : Chip) (x : Rng) : (c.setRng x).fuses = c.fuses := rfl
@[simp] theorem Chip.setRng_sec (c : Chip) (x : Rng) : (c.setRng x).sec = c.sec := rfl
@[simp] theorem Chip.setRng_flash (c : Chip) (x : Rng) : (c.setRng x).flash = c.flash := rfl
@[simp] theorem Chip.setRng_rcu (c : Chip) (x : Rng) : (c.setRng x).rcu = c.rcu := rfl
@[simp] theorem Chip.setRng_out (c : Chip) (x : Rng) : (c.setRng x).out = c.out := rfl
@[simp] theorem Chip.setRng_fresh (c : Chip) (x : Rng) : (c.setRng x).fresh = c.fresh := rfl

/-! ### setMem -/

@[simp] theorem Chip.setMem_regs (c : Chip) (x : Mem) : (c.setMem x).regs = c.regs := rfl
@[simp] theorem Chip.setMem_act (c : Chip) (x : Mem) : (c.setMem x).act = c.act := rfl
@[simp] theorem Chip.setMem_latch (c : Chip) (x : Mem) : (c.setMem x).latch = c.latch := rfl
@[simp] theorem Chip.setMem_held (c : Chip) (x : Mem) : (c.setMem x).held = c.held := rfl
@[simp] theorem Chip.setMem_esc (c : Chip) (x : Mem) : (c.setMem x).esc = c.esc := rfl
@[simp] theorem Chip.setMem_elec (c : Chip) (x : Mem) : (c.setMem x).elec = c.elec := rfl
@[simp] theorem Chip.setMem_com (c : Chip) (x : Mem) : (c.setMem x).com = c.com := rfl
@[simp] theorem Chip.setMem_ext (c : Chip) (x : Mem) : (c.setMem x).ext = c.ext := rfl
@[simp] theorem Chip.setMem_rng (c : Chip) (x : Mem) : (c.setMem x).rng = c.rng := rfl
@[simp] theorem Chip.setMem_mem (c : Chip) (x : Mem) : (c.setMem x).mem = x := rfl
@[simp] theorem Chip.setMem_lcc (c : Chip) (x : Mem) : (c.setMem x).lcc = c.lcc := rfl
@[simp] theorem Chip.setMem_stk (c : Chip) (x : Mem) : (c.setMem x).stk = c.stk := rfl
@[simp] theorem Chip.setMem_reg (c : Chip) (x : Mem) : (c.setMem x).reg = c.reg := rfl
@[simp] theorem Chip.setMem_int (c : Chip) (x : Mem) : (c.setMem x).int = c.int := rfl
@[simp] theorem Chip.setMem_red (c : Chip) (x : Mem) : (c.setMem x).red = c.red := rfl
@[simp] theorem Chip.setMem_slots (c : Chip) (x : Mem) : (c.setMem x).slots = c.slots := rfl
@[simp] theorem Chip.setMem_keys (c : Chip) (x : Mem) : (c.setMem x).keys = c.keys := rfl
@[simp] theorem Chip.setMem_scrubKey (c : Chip) (x : Mem) : (c.setMem x).scrubKey = c.scrubKey := rfl
@[simp] theorem Chip.setMem_pci (c : Chip) (x : Mem) : (c.setMem x).pci = c.pci := rfl
@[simp] theorem Chip.setMem_hostWait (c : Chip) (x : Mem) : (c.setMem x).hostWait = c.hostWait := rfl
@[simp] theorem Chip.setMem_coh (c : Chip) (x : Mem) : (c.setMem x).coh = c.coh := rfl
@[simp] theorem Chip.setMem_xlt (c : Chip) (x : Mem) : (c.setMem x).xlt = c.xlt := rfl
@[simp] theorem Chip.setMem_eng (c : Chip) (x : Mem) : (c.setMem x).eng = c.eng := rfl
@[simp] theorem Chip.setMem_kve (c : Chip) (x : Mem) : (c.setMem x).kve = c.kve := rfl
@[simp] theorem Chip.setMem_dbg (c : Chip) (x : Mem) : (c.setMem x).dbg = c.dbg := rfl
@[simp] theorem Chip.setMem_pwr (c : Chip) (x : Mem) : (c.setMem x).pwr = c.pwr := rfl
@[simp] theorem Chip.setMem_unbinds (c : Chip) (x : Mem) : (c.setMem x).unbinds = c.unbinds := rfl
@[simp] theorem Chip.setMem_links (c : Chip) (x : Mem) : (c.setMem x).links = c.links := rfl
@[simp] theorem Chip.setMem_inject (c : Chip) (x : Mem) : (c.setMem x).inject = c.inject := rfl
@[simp] theorem Chip.setMem_fuses (c : Chip) (x : Mem) : (c.setMem x).fuses = c.fuses := rfl
@[simp] theorem Chip.setMem_sec (c : Chip) (x : Mem) : (c.setMem x).sec = c.sec := rfl
@[simp] theorem Chip.setMem_flash (c : Chip) (x : Mem) : (c.setMem x).flash = c.flash := rfl
@[simp] theorem Chip.setMem_rcu (c : Chip) (x : Mem) : (c.setMem x).rcu = c.rcu := rfl
@[simp] theorem Chip.setMem_out (c : Chip) (x : Mem) : (c.setMem x).out = c.out := rfl
@[simp] theorem Chip.setMem_fresh (c : Chip) (x : Mem) : (c.setMem x).fresh = c.fresh := rfl

/-! ### setInt -/

@[simp] theorem Chip.setInt_regs (c : Chip) (x : Integ) : (c.setInt x).regs = c.regs := rfl
@[simp] theorem Chip.setInt_act (c : Chip) (x : Integ) : (c.setInt x).act = c.act := rfl
@[simp] theorem Chip.setInt_latch (c : Chip) (x : Integ) : (c.setInt x).latch = c.latch := rfl
@[simp] theorem Chip.setInt_held (c : Chip) (x : Integ) : (c.setInt x).held = c.held := rfl
@[simp] theorem Chip.setInt_esc (c : Chip) (x : Integ) : (c.setInt x).esc = c.esc := rfl
@[simp] theorem Chip.setInt_elec (c : Chip) (x : Integ) : (c.setInt x).elec = c.elec := rfl
@[simp] theorem Chip.setInt_com (c : Chip) (x : Integ) : (c.setInt x).com = c.com := rfl
@[simp] theorem Chip.setInt_ext (c : Chip) (x : Integ) : (c.setInt x).ext = c.ext := rfl
@[simp] theorem Chip.setInt_rng (c : Chip) (x : Integ) : (c.setInt x).rng = c.rng := rfl
@[simp] theorem Chip.setInt_mem (c : Chip) (x : Integ) : (c.setInt x).mem = c.mem := rfl
@[simp] theorem Chip.setInt_lcc (c : Chip) (x : Integ) : (c.setInt x).lcc = c.lcc := rfl
@[simp] theorem Chip.setInt_stk (c : Chip) (x : Integ) : (c.setInt x).stk = c.stk := rfl
@[simp] theorem Chip.setInt_reg (c : Chip) (x : Integ) : (c.setInt x).reg = c.reg := rfl
@[simp] theorem Chip.setInt_int (c : Chip) (x : Integ) : (c.setInt x).int = x := rfl
@[simp] theorem Chip.setInt_red (c : Chip) (x : Integ) : (c.setInt x).red = c.red := rfl
@[simp] theorem Chip.setInt_slots (c : Chip) (x : Integ) : (c.setInt x).slots = c.slots := rfl
@[simp] theorem Chip.setInt_keys (c : Chip) (x : Integ) : (c.setInt x).keys = c.keys := rfl
@[simp] theorem Chip.setInt_scrubKey (c : Chip) (x : Integ) : (c.setInt x).scrubKey = c.scrubKey := rfl
@[simp] theorem Chip.setInt_pci (c : Chip) (x : Integ) : (c.setInt x).pci = c.pci := rfl
@[simp] theorem Chip.setInt_hostWait (c : Chip) (x : Integ) : (c.setInt x).hostWait = c.hostWait := rfl
@[simp] theorem Chip.setInt_coh (c : Chip) (x : Integ) : (c.setInt x).coh = c.coh := rfl
@[simp] theorem Chip.setInt_xlt (c : Chip) (x : Integ) : (c.setInt x).xlt = c.xlt := rfl
@[simp] theorem Chip.setInt_eng (c : Chip) (x : Integ) : (c.setInt x).eng = c.eng := rfl
@[simp] theorem Chip.setInt_kve (c : Chip) (x : Integ) : (c.setInt x).kve = c.kve := rfl
@[simp] theorem Chip.setInt_dbg (c : Chip) (x : Integ) : (c.setInt x).dbg = c.dbg := rfl
@[simp] theorem Chip.setInt_pwr (c : Chip) (x : Integ) : (c.setInt x).pwr = c.pwr := rfl
@[simp] theorem Chip.setInt_unbinds (c : Chip) (x : Integ) : (c.setInt x).unbinds = c.unbinds := rfl
@[simp] theorem Chip.setInt_links (c : Chip) (x : Integ) : (c.setInt x).links = c.links := rfl
@[simp] theorem Chip.setInt_inject (c : Chip) (x : Integ) : (c.setInt x).inject = c.inject := rfl
@[simp] theorem Chip.setInt_fuses (c : Chip) (x : Integ) : (c.setInt x).fuses = c.fuses := rfl
@[simp] theorem Chip.setInt_sec (c : Chip) (x : Integ) : (c.setInt x).sec = c.sec := rfl
@[simp] theorem Chip.setInt_flash (c : Chip) (x : Integ) : (c.setInt x).flash = c.flash := rfl
@[simp] theorem Chip.setInt_rcu (c : Chip) (x : Integ) : (c.setInt x).rcu = c.rcu := rfl
@[simp] theorem Chip.setInt_out (c : Chip) (x : Integ) : (c.setInt x).out = c.out := rfl
@[simp] theorem Chip.setInt_fresh (c : Chip) (x : Integ) : (c.setInt x).fresh = c.fresh := rfl

/-! ### setRed -/

@[simp] theorem Chip.setRed_regs (c : Chip) (x : Red) : (c.setRed x).regs = c.regs := rfl
@[simp] theorem Chip.setRed_act (c : Chip) (x : Red) : (c.setRed x).act = c.act := rfl
@[simp] theorem Chip.setRed_latch (c : Chip) (x : Red) : (c.setRed x).latch = c.latch := rfl
@[simp] theorem Chip.setRed_held (c : Chip) (x : Red) : (c.setRed x).held = c.held := rfl
@[simp] theorem Chip.setRed_esc (c : Chip) (x : Red) : (c.setRed x).esc = c.esc := rfl
@[simp] theorem Chip.setRed_elec (c : Chip) (x : Red) : (c.setRed x).elec = c.elec := rfl
@[simp] theorem Chip.setRed_com (c : Chip) (x : Red) : (c.setRed x).com = c.com := rfl
@[simp] theorem Chip.setRed_ext (c : Chip) (x : Red) : (c.setRed x).ext = c.ext := rfl
@[simp] theorem Chip.setRed_rng (c : Chip) (x : Red) : (c.setRed x).rng = c.rng := rfl
@[simp] theorem Chip.setRed_mem (c : Chip) (x : Red) : (c.setRed x).mem = c.mem := rfl
@[simp] theorem Chip.setRed_lcc (c : Chip) (x : Red) : (c.setRed x).lcc = c.lcc := rfl
@[simp] theorem Chip.setRed_stk (c : Chip) (x : Red) : (c.setRed x).stk = c.stk := rfl
@[simp] theorem Chip.setRed_reg (c : Chip) (x : Red) : (c.setRed x).reg = c.reg := rfl
@[simp] theorem Chip.setRed_int (c : Chip) (x : Red) : (c.setRed x).int = c.int := rfl
@[simp] theorem Chip.setRed_red (c : Chip) (x : Red) : (c.setRed x).red = x := rfl
@[simp] theorem Chip.setRed_slots (c : Chip) (x : Red) : (c.setRed x).slots = c.slots := rfl
@[simp] theorem Chip.setRed_keys (c : Chip) (x : Red) : (c.setRed x).keys = c.keys := rfl
@[simp] theorem Chip.setRed_scrubKey (c : Chip) (x : Red) : (c.setRed x).scrubKey = c.scrubKey := rfl
@[simp] theorem Chip.setRed_pci (c : Chip) (x : Red) : (c.setRed x).pci = c.pci := rfl
@[simp] theorem Chip.setRed_hostWait (c : Chip) (x : Red) : (c.setRed x).hostWait = c.hostWait := rfl
@[simp] theorem Chip.setRed_coh (c : Chip) (x : Red) : (c.setRed x).coh = c.coh := rfl
@[simp] theorem Chip.setRed_xlt (c : Chip) (x : Red) : (c.setRed x).xlt = c.xlt := rfl
@[simp] theorem Chip.setRed_eng (c : Chip) (x : Red) : (c.setRed x).eng = c.eng := rfl
@[simp] theorem Chip.setRed_kve (c : Chip) (x : Red) : (c.setRed x).kve = c.kve := rfl
@[simp] theorem Chip.setRed_dbg (c : Chip) (x : Red) : (c.setRed x).dbg = c.dbg := rfl
@[simp] theorem Chip.setRed_pwr (c : Chip) (x : Red) : (c.setRed x).pwr = c.pwr := rfl
@[simp] theorem Chip.setRed_unbinds (c : Chip) (x : Red) : (c.setRed x).unbinds = c.unbinds := rfl
@[simp] theorem Chip.setRed_links (c : Chip) (x : Red) : (c.setRed x).links = c.links := rfl
@[simp] theorem Chip.setRed_inject (c : Chip) (x : Red) : (c.setRed x).inject = c.inject := rfl
@[simp] theorem Chip.setRed_fuses (c : Chip) (x : Red) : (c.setRed x).fuses = c.fuses := rfl
@[simp] theorem Chip.setRed_sec (c : Chip) (x : Red) : (c.setRed x).sec = c.sec := rfl
@[simp] theorem Chip.setRed_flash (c : Chip) (x : Red) : (c.setRed x).flash = c.flash := rfl
@[simp] theorem Chip.setRed_rcu (c : Chip) (x : Red) : (c.setRed x).rcu = c.rcu := rfl
@[simp] theorem Chip.setRed_out (c : Chip) (x : Red) : (c.setRed x).out = c.out := rfl
@[simp] theorem Chip.setRed_fresh (c : Chip) (x : Red) : (c.setRed x).fresh = c.fresh := rfl

/-! ### setDbg -/

@[simp] theorem Chip.setDbg_regs (c : Chip) (x : Dbg) : (c.setDbg x).regs = c.regs := rfl
@[simp] theorem Chip.setDbg_act (c : Chip) (x : Dbg) : (c.setDbg x).act = c.act := rfl
@[simp] theorem Chip.setDbg_latch (c : Chip) (x : Dbg) : (c.setDbg x).latch = c.latch := rfl
@[simp] theorem Chip.setDbg_held (c : Chip) (x : Dbg) : (c.setDbg x).held = c.held := rfl
@[simp] theorem Chip.setDbg_esc (c : Chip) (x : Dbg) : (c.setDbg x).esc = c.esc := rfl
@[simp] theorem Chip.setDbg_elec (c : Chip) (x : Dbg) : (c.setDbg x).elec = c.elec := rfl
@[simp] theorem Chip.setDbg_com (c : Chip) (x : Dbg) : (c.setDbg x).com = c.com := rfl
@[simp] theorem Chip.setDbg_ext (c : Chip) (x : Dbg) : (c.setDbg x).ext = c.ext := rfl
@[simp] theorem Chip.setDbg_rng (c : Chip) (x : Dbg) : (c.setDbg x).rng = c.rng := rfl
@[simp] theorem Chip.setDbg_mem (c : Chip) (x : Dbg) : (c.setDbg x).mem = c.mem := rfl
@[simp] theorem Chip.setDbg_lcc (c : Chip) (x : Dbg) : (c.setDbg x).lcc = c.lcc := rfl
@[simp] theorem Chip.setDbg_stk (c : Chip) (x : Dbg) : (c.setDbg x).stk = c.stk := rfl
@[simp] theorem Chip.setDbg_reg (c : Chip) (x : Dbg) : (c.setDbg x).reg = c.reg := rfl
@[simp] theorem Chip.setDbg_int (c : Chip) (x : Dbg) : (c.setDbg x).int = c.int := rfl
@[simp] theorem Chip.setDbg_red (c : Chip) (x : Dbg) : (c.setDbg x).red = c.red := rfl
@[simp] theorem Chip.setDbg_slots (c : Chip) (x : Dbg) : (c.setDbg x).slots = c.slots := rfl
@[simp] theorem Chip.setDbg_keys (c : Chip) (x : Dbg) : (c.setDbg x).keys = c.keys := rfl
@[simp] theorem Chip.setDbg_scrubKey (c : Chip) (x : Dbg) : (c.setDbg x).scrubKey = c.scrubKey := rfl
@[simp] theorem Chip.setDbg_pci (c : Chip) (x : Dbg) : (c.setDbg x).pci = c.pci := rfl
@[simp] theorem Chip.setDbg_hostWait (c : Chip) (x : Dbg) : (c.setDbg x).hostWait = c.hostWait := rfl
@[simp] theorem Chip.setDbg_coh (c : Chip) (x : Dbg) : (c.setDbg x).coh = c.coh := rfl
@[simp] theorem Chip.setDbg_xlt (c : Chip) (x : Dbg) : (c.setDbg x).xlt = c.xlt := rfl
@[simp] theorem Chip.setDbg_eng (c : Chip) (x : Dbg) : (c.setDbg x).eng = c.eng := rfl
@[simp] theorem Chip.setDbg_kve (c : Chip) (x : Dbg) : (c.setDbg x).kve = c.kve := rfl
@[simp] theorem Chip.setDbg_dbg (c : Chip) (x : Dbg) : (c.setDbg x).dbg = x := rfl
@[simp] theorem Chip.setDbg_pwr (c : Chip) (x : Dbg) : (c.setDbg x).pwr = c.pwr := rfl
@[simp] theorem Chip.setDbg_unbinds (c : Chip) (x : Dbg) : (c.setDbg x).unbinds = c.unbinds := rfl
@[simp] theorem Chip.setDbg_links (c : Chip) (x : Dbg) : (c.setDbg x).links = c.links := rfl
@[simp] theorem Chip.setDbg_inject (c : Chip) (x : Dbg) : (c.setDbg x).inject = c.inject := rfl
@[simp] theorem Chip.setDbg_fuses (c : Chip) (x : Dbg) : (c.setDbg x).fuses = c.fuses := rfl
@[simp] theorem Chip.setDbg_sec (c : Chip) (x : Dbg) : (c.setDbg x).sec = c.sec := rfl
@[simp] theorem Chip.setDbg_flash (c : Chip) (x : Dbg) : (c.setDbg x).flash = c.flash := rfl
@[simp] theorem Chip.setDbg_rcu (c : Chip) (x : Dbg) : (c.setDbg x).rcu = c.rcu := rfl
@[simp] theorem Chip.setDbg_out (c : Chip) (x : Dbg) : (c.setDbg x).out = c.out := rfl
@[simp] theorem Chip.setDbg_fresh (c : Chip) (x : Dbg) : (c.setDbg x).fresh = c.fresh := rfl

/-! ### setPci -/

@[simp] theorem Chip.setPci_regs (c : Chip) (x : Pci) : (c.setPci x).regs = c.regs := rfl
@[simp] theorem Chip.setPci_act (c : Chip) (x : Pci) : (c.setPci x).act = c.act := rfl
@[simp] theorem Chip.setPci_latch (c : Chip) (x : Pci) : (c.setPci x).latch = c.latch := rfl
@[simp] theorem Chip.setPci_held (c : Chip) (x : Pci) : (c.setPci x).held = c.held := rfl
@[simp] theorem Chip.setPci_esc (c : Chip) (x : Pci) : (c.setPci x).esc = c.esc := rfl
@[simp] theorem Chip.setPci_elec (c : Chip) (x : Pci) : (c.setPci x).elec = c.elec := rfl
@[simp] theorem Chip.setPci_com (c : Chip) (x : Pci) : (c.setPci x).com = c.com := rfl
@[simp] theorem Chip.setPci_ext (c : Chip) (x : Pci) : (c.setPci x).ext = c.ext := rfl
@[simp] theorem Chip.setPci_rng (c : Chip) (x : Pci) : (c.setPci x).rng = c.rng := rfl
@[simp] theorem Chip.setPci_mem (c : Chip) (x : Pci) : (c.setPci x).mem = c.mem := rfl
@[simp] theorem Chip.setPci_lcc (c : Chip) (x : Pci) : (c.setPci x).lcc = c.lcc := rfl
@[simp] theorem Chip.setPci_stk (c : Chip) (x : Pci) : (c.setPci x).stk = c.stk := rfl
@[simp] theorem Chip.setPci_reg (c : Chip) (x : Pci) : (c.setPci x).reg = c.reg := rfl
@[simp] theorem Chip.setPci_int (c : Chip) (x : Pci) : (c.setPci x).int = c.int := rfl
@[simp] theorem Chip.setPci_red (c : Chip) (x : Pci) : (c.setPci x).red = c.red := rfl
@[simp] theorem Chip.setPci_slots (c : Chip) (x : Pci) : (c.setPci x).slots = c.slots := rfl
@[simp] theorem Chip.setPci_keys (c : Chip) (x : Pci) : (c.setPci x).keys = c.keys := rfl
@[simp] theorem Chip.setPci_scrubKey (c : Chip) (x : Pci) : (c.setPci x).scrubKey = c.scrubKey := rfl
@[simp] theorem Chip.setPci_pci (c : Chip) (x : Pci) : (c.setPci x).pci = x := rfl
@[simp] theorem Chip.setPci_hostWait (c : Chip) (x : Pci) : (c.setPci x).hostWait = c.hostWait := rfl
@[simp] theorem Chip.setPci_coh (c : Chip) (x : Pci) : (c.setPci x).coh = c.coh := rfl
@[simp] theorem Chip.setPci_xlt (c : Chip) (x : Pci) : (c.setPci x).xlt = c.xlt := rfl
@[simp] theorem Chip.setPci_eng (c : Chip) (x : Pci) : (c.setPci x).eng = c.eng := rfl
@[simp] theorem Chip.setPci_kve (c : Chip) (x : Pci) : (c.setPci x).kve = c.kve := rfl
@[simp] theorem Chip.setPci_dbg (c : Chip) (x : Pci) : (c.setPci x).dbg = c.dbg := rfl
@[simp] theorem Chip.setPci_pwr (c : Chip) (x : Pci) : (c.setPci x).pwr = c.pwr := rfl
@[simp] theorem Chip.setPci_unbinds (c : Chip) (x : Pci) : (c.setPci x).unbinds = c.unbinds := rfl
@[simp] theorem Chip.setPci_links (c : Chip) (x : Pci) : (c.setPci x).links = c.links := rfl
@[simp] theorem Chip.setPci_inject (c : Chip) (x : Pci) : (c.setPci x).inject = c.inject := rfl
@[simp] theorem Chip.setPci_fuses (c : Chip) (x : Pci) : (c.setPci x).fuses = c.fuses := rfl
@[simp] theorem Chip.setPci_sec (c : Chip) (x : Pci) : (c.setPci x).sec = c.sec := rfl
@[simp] theorem Chip.setPci_flash (c : Chip) (x : Pci) : (c.setPci x).flash = c.flash := rfl
@[simp] theorem Chip.setPci_rcu (c : Chip) (x : Pci) : (c.setPci x).rcu = c.rcu := rfl
@[simp] theorem Chip.setPci_out (c : Chip) (x : Pci) : (c.setPci x).out = c.out := rfl
@[simp] theorem Chip.setPci_fresh (c : Chip) (x : Pci) : (c.setPci x).fresh = c.fresh := rfl

/-! ### setCoh -/

@[simp] theorem Chip.setCoh_regs (c : Chip) (x : Coh) : (c.setCoh x).regs = c.regs := rfl
@[simp] theorem Chip.setCoh_act (c : Chip) (x : Coh) : (c.setCoh x).act = c.act := rfl
@[simp] theorem Chip.setCoh_latch (c : Chip) (x : Coh) : (c.setCoh x).latch = c.latch := rfl
@[simp] theorem Chip.setCoh_held (c : Chip) (x : Coh) : (c.setCoh x).held = c.held := rfl
@[simp] theorem Chip.setCoh_esc (c : Chip) (x : Coh) : (c.setCoh x).esc = c.esc := rfl
@[simp] theorem Chip.setCoh_elec (c : Chip) (x : Coh) : (c.setCoh x).elec = c.elec := rfl
@[simp] theorem Chip.setCoh_com (c : Chip) (x : Coh) : (c.setCoh x).com = c.com := rfl
@[simp] theorem Chip.setCoh_ext (c : Chip) (x : Coh) : (c.setCoh x).ext = c.ext := rfl
@[simp] theorem Chip.setCoh_rng (c : Chip) (x : Coh) : (c.setCoh x).rng = c.rng := rfl
@[simp] theorem Chip.setCoh_mem (c : Chip) (x : Coh) : (c.setCoh x).mem = c.mem := rfl
@[simp] theorem Chip.setCoh_lcc (c : Chip) (x : Coh) : (c.setCoh x).lcc = c.lcc := rfl
@[simp] theorem Chip.setCoh_stk (c : Chip) (x : Coh) : (c.setCoh x).stk = c.stk := rfl
@[simp] theorem Chip.setCoh_reg (c : Chip) (x : Coh) : (c.setCoh x).reg = c.reg := rfl
@[simp] theorem Chip.setCoh_int (c : Chip) (x : Coh) : (c.setCoh x).int = c.int := rfl
@[simp] theorem Chip.setCoh_red (c : Chip) (x : Coh) : (c.setCoh x).red = c.red := rfl
@[simp] theorem Chip.setCoh_slots (c : Chip) (x : Coh) : (c.setCoh x).slots = c.slots := rfl
@[simp] theorem Chip.setCoh_keys (c : Chip) (x : Coh) : (c.setCoh x).keys = c.keys := rfl
@[simp] theorem Chip.setCoh_scrubKey (c : Chip) (x : Coh) : (c.setCoh x).scrubKey = c.scrubKey := rfl
@[simp] theorem Chip.setCoh_pci (c : Chip) (x : Coh) : (c.setCoh x).pci = c.pci := rfl
@[simp] theorem Chip.setCoh_hostWait (c : Chip) (x : Coh) : (c.setCoh x).hostWait = c.hostWait := rfl
@[simp] theorem Chip.setCoh_coh (c : Chip) (x : Coh) : (c.setCoh x).coh = x := rfl
@[simp] theorem Chip.setCoh_xlt (c : Chip) (x : Coh) : (c.setCoh x).xlt = c.xlt := rfl
@[simp] theorem Chip.setCoh_eng (c : Chip) (x : Coh) : (c.setCoh x).eng = c.eng := rfl
@[simp] theorem Chip.setCoh_kve (c : Chip) (x : Coh) : (c.setCoh x).kve = c.kve := rfl
@[simp] theorem Chip.setCoh_dbg (c : Chip) (x : Coh) : (c.setCoh x).dbg = c.dbg := rfl
@[simp] theorem Chip.setCoh_pwr (c : Chip) (x : Coh) : (c.setCoh x).pwr = c.pwr := rfl
@[simp] theorem Chip.setCoh_unbinds (c : Chip) (x : Coh) : (c.setCoh x).unbinds = c.unbinds := rfl
@[simp] theorem Chip.setCoh_links (c : Chip) (x : Coh) : (c.setCoh x).links = c.links := rfl
@[simp] theorem Chip.setCoh_inject (c : Chip) (x : Coh) : (c.setCoh x).inject = c.inject := rfl
@[simp] theorem Chip.setCoh_fuses (c : Chip) (x : Coh) : (c.setCoh x).fuses = c.fuses := rfl
@[simp] theorem Chip.setCoh_sec (c : Chip) (x : Coh) : (c.setCoh x).sec = c.sec := rfl
@[simp] theorem Chip.setCoh_flash (c : Chip) (x : Coh) : (c.setCoh x).flash = c.flash := rfl
@[simp] theorem Chip.setCoh_rcu (c : Chip) (x : Coh) : (c.setCoh x).rcu = c.rcu := rfl
@[simp] theorem Chip.setCoh_out (c : Chip) (x : Coh) : (c.setCoh x).out = c.out := rfl
@[simp] theorem Chip.setCoh_fresh (c : Chip) (x : Coh) : (c.setCoh x).fresh = c.fresh := rfl

/-! ### setXlt -/

@[simp] theorem Chip.setXlt_regs (c : Chip) (x : Xlt) : (c.setXlt x).regs = c.regs := rfl
@[simp] theorem Chip.setXlt_act (c : Chip) (x : Xlt) : (c.setXlt x).act = c.act := rfl
@[simp] theorem Chip.setXlt_latch (c : Chip) (x : Xlt) : (c.setXlt x).latch = c.latch := rfl
@[simp] theorem Chip.setXlt_held (c : Chip) (x : Xlt) : (c.setXlt x).held = c.held := rfl
@[simp] theorem Chip.setXlt_esc (c : Chip) (x : Xlt) : (c.setXlt x).esc = c.esc := rfl
@[simp] theorem Chip.setXlt_elec (c : Chip) (x : Xlt) : (c.setXlt x).elec = c.elec := rfl
@[simp] theorem Chip.setXlt_com (c : Chip) (x : Xlt) : (c.setXlt x).com = c.com := rfl
@[simp] theorem Chip.setXlt_ext (c : Chip) (x : Xlt) : (c.setXlt x).ext = c.ext := rfl
@[simp] theorem Chip.setXlt_rng (c : Chip) (x : Xlt) : (c.setXlt x).rng = c.rng := rfl
@[simp] theorem Chip.setXlt_mem (c : Chip) (x : Xlt) : (c.setXlt x).mem = c.mem := rfl
@[simp] theorem Chip.setXlt_lcc (c : Chip) (x : Xlt) : (c.setXlt x).lcc = c.lcc := rfl
@[simp] theorem Chip.setXlt_stk (c : Chip) (x : Xlt) : (c.setXlt x).stk = c.stk := rfl
@[simp] theorem Chip.setXlt_reg (c : Chip) (x : Xlt) : (c.setXlt x).reg = c.reg := rfl
@[simp] theorem Chip.setXlt_int (c : Chip) (x : Xlt) : (c.setXlt x).int = c.int := rfl
@[simp] theorem Chip.setXlt_red (c : Chip) (x : Xlt) : (c.setXlt x).red = c.red := rfl
@[simp] theorem Chip.setXlt_slots (c : Chip) (x : Xlt) : (c.setXlt x).slots = c.slots := rfl
@[simp] theorem Chip.setXlt_keys (c : Chip) (x : Xlt) : (c.setXlt x).keys = c.keys := rfl
@[simp] theorem Chip.setXlt_scrubKey (c : Chip) (x : Xlt) : (c.setXlt x).scrubKey = c.scrubKey := rfl
@[simp] theorem Chip.setXlt_pci (c : Chip) (x : Xlt) : (c.setXlt x).pci = c.pci := rfl
@[simp] theorem Chip.setXlt_hostWait (c : Chip) (x : Xlt) : (c.setXlt x).hostWait = c.hostWait := rfl
@[simp] theorem Chip.setXlt_coh (c : Chip) (x : Xlt) : (c.setXlt x).coh = c.coh := rfl
@[simp] theorem Chip.setXlt_xlt (c : Chip) (x : Xlt) : (c.setXlt x).xlt = x := rfl
@[simp] theorem Chip.setXlt_eng (c : Chip) (x : Xlt) : (c.setXlt x).eng = c.eng := rfl
@[simp] theorem Chip.setXlt_kve (c : Chip) (x : Xlt) : (c.setXlt x).kve = c.kve := rfl
@[simp] theorem Chip.setXlt_dbg (c : Chip) (x : Xlt) : (c.setXlt x).dbg = c.dbg := rfl
@[simp] theorem Chip.setXlt_pwr (c : Chip) (x : Xlt) : (c.setXlt x).pwr = c.pwr := rfl
@[simp] theorem Chip.setXlt_unbinds (c : Chip) (x : Xlt) : (c.setXlt x).unbinds = c.unbinds := rfl
@[simp] theorem Chip.setXlt_links (c : Chip) (x : Xlt) : (c.setXlt x).links = c.links := rfl
@[simp] theorem Chip.setXlt_inject (c : Chip) (x : Xlt) : (c.setXlt x).inject = c.inject := rfl
@[simp] theorem Chip.setXlt_fuses (c : Chip) (x : Xlt) : (c.setXlt x).fuses = c.fuses := rfl
@[simp] theorem Chip.setXlt_sec (c : Chip) (x : Xlt) : (c.setXlt x).sec = c.sec := rfl
@[simp] theorem Chip.setXlt_flash (c : Chip) (x : Xlt) : (c.setXlt x).flash = c.flash := rfl
@[simp] theorem Chip.setXlt_rcu (c : Chip) (x : Xlt) : (c.setXlt x).rcu = c.rcu := rfl
@[simp] theorem Chip.setXlt_out (c : Chip) (x : Xlt) : (c.setXlt x).out = c.out := rfl
@[simp] theorem Chip.setXlt_fresh (c : Chip) (x : Xlt) : (c.setXlt x).fresh = c.fresh := rfl

/-! ### setEng -/

@[simp] theorem Chip.setEng_regs (c : Chip) (x : Eng) : (c.setEng x).regs = c.regs := rfl
@[simp] theorem Chip.setEng_act (c : Chip) (x : Eng) : (c.setEng x).act = c.act := rfl
@[simp] theorem Chip.setEng_latch (c : Chip) (x : Eng) : (c.setEng x).latch = c.latch := rfl
@[simp] theorem Chip.setEng_held (c : Chip) (x : Eng) : (c.setEng x).held = c.held := rfl
@[simp] theorem Chip.setEng_esc (c : Chip) (x : Eng) : (c.setEng x).esc = c.esc := rfl
@[simp] theorem Chip.setEng_elec (c : Chip) (x : Eng) : (c.setEng x).elec = c.elec := rfl
@[simp] theorem Chip.setEng_com (c : Chip) (x : Eng) : (c.setEng x).com = c.com := rfl
@[simp] theorem Chip.setEng_ext (c : Chip) (x : Eng) : (c.setEng x).ext = c.ext := rfl
@[simp] theorem Chip.setEng_rng (c : Chip) (x : Eng) : (c.setEng x).rng = c.rng := rfl
@[simp] theorem Chip.setEng_mem (c : Chip) (x : Eng) : (c.setEng x).mem = c.mem := rfl
@[simp] theorem Chip.setEng_lcc (c : Chip) (x : Eng) : (c.setEng x).lcc = c.lcc := rfl
@[simp] theorem Chip.setEng_stk (c : Chip) (x : Eng) : (c.setEng x).stk = c.stk := rfl
@[simp] theorem Chip.setEng_reg (c : Chip) (x : Eng) : (c.setEng x).reg = c.reg := rfl
@[simp] theorem Chip.setEng_int (c : Chip) (x : Eng) : (c.setEng x).int = c.int := rfl
@[simp] theorem Chip.setEng_red (c : Chip) (x : Eng) : (c.setEng x).red = c.red := rfl
@[simp] theorem Chip.setEng_slots (c : Chip) (x : Eng) : (c.setEng x).slots = c.slots := rfl
@[simp] theorem Chip.setEng_keys (c : Chip) (x : Eng) : (c.setEng x).keys = c.keys := rfl
@[simp] theorem Chip.setEng_scrubKey (c : Chip) (x : Eng) : (c.setEng x).scrubKey = c.scrubKey := rfl
@[simp] theorem Chip.setEng_pci (c : Chip) (x : Eng) : (c.setEng x).pci = c.pci := rfl
@[simp] theorem Chip.setEng_hostWait (c : Chip) (x : Eng) : (c.setEng x).hostWait = c.hostWait := rfl
@[simp] theorem Chip.setEng_coh (c : Chip) (x : Eng) : (c.setEng x).coh = c.coh := rfl
@[simp] theorem Chip.setEng_xlt (c : Chip) (x : Eng) : (c.setEng x).xlt = c.xlt := rfl
@[simp] theorem Chip.setEng_eng (c : Chip) (x : Eng) : (c.setEng x).eng = x := rfl
@[simp] theorem Chip.setEng_kve (c : Chip) (x : Eng) : (c.setEng x).kve = c.kve := rfl
@[simp] theorem Chip.setEng_dbg (c : Chip) (x : Eng) : (c.setEng x).dbg = c.dbg := rfl
@[simp] theorem Chip.setEng_pwr (c : Chip) (x : Eng) : (c.setEng x).pwr = c.pwr := rfl
@[simp] theorem Chip.setEng_unbinds (c : Chip) (x : Eng) : (c.setEng x).unbinds = c.unbinds := rfl
@[simp] theorem Chip.setEng_links (c : Chip) (x : Eng) : (c.setEng x).links = c.links := rfl
@[simp] theorem Chip.setEng_inject (c : Chip) (x : Eng) : (c.setEng x).inject = c.inject := rfl
@[simp] theorem Chip.setEng_fuses (c : Chip) (x : Eng) : (c.setEng x).fuses = c.fuses := rfl
@[simp] theorem Chip.setEng_sec (c : Chip) (x : Eng) : (c.setEng x).sec = c.sec := rfl
@[simp] theorem Chip.setEng_flash (c : Chip) (x : Eng) : (c.setEng x).flash = c.flash := rfl
@[simp] theorem Chip.setEng_rcu (c : Chip) (x : Eng) : (c.setEng x).rcu = c.rcu := rfl
@[simp] theorem Chip.setEng_out (c : Chip) (x : Eng) : (c.setEng x).out = c.out := rfl
@[simp] theorem Chip.setEng_fresh (c : Chip) (x : Eng) : (c.setEng x).fresh = c.fresh := rfl

/-! ### setKve -/

@[simp] theorem Chip.setKve_regs (c : Chip) (x : Kve) : (c.setKve x).regs = c.regs := rfl
@[simp] theorem Chip.setKve_act (c : Chip) (x : Kve) : (c.setKve x).act = c.act := rfl
@[simp] theorem Chip.setKve_latch (c : Chip) (x : Kve) : (c.setKve x).latch = c.latch := rfl
@[simp] theorem Chip.setKve_held (c : Chip) (x : Kve) : (c.setKve x).held = c.held := rfl
@[simp] theorem Chip.setKve_esc (c : Chip) (x : Kve) : (c.setKve x).esc = c.esc := rfl
@[simp] theorem Chip.setKve_elec (c : Chip) (x : Kve) : (c.setKve x).elec = c.elec := rfl
@[simp] theorem Chip.setKve_com (c : Chip) (x : Kve) : (c.setKve x).com = c.com := rfl
@[simp] theorem Chip.setKve_ext (c : Chip) (x : Kve) : (c.setKve x).ext = c.ext := rfl
@[simp] theorem Chip.setKve_rng (c : Chip) (x : Kve) : (c.setKve x).rng = c.rng := rfl
@[simp] theorem Chip.setKve_mem (c : Chip) (x : Kve) : (c.setKve x).mem = c.mem := rfl
@[simp] theorem Chip.setKve_lcc (c : Chip) (x : Kve) : (c.setKve x).lcc = c.lcc := rfl
@[simp] theorem Chip.setKve_stk (c : Chip) (x : Kve) : (c.setKve x).stk = c.stk := rfl
@[simp] theorem Chip.setKve_reg (c : Chip) (x : Kve) : (c.setKve x).reg = c.reg := rfl
@[simp] theorem Chip.setKve_int (c : Chip) (x : Kve) : (c.setKve x).int = c.int := rfl
@[simp] theorem Chip.setKve_red (c : Chip) (x : Kve) : (c.setKve x).red = c.red := rfl
@[simp] theorem Chip.setKve_slots (c : Chip) (x : Kve) : (c.setKve x).slots = c.slots := rfl
@[simp] theorem Chip.setKve_keys (c : Chip) (x : Kve) : (c.setKve x).keys = c.keys := rfl
@[simp] theorem Chip.setKve_scrubKey (c : Chip) (x : Kve) : (c.setKve x).scrubKey = c.scrubKey := rfl
@[simp] theorem Chip.setKve_pci (c : Chip) (x : Kve) : (c.setKve x).pci = c.pci := rfl
@[simp] theorem Chip.setKve_hostWait (c : Chip) (x : Kve) : (c.setKve x).hostWait = c.hostWait := rfl
@[simp] theorem Chip.setKve_coh (c : Chip) (x : Kve) : (c.setKve x).coh = c.coh := rfl
@[simp] theorem Chip.setKve_xlt (c : Chip) (x : Kve) : (c.setKve x).xlt = c.xlt := rfl
@[simp] theorem Chip.setKve_eng (c : Chip) (x : Kve) : (c.setKve x).eng = c.eng := rfl
@[simp] theorem Chip.setKve_kve (c : Chip) (x : Kve) : (c.setKve x).kve = x := rfl
@[simp] theorem Chip.setKve_dbg (c : Chip) (x : Kve) : (c.setKve x).dbg = c.dbg := rfl
@[simp] theorem Chip.setKve_pwr (c : Chip) (x : Kve) : (c.setKve x).pwr = c.pwr := rfl
@[simp] theorem Chip.setKve_unbinds (c : Chip) (x : Kve) : (c.setKve x).unbinds = c.unbinds := rfl
@[simp] theorem Chip.setKve_links (c : Chip) (x : Kve) : (c.setKve x).links = c.links := rfl
@[simp] theorem Chip.setKve_inject (c : Chip) (x : Kve) : (c.setKve x).inject = c.inject := rfl
@[simp] theorem Chip.setKve_fuses (c : Chip) (x : Kve) : (c.setKve x).fuses = c.fuses := rfl
@[simp] theorem Chip.setKve_sec (c : Chip) (x : Kve) : (c.setKve x).sec = c.sec := rfl
@[simp] theorem Chip.setKve_flash (c : Chip) (x : Kve) : (c.setKve x).flash = c.flash := rfl
@[simp] theorem Chip.setKve_rcu (c : Chip) (x : Kve) : (c.setKve x).rcu = c.rcu := rfl
@[simp] theorem Chip.setKve_out (c : Chip) (x : Kve) : (c.setKve x).out = c.out := rfl
@[simp] theorem Chip.setKve_fresh (c : Chip) (x : Kve) : (c.setKve x).fresh = c.fresh := rfl

/-! ### setPwr -/

@[simp] theorem Chip.setPwr_regs (c : Chip) (x : Pwr) : (c.setPwr x).regs = c.regs := rfl
@[simp] theorem Chip.setPwr_act (c : Chip) (x : Pwr) : (c.setPwr x).act = c.act := rfl
@[simp] theorem Chip.setPwr_latch (c : Chip) (x : Pwr) : (c.setPwr x).latch = c.latch := rfl
@[simp] theorem Chip.setPwr_held (c : Chip) (x : Pwr) : (c.setPwr x).held = c.held := rfl
@[simp] theorem Chip.setPwr_esc (c : Chip) (x : Pwr) : (c.setPwr x).esc = c.esc := rfl
@[simp] theorem Chip.setPwr_elec (c : Chip) (x : Pwr) : (c.setPwr x).elec = c.elec := rfl
@[simp] theorem Chip.setPwr_com (c : Chip) (x : Pwr) : (c.setPwr x).com = c.com := rfl
@[simp] theorem Chip.setPwr_ext (c : Chip) (x : Pwr) : (c.setPwr x).ext = c.ext := rfl
@[simp] theorem Chip.setPwr_rng (c : Chip) (x : Pwr) : (c.setPwr x).rng = c.rng := rfl
@[simp] theorem Chip.setPwr_mem (c : Chip) (x : Pwr) : (c.setPwr x).mem = c.mem := rfl
@[simp] theorem Chip.setPwr_lcc (c : Chip) (x : Pwr) : (c.setPwr x).lcc = c.lcc := rfl
@[simp] theorem Chip.setPwr_stk (c : Chip) (x : Pwr) : (c.setPwr x).stk = c.stk := rfl
@[simp] theorem Chip.setPwr_reg (c : Chip) (x : Pwr) : (c.setPwr x).reg = c.reg := rfl
@[simp] theorem Chip.setPwr_int (c : Chip) (x : Pwr) : (c.setPwr x).int = c.int := rfl
@[simp] theorem Chip.setPwr_red (c : Chip) (x : Pwr) : (c.setPwr x).red = c.red := rfl
@[simp] theorem Chip.setPwr_slots (c : Chip) (x : Pwr) : (c.setPwr x).slots = c.slots := rfl
@[simp] theorem Chip.setPwr_keys (c : Chip) (x : Pwr) : (c.setPwr x).keys = c.keys := rfl
@[simp] theorem Chip.setPwr_scrubKey (c : Chip) (x : Pwr) : (c.setPwr x).scrubKey = c.scrubKey := rfl
@[simp] theorem Chip.setPwr_pci (c : Chip) (x : Pwr) : (c.setPwr x).pci = c.pci := rfl
@[simp] theorem Chip.setPwr_hostWait (c : Chip) (x : Pwr) : (c.setPwr x).hostWait = c.hostWait := rfl
@[simp] theorem Chip.setPwr_coh (c : Chip) (x : Pwr) : (c.setPwr x).coh = c.coh := rfl
@[simp] theorem Chip.setPwr_xlt (c : Chip) (x : Pwr) : (c.setPwr x).xlt = c.xlt := rfl
@[simp] theorem Chip.setPwr_eng (c : Chip) (x : Pwr) : (c.setPwr x).eng = c.eng := rfl
@[simp] theorem Chip.setPwr_kve (c : Chip) (x : Pwr) : (c.setPwr x).kve = c.kve := rfl
@[simp] theorem Chip.setPwr_dbg (c : Chip) (x : Pwr) : (c.setPwr x).dbg = c.dbg := rfl
@[simp] theorem Chip.setPwr_pwr (c : Chip) (x : Pwr) : (c.setPwr x).pwr = x := rfl
@[simp] theorem Chip.setPwr_unbinds (c : Chip) (x : Pwr) : (c.setPwr x).unbinds = c.unbinds := rfl
@[simp] theorem Chip.setPwr_links (c : Chip) (x : Pwr) : (c.setPwr x).links = c.links := rfl
@[simp] theorem Chip.setPwr_inject (c : Chip) (x : Pwr) : (c.setPwr x).inject = c.inject := rfl
@[simp] theorem Chip.setPwr_fuses (c : Chip) (x : Pwr) : (c.setPwr x).fuses = c.fuses := rfl
@[simp] theorem Chip.setPwr_sec (c : Chip) (x : Pwr) : (c.setPwr x).sec = c.sec := rfl
@[simp] theorem Chip.setPwr_flash (c : Chip) (x : Pwr) : (c.setPwr x).flash = c.flash := rfl
@[simp] theorem Chip.setPwr_rcu (c : Chip) (x : Pwr) : (c.setPwr x).rcu = c.rcu := rfl
@[simp] theorem Chip.setPwr_out (c : Chip) (x : Pwr) : (c.setPwr x).out = c.out := rfl
@[simp] theorem Chip.setPwr_fresh (c : Chip) (x : Pwr) : (c.setPwr x).fresh = c.fresh := rfl

/-! ### setSec -/

@[simp] theorem Chip.setSec_regs (c : Chip) (x : Sec) : (c.setSec x).regs = c.regs := rfl
@[simp] theorem Chip.setSec_act (c : Chip) (x : Sec) : (c.setSec x).act = c.act := rfl
@[simp] theorem Chip.setSec_latch (c : Chip) (x : Sec) : (c.setSec x).latch = c.latch := rfl
@[simp] theorem Chip.setSec_held (c : Chip) (x : Sec) : (c.setSec x).held = c.held := rfl
@[simp] theorem Chip.setSec_esc (c : Chip) (x : Sec) : (c.setSec x).esc = c.esc := rfl
@[simp] theorem Chip.setSec_elec (c : Chip) (x : Sec) : (c.setSec x).elec = c.elec := rfl
@[simp] theorem Chip.setSec_com (c : Chip) (x : Sec) : (c.setSec x).com = c.com := rfl
@[simp] theorem Chip.setSec_ext (c : Chip) (x : Sec) : (c.setSec x).ext = c.ext := rfl
@[simp] theorem Chip.setSec_rng (c : Chip) (x : Sec) : (c.setSec x).rng = c.rng := rfl
@[simp] theorem Chip.setSec_mem (c : Chip) (x : Sec) : (c.setSec x).mem = c.mem := rfl
@[simp] theorem Chip.setSec_lcc (c : Chip) (x : Sec) : (c.setSec x).lcc = c.lcc := rfl
@[simp] theorem Chip.setSec_stk (c : Chip) (x : Sec) : (c.setSec x).stk = c.stk := rfl
@[simp] theorem Chip.setSec_reg (c : Chip) (x : Sec) : (c.setSec x).reg = c.reg := rfl
@[simp] theorem Chip.setSec_int (c : Chip) (x : Sec) : (c.setSec x).int = c.int := rfl
@[simp] theorem Chip.setSec_red (c : Chip) (x : Sec) : (c.setSec x).red = c.red := rfl
@[simp] theorem Chip.setSec_slots (c : Chip) (x : Sec) : (c.setSec x).slots = c.slots := rfl
@[simp] theorem Chip.setSec_keys (c : Chip) (x : Sec) : (c.setSec x).keys = c.keys := rfl
@[simp] theorem Chip.setSec_scrubKey (c : Chip) (x : Sec) : (c.setSec x).scrubKey = c.scrubKey := rfl
@[simp] theorem Chip.setSec_pci (c : Chip) (x : Sec) : (c.setSec x).pci = c.pci := rfl
@[simp] theorem Chip.setSec_hostWait (c : Chip) (x : Sec) : (c.setSec x).hostWait = c.hostWait := rfl
@[simp] theorem Chip.setSec_coh (c : Chip) (x : Sec) : (c.setSec x).coh = c.coh := rfl
@[simp] theorem Chip.setSec_xlt (c : Chip) (x : Sec) : (c.setSec x).xlt = c.xlt := rfl
@[simp] theorem Chip.setSec_eng (c : Chip) (x : Sec) : (c.setSec x).eng = c.eng := rfl
@[simp] theorem Chip.setSec_kve (c : Chip) (x : Sec) : (c.setSec x).kve = c.kve := rfl
@[simp] theorem Chip.setSec_dbg (c : Chip) (x : Sec) : (c.setSec x).dbg = c.dbg := rfl
@[simp] theorem Chip.setSec_pwr (c : Chip) (x : Sec) : (c.setSec x).pwr = c.pwr := rfl
@[simp] theorem Chip.setSec_unbinds (c : Chip) (x : Sec) : (c.setSec x).unbinds = c.unbinds := rfl
@[simp] theorem Chip.setSec_links (c : Chip) (x : Sec) : (c.setSec x).links = c.links := rfl
@[simp] theorem Chip.setSec_inject (c : Chip) (x : Sec) : (c.setSec x).inject = c.inject := rfl
@[simp] theorem Chip.setSec_fuses (c : Chip) (x : Sec) : (c.setSec x).fuses = c.fuses := rfl
@[simp] theorem Chip.setSec_sec (c : Chip) (x : Sec) : (c.setSec x).sec = x := rfl
@[simp] theorem Chip.setSec_flash (c : Chip) (x : Sec) : (c.setSec x).flash = c.flash := rfl
@[simp] theorem Chip.setSec_rcu (c : Chip) (x : Sec) : (c.setSec x).rcu = c.rcu := rfl
@[simp] theorem Chip.setSec_out (c : Chip) (x : Sec) : (c.setSec x).out = c.out := rfl
@[simp] theorem Chip.setSec_fresh (c : Chip) (x : Sec) : (c.setSec x).fresh = c.fresh := rfl

/-! ### setFuses -/

@[simp] theorem Chip.setFuses_regs (c : Chip) (x : Fuses) : (c.setFuses x).regs = c.regs := rfl
@[simp] theorem Chip.setFuses_act (c : Chip) (x : Fuses) : (c.setFuses x).act = c.act := rfl
@[simp] theorem Chip.setFuses_latch (c : Chip) (x : Fuses) : (c.setFuses x).latch = c.latch := rfl
@[simp] theorem Chip.setFuses_held (c : Chip) (x : Fuses) : (c.setFuses x).held = c.held := rfl
@[simp] theorem Chip.setFuses_esc (c : Chip) (x : Fuses) : (c.setFuses x).esc = c.esc := rfl
@[simp] theorem Chip.setFuses_elec (c : Chip) (x : Fuses) : (c.setFuses x).elec = c.elec := rfl
@[simp] theorem Chip.setFuses_com (c : Chip) (x : Fuses) : (c.setFuses x).com = c.com := rfl
@[simp] theorem Chip.setFuses_ext (c : Chip) (x : Fuses) : (c.setFuses x).ext = c.ext := rfl
@[simp] theorem Chip.setFuses_rng (c : Chip) (x : Fuses) : (c.setFuses x).rng = c.rng := rfl
@[simp] theorem Chip.setFuses_mem (c : Chip) (x : Fuses) : (c.setFuses x).mem = c.mem := rfl
@[simp] theorem Chip.setFuses_lcc (c : Chip) (x : Fuses) : (c.setFuses x).lcc = c.lcc := rfl
@[simp] theorem Chip.setFuses_stk (c : Chip) (x : Fuses) : (c.setFuses x).stk = c.stk := rfl
@[simp] theorem Chip.setFuses_reg (c : Chip) (x : Fuses) : (c.setFuses x).reg = c.reg := rfl
@[simp] theorem Chip.setFuses_int (c : Chip) (x : Fuses) : (c.setFuses x).int = c.int := rfl
@[simp] theorem Chip.setFuses_red (c : Chip) (x : Fuses) : (c.setFuses x).red = c.red := rfl
@[simp] theorem Chip.setFuses_slots (c : Chip) (x : Fuses) : (c.setFuses x).slots = c.slots := rfl
@[simp] theorem Chip.setFuses_keys (c : Chip) (x : Fuses) : (c.setFuses x).keys = c.keys := rfl
@[simp] theorem Chip.setFuses_scrubKey (c : Chip) (x : Fuses) : (c.setFuses x).scrubKey = c.scrubKey := rfl
@[simp] theorem Chip.setFuses_pci (c : Chip) (x : Fuses) : (c.setFuses x).pci = c.pci := rfl
@[simp] theorem Chip.setFuses_hostWait (c : Chip) (x : Fuses) : (c.setFuses x).hostWait = c.hostWait := rfl
@[simp] theorem Chip.setFuses_coh (c : Chip) (x : Fuses) : (c.setFuses x).coh = c.coh := rfl
@[simp] theorem Chip.setFuses_xlt (c : Chip) (x : Fuses) : (c.setFuses x).xlt = c.xlt := rfl
@[simp] theorem Chip.setFuses_eng (c : Chip) (x : Fuses) : (c.setFuses x).eng = c.eng := rfl
@[simp] theorem Chip.setFuses_kve (c : Chip) (x : Fuses) : (c.setFuses x).kve = c.kve := rfl
@[simp] theorem Chip.setFuses_dbg (c : Chip) (x : Fuses) : (c.setFuses x).dbg = c.dbg := rfl
@[simp] theorem Chip.setFuses_pwr (c : Chip) (x : Fuses) : (c.setFuses x).pwr = c.pwr := rfl
@[simp] theorem Chip.setFuses_unbinds (c : Chip) (x : Fuses) : (c.setFuses x).unbinds = c.unbinds := rfl
@[simp] theorem Chip.setFuses_links (c : Chip) (x : Fuses) : (c.setFuses x).links = c.links := rfl
@[simp] theorem Chip.setFuses_inject (c : Chip) (x : Fuses) : (c.setFuses x).inject = c.inject := rfl
@[simp] theorem Chip.setFuses_fuses (c : Chip) (x : Fuses) : (c.setFuses x).fuses = x := rfl
@[simp] theorem Chip.setFuses_sec (c : Chip) (x : Fuses) : (c.setFuses x).sec = c.sec := rfl
@[simp] theorem Chip.setFuses_flash (c : Chip) (x : Fuses) : (c.setFuses x).flash = c.flash := rfl
@[simp] theorem Chip.setFuses_rcu (c : Chip) (x : Fuses) : (c.setFuses x).rcu = c.rcu := rfl
@[simp] theorem Chip.setFuses_out (c : Chip) (x : Fuses) : (c.setFuses x).out = c.out := rfl
@[simp] theorem Chip.setFuses_fresh (c : Chip) (x : Fuses) : (c.setFuses x).fresh = c.fresh := rfl

/-! ### setFlash -/

@[simp] theorem Chip.setFlash_regs (c : Chip) (x : Flash) : (c.setFlash x).regs = c.regs := rfl
@[simp] theorem Chip.setFlash_act (c : Chip) (x : Flash) : (c.setFlash x).act = c.act := rfl
@[simp] theorem Chip.setFlash_latch (c : Chip) (x : Flash) : (c.setFlash x).latch = c.latch := rfl
@[simp] theorem Chip.setFlash_held (c : Chip) (x : Flash) : (c.setFlash x).held = c.held := rfl
@[simp] theorem Chip.setFlash_esc (c : Chip) (x : Flash) : (c.setFlash x).esc = c.esc := rfl
@[simp] theorem Chip.setFlash_elec (c : Chip) (x : Flash) : (c.setFlash x).elec = c.elec := rfl
@[simp] theorem Chip.setFlash_com (c : Chip) (x : Flash) : (c.setFlash x).com = c.com := rfl
@[simp] theorem Chip.setFlash_ext (c : Chip) (x : Flash) : (c.setFlash x).ext = c.ext := rfl
@[simp] theorem Chip.setFlash_rng (c : Chip) (x : Flash) : (c.setFlash x).rng = c.rng := rfl
@[simp] theorem Chip.setFlash_mem (c : Chip) (x : Flash) : (c.setFlash x).mem = c.mem := rfl
@[simp] theorem Chip.setFlash_lcc (c : Chip) (x : Flash) : (c.setFlash x).lcc = c.lcc := rfl
@[simp] theorem Chip.setFlash_stk (c : Chip) (x : Flash) : (c.setFlash x).stk = c.stk := rfl
@[simp] theorem Chip.setFlash_reg (c : Chip) (x : Flash) : (c.setFlash x).reg = c.reg := rfl
@[simp] theorem Chip.setFlash_int (c : Chip) (x : Flash) : (c.setFlash x).int = c.int := rfl
@[simp] theorem Chip.setFlash_red (c : Chip) (x : Flash) : (c.setFlash x).red = c.red := rfl
@[simp] theorem Chip.setFlash_slots (c : Chip) (x : Flash) : (c.setFlash x).slots = c.slots := rfl
@[simp] theorem Chip.setFlash_keys (c : Chip) (x : Flash) : (c.setFlash x).keys = c.keys := rfl
@[simp] theorem Chip.setFlash_scrubKey (c : Chip) (x : Flash) : (c.setFlash x).scrubKey = c.scrubKey := rfl
@[simp] theorem Chip.setFlash_pci (c : Chip) (x : Flash) : (c.setFlash x).pci = c.pci := rfl
@[simp] theorem Chip.setFlash_hostWait (c : Chip) (x : Flash) : (c.setFlash x).hostWait = c.hostWait := rfl
@[simp] theorem Chip.setFlash_coh (c : Chip) (x : Flash) : (c.setFlash x).coh = c.coh := rfl
@[simp] theorem Chip.setFlash_xlt (c : Chip) (x : Flash) : (c.setFlash x).xlt = c.xlt := rfl
@[simp] theorem Chip.setFlash_eng (c : Chip) (x : Flash) : (c.setFlash x).eng = c.eng := rfl
@[simp] theorem Chip.setFlash_kve (c : Chip) (x : Flash) : (c.setFlash x).kve = c.kve := rfl
@[simp] theorem Chip.setFlash_dbg (c : Chip) (x : Flash) : (c.setFlash x).dbg = c.dbg := rfl
@[simp] theorem Chip.setFlash_pwr (c : Chip) (x : Flash) : (c.setFlash x).pwr = c.pwr := rfl
@[simp] theorem Chip.setFlash_unbinds (c : Chip) (x : Flash) : (c.setFlash x).unbinds = c.unbinds := rfl
@[simp] theorem Chip.setFlash_links (c : Chip) (x : Flash) : (c.setFlash x).links = c.links := rfl
@[simp] theorem Chip.setFlash_inject (c : Chip) (x : Flash) : (c.setFlash x).inject = c.inject := rfl
@[simp] theorem Chip.setFlash_fuses (c : Chip) (x : Flash) : (c.setFlash x).fuses = c.fuses := rfl
@[simp] theorem Chip.setFlash_sec (c : Chip) (x : Flash) : (c.setFlash x).sec = c.sec := rfl
@[simp] theorem Chip.setFlash_flash (c : Chip) (x : Flash) : (c.setFlash x).flash = x := rfl
@[simp] theorem Chip.setFlash_rcu (c : Chip) (x : Flash) : (c.setFlash x).rcu = c.rcu := rfl
@[simp] theorem Chip.setFlash_out (c : Chip) (x : Flash) : (c.setFlash x).out = c.out := rfl
@[simp] theorem Chip.setFlash_fresh (c : Chip) (x : Flash) : (c.setFlash x).fresh = c.fresh := rfl

/-! ### setRcu -/

@[simp] theorem Chip.setRcu_regs (c : Chip) (x : Rcu) : (c.setRcu x).regs = c.regs := rfl
@[simp] theorem Chip.setRcu_act (c : Chip) (x : Rcu) : (c.setRcu x).act = c.act := rfl
@[simp] theorem Chip.setRcu_latch (c : Chip) (x : Rcu) : (c.setRcu x).latch = c.latch := rfl
@[simp] theorem Chip.setRcu_held (c : Chip) (x : Rcu) : (c.setRcu x).held = c.held := rfl
@[simp] theorem Chip.setRcu_esc (c : Chip) (x : Rcu) : (c.setRcu x).esc = c.esc := rfl
@[simp] theorem Chip.setRcu_elec (c : Chip) (x : Rcu) : (c.setRcu x).elec = c.elec := rfl
@[simp] theorem Chip.setRcu_com (c : Chip) (x : Rcu) : (c.setRcu x).com = c.com := rfl
@[simp] theorem Chip.setRcu_ext (c : Chip) (x : Rcu) : (c.setRcu x).ext = c.ext := rfl
@[simp] theorem Chip.setRcu_rng (c : Chip) (x : Rcu) : (c.setRcu x).rng = c.rng := rfl
@[simp] theorem Chip.setRcu_mem (c : Chip) (x : Rcu) : (c.setRcu x).mem = c.mem := rfl
@[simp] theorem Chip.setRcu_lcc (c : Chip) (x : Rcu) : (c.setRcu x).lcc = c.lcc := rfl
@[simp] theorem Chip.setRcu_stk (c : Chip) (x : Rcu) : (c.setRcu x).stk = c.stk := rfl
@[simp] theorem Chip.setRcu_reg (c : Chip) (x : Rcu) : (c.setRcu x).reg = c.reg := rfl
@[simp] theorem Chip.setRcu_int (c : Chip) (x : Rcu) : (c.setRcu x).int = c.int := rfl
@[simp] theorem Chip.setRcu_red (c : Chip) (x : Rcu) : (c.setRcu x).red = c.red := rfl
@[simp] theorem Chip.setRcu_slots (c : Chip) (x : Rcu) : (c.setRcu x).slots = c.slots := rfl
@[simp] theorem Chip.setRcu_keys (c : Chip) (x : Rcu) : (c.setRcu x).keys = c.keys := rfl
@[simp] theorem Chip.setRcu_scrubKey (c : Chip) (x : Rcu) : (c.setRcu x).scrubKey = c.scrubKey := rfl
@[simp] theorem Chip.setRcu_pci (c : Chip) (x : Rcu) : (c.setRcu x).pci = c.pci := rfl
@[simp] theorem Chip.setRcu_hostWait (c : Chip) (x : Rcu) : (c.setRcu x).hostWait = c.hostWait := rfl
@[simp] theorem Chip.setRcu_coh (c : Chip) (x : Rcu) : (c.setRcu x).coh = c.coh := rfl
@[simp] theorem Chip.setRcu_xlt (c : Chip) (x : Rcu) : (c.setRcu x).xlt = c.xlt := rfl
@[simp] theorem Chip.setRcu_eng (c : Chip) (x : Rcu) : (c.setRcu x).eng = c.eng := rfl
@[simp] theorem Chip.setRcu_kve (c : Chip) (x : Rcu) : (c.setRcu x).kve = c.kve := rfl
@[simp] theorem Chip.setRcu_dbg (c : Chip) (x : Rcu) : (c.setRcu x).dbg = c.dbg := rfl
@[simp] theorem Chip.setRcu_pwr (c : Chip) (x : Rcu) : (c.setRcu x).pwr = c.pwr := rfl
@[simp] theorem Chip.setRcu_unbinds (c : Chip) (x : Rcu) : (c.setRcu x).unbinds = c.unbinds := rfl
@[simp] theorem Chip.setRcu_links (c : Chip) (x : Rcu) : (c.setRcu x).links = c.links := rfl
@[simp] theorem Chip.setRcu_inject (c : Chip) (x : Rcu) : (c.setRcu x).inject = c.inject := rfl
@[simp] theorem Chip.setRcu_fuses (c : Chip) (x : Rcu) : (c.setRcu x).fuses = c.fuses := rfl
@[simp] theorem Chip.setRcu_sec (c : Chip) (x : Rcu) : (c.setRcu x).sec = c.sec := rfl
@[simp] theorem Chip.setRcu_flash (c : Chip) (x : Rcu) : (c.setRcu x).flash = c.flash := rfl
@[simp] theorem Chip.setRcu_rcu (c : Chip) (x : Rcu) : (c.setRcu x).rcu = x := rfl
@[simp] theorem Chip.setRcu_out (c : Chip) (x : Rcu) : (c.setRcu x).out = c.out := rfl
@[simp] theorem Chip.setRcu_fresh (c : Chip) (x : Rcu) : (c.setRcu x).fresh = c.fresh := rfl

/-! ### setUnbinds -/

@[simp] theorem Chip.setUnbinds_regs (c : Chip) (x : NMap Unbind) : (c.setUnbinds x).regs = c.regs := rfl
@[simp] theorem Chip.setUnbinds_act (c : Chip) (x : NMap Unbind) : (c.setUnbinds x).act = c.act := rfl
@[simp] theorem Chip.setUnbinds_latch (c : Chip) (x : NMap Unbind) : (c.setUnbinds x).latch = c.latch := rfl
@[simp] theorem Chip.setUnbinds_held (c : Chip) (x : NMap Unbind) : (c.setUnbinds x).held = c.held := rfl
@[simp] theorem Chip.setUnbinds_esc (c : Chip) (x : NMap Unbind) : (c.setUnbinds x).esc = c.esc := rfl
@[simp] theorem Chip.setUnbinds_elec (c : Chip) (x : NMap Unbind) : (c.setUnbinds x).elec = c.elec := rfl
@[simp] theorem Chip.setUnbinds_com (c : Chip) (x : NMap Unbind) : (c.setUnbinds x).com = c.com := rfl
@[simp] theorem Chip.setUnbinds_ext (c : Chip) (x : NMap Unbind) : (c.setUnbinds x).ext = c.ext := rfl
@[simp] theorem Chip.setUnbinds_rng (c : Chip) (x : NMap Unbind) : (c.setUnbinds x).rng = c.rng := rfl
@[simp] theorem Chip.setUnbinds_mem (c : Chip) (x : NMap Unbind) : (c.setUnbinds x).mem = c.mem := rfl
@[simp] theorem Chip.setUnbinds_lcc (c : Chip) (x : NMap Unbind) : (c.setUnbinds x).lcc = c.lcc := rfl
@[simp] theorem Chip.setUnbinds_stk (c : Chip) (x : NMap Unbind) : (c.setUnbinds x).stk = c.stk := rfl
@[simp] theorem Chip.setUnbinds_reg (c : Chip) (x : NMap Unbind) : (c.setUnbinds x).reg = c.reg := rfl
@[simp] theorem Chip.setUnbinds_int (c : Chip) (x : NMap Unbind) : (c.setUnbinds x).int = c.int := rfl
@[simp] theorem Chip.setUnbinds_red (c : Chip) (x : NMap Unbind) : (c.setUnbinds x).red = c.red := rfl
@[simp] theorem Chip.setUnbinds_slots (c : Chip) (x : NMap Unbind) : (c.setUnbinds x).slots = c.slots := rfl
@[simp] theorem Chip.setUnbinds_keys (c : Chip) (x : NMap Unbind) : (c.setUnbinds x).keys = c.keys := rfl
@[simp] theorem Chip.setUnbinds_scrubKey (c : Chip) (x : NMap Unbind) : (c.setUnbinds x).scrubKey = c.scrubKey := rfl
@[simp] theorem Chip.setUnbinds_pci (c : Chip) (x : NMap Unbind) : (c.setUnbinds x).pci = c.pci := rfl
@[simp] theorem Chip.setUnbinds_hostWait (c : Chip) (x : NMap Unbind) : (c.setUnbinds x).hostWait = c.hostWait := rfl
@[simp] theorem Chip.setUnbinds_coh (c : Chip) (x : NMap Unbind) : (c.setUnbinds x).coh = c.coh := rfl
@[simp] theorem Chip.setUnbinds_xlt (c : Chip) (x : NMap Unbind) : (c.setUnbinds x).xlt = c.xlt := rfl
@[simp] theorem Chip.setUnbinds_eng (c : Chip) (x : NMap Unbind) : (c.setUnbinds x).eng = c.eng := rfl
@[simp] theorem Chip.setUnbinds_kve (c : Chip) (x : NMap Unbind) : (c.setUnbinds x).kve = c.kve := rfl
@[simp] theorem Chip.setUnbinds_dbg (c : Chip) (x : NMap Unbind) : (c.setUnbinds x).dbg = c.dbg := rfl
@[simp] theorem Chip.setUnbinds_pwr (c : Chip) (x : NMap Unbind) : (c.setUnbinds x).pwr = c.pwr := rfl
@[simp] theorem Chip.setUnbinds_unbinds (c : Chip) (x : NMap Unbind) : (c.setUnbinds x).unbinds = x := rfl
@[simp] theorem Chip.setUnbinds_links (c : Chip) (x : NMap Unbind) : (c.setUnbinds x).links = c.links := rfl
@[simp] theorem Chip.setUnbinds_inject (c : Chip) (x : NMap Unbind) : (c.setUnbinds x).inject = c.inject := rfl
@[simp] theorem Chip.setUnbinds_fuses (c : Chip) (x : NMap Unbind) : (c.setUnbinds x).fuses = c.fuses := rfl
@[simp] theorem Chip.setUnbinds_sec (c : Chip) (x : NMap Unbind) : (c.setUnbinds x).sec = c.sec := rfl
@[simp] theorem Chip.setUnbinds_flash (c : Chip) (x : NMap Unbind) : (c.setUnbinds x).flash = c.flash := rfl
@[simp] theorem Chip.setUnbinds_rcu (c : Chip) (x : NMap Unbind) : (c.setUnbinds x).rcu = c.rcu := rfl
@[simp] theorem Chip.setUnbinds_out (c : Chip) (x : NMap Unbind) : (c.setUnbinds x).out = c.out := rfl
@[simp] theorem Chip.setUnbinds_fresh (c : Chip) (x : NMap Unbind) : (c.setUnbinds x).fresh = c.fresh := rfl

/-! ### setReg -/

@[simp] theorem Chip.setReg_regs (c : Chip) (x : Reg) : (c.setReg x).regs = c.regs := rfl
@[simp] theorem Chip.setReg_act (c : Chip) (x : Reg) : (c.setReg x).act = c.act := rfl
@[simp] theorem Chip.setReg_latch (c : Chip) (x : Reg) : (c.setReg x).latch = c.latch := rfl
@[simp] theorem Chip.setReg_held (c : Chip) (x : Reg) : (c.setReg x).held = c.held := rfl
@[simp] theorem Chip.setReg_esc (c : Chip) (x : Reg) : (c.setReg x).esc = c.esc := rfl
@[simp] theorem Chip.setReg_elec (c : Chip) (x : Reg) : (c.setReg x).elec = c.elec := rfl
@[simp] theorem Chip.setReg_com (c : Chip) (x : Reg) : (c.setReg x).com = c.com := rfl
@[simp] theorem Chip.setReg_ext (c : Chip) (x : Reg) : (c.setReg x).ext = c.ext := rfl
@[simp] theorem Chip.setReg_rng (c : Chip) (x : Reg) : (c.setReg x).rng = c.rng := rfl
@[simp] theorem Chip.setReg_mem (c : Chip) (x : Reg) : (c.setReg x).mem = c.mem := rfl
@[simp] theorem Chip.setReg_lcc (c : Chip) (x : Reg) : (c.setReg x).lcc = c.lcc := rfl
@[simp] theorem Chip.setReg_stk (c : Chip) (x : Reg) : (c.setReg x).stk = c.stk := rfl
@[simp] theorem Chip.setReg_reg (c : Chip) (x : Reg) : (c.setReg x).reg = x := rfl
@[simp] theorem Chip.setReg_int (c : Chip) (x : Reg) : (c.setReg x).int = c.int := rfl
@[simp] theorem Chip.setReg_red (c : Chip) (x : Reg) : (c.setReg x).red = c.red := rfl
@[simp] theorem Chip.setReg_slots (c : Chip) (x : Reg) : (c.setReg x).slots = c.slots := rfl
@[simp] theorem Chip.setReg_keys (c : Chip) (x : Reg) : (c.setReg x).keys = c.keys := rfl
@[simp] theorem Chip.setReg_scrubKey (c : Chip) (x : Reg) : (c.setReg x).scrubKey = c.scrubKey := rfl
@[simp] theorem Chip.setReg_pci (c : Chip) (x : Reg) : (c.setReg x).pci = c.pci := rfl
@[simp] theorem Chip.setReg_hostWait (c : Chip) (x : Reg) : (c.setReg x).hostWait = c.hostWait := rfl
@[simp] theorem Chip.setReg_coh (c : Chip) (x : Reg) : (c.setReg x).coh = c.coh := rfl
@[simp] theorem Chip.setReg_xlt (c : Chip) (x : Reg) : (c.setReg x).xlt = c.xlt := rfl
@[simp] theorem Chip.setReg_eng (c : Chip) (x : Reg) : (c.setReg x).eng = c.eng := rfl
@[simp] theorem Chip.setReg_kve (c : Chip) (x : Reg) : (c.setReg x).kve = c.kve := rfl
@[simp] theorem Chip.setReg_dbg (c : Chip) (x : Reg) : (c.setReg x).dbg = c.dbg := rfl
@[simp] theorem Chip.setReg_pwr (c : Chip) (x : Reg) : (c.setReg x).pwr = c.pwr := rfl
@[simp] theorem Chip.setReg_unbinds (c : Chip) (x : Reg) : (c.setReg x).unbinds = c.unbinds := rfl
@[simp] theorem Chip.setReg_links (c : Chip) (x : Reg) : (c.setReg x).links = c.links := rfl
@[simp] theorem Chip.setReg_inject (c : Chip) (x : Reg) : (c.setReg x).inject = c.inject := rfl
@[simp] theorem Chip.setReg_fuses (c : Chip) (x : Reg) : (c.setReg x).fuses = c.fuses := rfl
@[simp] theorem Chip.setReg_sec (c : Chip) (x : Reg) : (c.setReg x).sec = c.sec := rfl
@[simp] theorem Chip.setReg_flash (c : Chip) (x : Reg) : (c.setReg x).flash = c.flash := rfl
@[simp] theorem Chip.setReg_rcu (c : Chip) (x : Reg) : (c.setReg x).rcu = c.rcu := rfl
@[simp] theorem Chip.setReg_out (c : Chip) (x : Reg) : (c.setReg x).out = c.out := rfl
@[simp] theorem Chip.setReg_fresh (c : Chip) (x : Reg) : (c.setReg x).fresh = c.fresh := rfl

/-! ### setWord -/

@[simp] theorem Chip.setWord_regs (c : Chip) (off : Nat) (v : Word) : (c.setWord off v).regs = put c.regs off v := rfl
@[simp] theorem Chip.setWord_act (c : Chip) (off : Nat) (v : Word) : (c.setWord off v).act = c.act := rfl
@[simp] theorem Chip.setWord_latch (c : Chip) (off : Nat) (v : Word) : (c.setWord off v).latch = c.latch := rfl
@[simp] theorem Chip.setWord_held (c : Chip) (off : Nat) (v : Word) : (c.setWord off v).held = c.held := rfl
@[simp] theorem Chip.setWord_esc (c : Chip) (off : Nat) (v : Word) : (c.setWord off v).esc = c.esc := rfl
@[simp] theorem Chip.setWord_elec (c : Chip) (off : Nat) (v : Word) : (c.setWord off v).elec = c.elec := rfl
@[simp] theorem Chip.setWord_com (c : Chip) (off : Nat) (v : Word) : (c.setWord off v).com = c.com := rfl
@[simp] theorem Chip.setWord_ext (c : Chip) (off : Nat) (v : Word) : (c.setWord off v).ext = c.ext := rfl
@[simp] theorem Chip.setWord_rng (c : Chip) (off : Nat) (v : Word) : (c.setWord off v).rng = c.rng := rfl
@[simp] theorem Chip.setWord_mem (c : Chip) (off : Nat) (v : Word) : (c.setWord off v).mem = c.mem := rfl
@[simp] theorem Chip.setWord_lcc (c : Chip) (off : Nat) (v : Word) : (c.setWord off v).lcc = c.lcc := rfl
@[simp] theorem Chip.setWord_stk (c : Chip) (off : Nat) (v : Word) : (c.setWord off v).stk = c.stk := rfl
@[simp] theorem Chip.setWord_reg (c : Chip) (off : Nat) (v : Word) : (c.setWord off v).reg = c.reg := rfl
@[simp] theorem Chip.setWord_int (c : Chip) (off : Nat) (v : Word) : (c.setWord off v).int = c.int := rfl
@[simp] theorem Chip.setWord_red (c : Chip) (off : Nat) (v : Word) : (c.setWord off v).red = c.red := rfl
@[simp] theorem Chip.setWord_slots (c : Chip) (off : Nat) (v : Word) : (c.setWord off v).slots = c.slots := rfl
@[simp] theorem Chip.setWord_keys (c : Chip) (off : Nat) (v : Word) : (c.setWord off v).keys = c.keys := rfl
@[simp] theorem Chip.setWord_scrubKey (c : Chip) (off : Nat) (v : Word) : (c.setWord off v).scrubKey = c.scrubKey := rfl
@[simp] theorem Chip.setWord_pci (c : Chip) (off : Nat) (v : Word) : (c.setWord off v).pci = c.pci := rfl
@[simp] theorem Chip.setWord_hostWait (c : Chip) (off : Nat) (v : Word) : (c.setWord off v).hostWait = c.hostWait := rfl
@[simp] theorem Chip.setWord_coh (c : Chip) (off : Nat) (v : Word) : (c.setWord off v).coh = c.coh := rfl
@[simp] theorem Chip.setWord_xlt (c : Chip) (off : Nat) (v : Word) : (c.setWord off v).xlt = c.xlt := rfl
@[simp] theorem Chip.setWord_eng (c : Chip) (off : Nat) (v : Word) : (c.setWord off v).eng = c.eng := rfl
@[simp] theorem Chip.setWord_kve (c : Chip) (off : Nat) (v : Word) : (c.setWord off v).kve = c.kve := rfl
@[simp] theorem Chip.setWord_dbg (c : Chip) (off : Nat) (v : Word) : (c.setWord off v).dbg = c.dbg := rfl
@[simp] theorem Chip.setWord_pwr (c : Chip) (off : Nat) (v : Word) : (c.setWord off v).pwr = c.pwr := rfl
@[simp] theorem Chip.setWord_unbinds (c : Chip) (off : Nat) (v : Word) : (c.setWord off v).unbinds = c.unbinds := rfl
@[simp] theorem Chip.setWord_links (c : Chip) (off : Nat) (v : Word) : (c.setWord off v).links = c.links := rfl
@[simp] theorem Chip.setWord_inject (c : Chip) (off : Nat) (v : Word) : (c.setWord off v).inject = c.inject := rfl
@[simp] theorem Chip.setWord_fuses (c : Chip) (off : Nat) (v : Word) : (c.setWord off v).fuses = c.fuses := rfl
@[simp] theorem Chip.setWord_sec (c : Chip) (off : Nat) (v : Word) : (c.setWord off v).sec = c.sec := rfl
@[simp] theorem Chip.setWord_flash (c : Chip) (off : Nat) (v : Word) : (c.setWord off v).flash = c.flash := rfl
@[simp] theorem Chip.setWord_rcu (c : Chip) (off : Nat) (v : Word) : (c.setWord off v).rcu = c.rcu := rfl
@[simp] theorem Chip.setWord_out (c : Chip) (off : Nat) (v : Word) : (c.setWord off v).out = c.out := rfl
@[simp] theorem Chip.setWord_fresh (c : Chip) (off : Nat) (v : Word) : (c.setWord off v).fresh = c.fresh := rfl

/-! ### set -/

@[simp] theorem Chip.set_act (c : Chip) (off lo w v : Nat) : (c.set off lo w v).act = c.act := rfl
@[simp] theorem Chip.set_latch (c : Chip) (off lo w v : Nat) : (c.set off lo w v).latch = c.latch := rfl
@[simp] theorem Chip.set_held (c : Chip) (off lo w v : Nat) : (c.set off lo w v).held = c.held := rfl
@[simp] theorem Chip.set_esc (c : Chip) (off lo w v : Nat) : (c.set off lo w v).esc = c.esc := rfl
@[simp] theorem Chip.set_elec (c : Chip) (off lo w v : Nat) : (c.set off lo w v).elec = c.elec := rfl
@[simp] theorem Chip.set_com (c : Chip) (off lo w v : Nat) : (c.set off lo w v).com = c.com := rfl
@[simp] theorem Chip.set_ext (c : Chip) (off lo w v : Nat) : (c.set off lo w v).ext = c.ext := rfl
@[simp] theorem Chip.set_rng (c : Chip) (off lo w v : Nat) : (c.set off lo w v).rng = c.rng := rfl
@[simp] theorem Chip.set_mem (c : Chip) (off lo w v : Nat) : (c.set off lo w v).mem = c.mem := rfl
@[simp] theorem Chip.set_lcc (c : Chip) (off lo w v : Nat) : (c.set off lo w v).lcc = c.lcc := rfl
@[simp] theorem Chip.set_stk (c : Chip) (off lo w v : Nat) : (c.set off lo w v).stk = c.stk := rfl
@[simp] theorem Chip.set_reg (c : Chip) (off lo w v : Nat) : (c.set off lo w v).reg = c.reg := rfl
@[simp] theorem Chip.set_int (c : Chip) (off lo w v : Nat) : (c.set off lo w v).int = c.int := rfl
@[simp] theorem Chip.set_red (c : Chip) (off lo w v : Nat) : (c.set off lo w v).red = c.red := rfl
@[simp] theorem Chip.set_slots (c : Chip) (off lo w v : Nat) : (c.set off lo w v).slots = c.slots := rfl
@[simp] theorem Chip.set_keys (c : Chip) (off lo w v : Nat) : (c.set off lo w v).keys = c.keys := rfl
@[simp] theorem Chip.set_scrubKey (c : Chip) (off lo w v : Nat) : (c.set off lo w v).scrubKey = c.scrubKey := rfl
@[simp] theorem Chip.set_pci (c : Chip) (off lo w v : Nat) : (c.set off lo w v).pci = c.pci := rfl
@[simp] theorem Chip.set_hostWait (c : Chip) (off lo w v : Nat) : (c.set off lo w v).hostWait = c.hostWait := rfl
@[simp] theorem Chip.set_coh (c : Chip) (off lo w v : Nat) : (c.set off lo w v).coh = c.coh := rfl
@[simp] theorem Chip.set_xlt (c : Chip) (off lo w v : Nat) : (c.set off lo w v).xlt = c.xlt := rfl
@[simp] theorem Chip.set_eng (c : Chip) (off lo w v : Nat) : (c.set off lo w v).eng = c.eng := rfl
@[simp] theorem Chip.set_kve (c : Chip) (off lo w v : Nat) : (c.set off lo w v).kve = c.kve := rfl
@[simp] theorem Chip.set_dbg (c : Chip) (off lo w v : Nat) : (c.set off lo w v).dbg = c.dbg := rfl
@[simp] theorem Chip.set_pwr (c : Chip) (off lo w v : Nat) : (c.set off lo w v).pwr = c.pwr := rfl
@[simp] theorem Chip.set_unbinds (c : Chip) (off lo w v : Nat) : (c.set off lo w v).unbinds = c.unbinds := rfl
@[simp] theorem Chip.set_links (c : Chip) (off lo w v : Nat) : (c.set off lo w v).links = c.links := rfl
@[simp] theorem Chip.set_inject (c : Chip) (off lo w v : Nat) : (c.set off lo w v).inject = c.inject := rfl
@[simp] theorem Chip.set_fuses (c : Chip) (off lo w v : Nat) : (c.set off lo w v).fuses = c.fuses := rfl
@[simp] theorem Chip.set_sec (c : Chip) (off lo w v : Nat) : (c.set off lo w v).sec = c.sec := rfl
@[simp] theorem Chip.set_flash (c : Chip) (off lo w v : Nat) : (c.set off lo w v).flash = c.flash := rfl
@[simp] theorem Chip.set_rcu (c : Chip) (off lo w v : Nat) : (c.set off lo w v).rcu = c.rcu := rfl
@[simp] theorem Chip.set_out (c : Chip) (off lo w v : Nat) : (c.set off lo w v).out = c.out := rfl
@[simp] theorem Chip.set_fresh (c : Chip) (off lo w v : Nat) : (c.set off lo w v).fresh = c.fresh := rfl

/-! ### setBit -/

@[simp] theorem Chip.setBit_act (c : Chip) (off n : Nat) (v : Bool) : (c.setBit off n v).act = c.act := rfl
@[simp] theorem Chip.setBit_latch (c : Chip) (off n : Nat) (v : Bool) : (c.setBit off n v).latch = c.latch := rfl
@[simp] theorem Chip.setBit_held (c : Chip) (off n : Nat) (v : Bool) : (c.setBit off n v).held = c.held := rfl
@[simp] theorem Chip.setBit_esc (c : Chip) (off n : Nat) (v : Bool) : (c.setBit off n v).esc = c.esc := rfl
@[simp] theorem Chip.setBit_elec (c : Chip) (off n : Nat) (v : Bool) : (c.setBit off n v).elec = c.elec := rfl
@[simp] theorem Chip.setBit_com (c : Chip) (off n : Nat) (v : Bool) : (c.setBit off n v).com = c.com := rfl
@[simp] theorem Chip.setBit_ext (c : Chip) (off n : Nat) (v : Bool) : (c.setBit off n v).ext = c.ext := rfl
@[simp] theorem Chip.setBit_rng (c : Chip) (off n : Nat) (v : Bool) : (c.setBit off n v).rng = c.rng := rfl
@[simp] theorem Chip.setBit_mem (c : Chip) (off n : Nat) (v : Bool) : (c.setBit off n v).mem = c.mem := rfl
@[simp] theorem Chip.setBit_lcc (c : Chip) (off n : Nat) (v : Bool) : (c.setBit off n v).lcc = c.lcc := rfl
@[simp] theorem Chip.setBit_stk (c : Chip) (off n : Nat) (v : Bool) : (c.setBit off n v).stk = c.stk := rfl
@[simp] theorem Chip.setBit_reg (c : Chip) (off n : Nat) (v : Bool) : (c.setBit off n v).reg = c.reg := rfl
@[simp] theorem Chip.setBit_int (c : Chip) (off n : Nat) (v : Bool) : (c.setBit off n v).int = c.int := rfl
@[simp] theorem Chip.setBit_red (c : Chip) (off n : Nat) (v : Bool) : (c.setBit off n v).red = c.red := rfl
@[simp] theorem Chip.setBit_slots (c : Chip) (off n : Nat) (v : Bool) : (c.setBit off n v).slots = c.slots := rfl
@[simp] theorem Chip.setBit_keys (c : Chip) (off n : Nat) (v : Bool) : (c.setBit off n v).keys = c.keys := rfl
@[simp] theorem Chip.setBit_scrubKey (c : Chip) (off n : Nat) (v : Bool) : (c.setBit off n v).scrubKey = c.scrubKey := rfl
@[simp] theorem Chip.setBit_pci (c : Chip) (off n : Nat) (v : Bool) : (c.setBit off n v).pci = c.pci := rfl
@[simp] theorem Chip.setBit_hostWait (c : Chip) (off n : Nat) (v : Bool) : (c.setBit off n v).hostWait = c.hostWait := rfl
@[simp] theorem Chip.setBit_coh (c : Chip) (off n : Nat) (v : Bool) : (c.setBit off n v).coh = c.coh := rfl
@[simp] theorem Chip.setBit_xlt (c : Chip) (off n : Nat) (v : Bool) : (c.setBit off n v).xlt = c.xlt := rfl
@[simp] theorem Chip.setBit_eng (c : Chip) (off n : Nat) (v : Bool) : (c.setBit off n v).eng = c.eng := rfl
@[simp] theorem Chip.setBit_kve (c : Chip) (off n : Nat) (v : Bool) : (c.setBit off n v).kve = c.kve := rfl
@[simp] theorem Chip.setBit_dbg (c : Chip) (off n : Nat) (v : Bool) : (c.setBit off n v).dbg = c.dbg := rfl
@[simp] theorem Chip.setBit_pwr (c : Chip) (off n : Nat) (v : Bool) : (c.setBit off n v).pwr = c.pwr := rfl
@[simp] theorem Chip.setBit_unbinds (c : Chip) (off n : Nat) (v : Bool) : (c.setBit off n v).unbinds = c.unbinds := rfl
@[simp] theorem Chip.setBit_links (c : Chip) (off n : Nat) (v : Bool) : (c.setBit off n v).links = c.links := rfl
@[simp] theorem Chip.setBit_inject (c : Chip) (off n : Nat) (v : Bool) : (c.setBit off n v).inject = c.inject := rfl
@[simp] theorem Chip.setBit_fuses (c : Chip) (off n : Nat) (v : Bool) : (c.setBit off n v).fuses = c.fuses := rfl
@[simp] theorem Chip.setBit_sec (c : Chip) (off n : Nat) (v : Bool) : (c.setBit off n v).sec = c.sec := rfl
@[simp] theorem Chip.setBit_flash (c : Chip) (off n : Nat) (v : Bool) : (c.setBit off n v).flash = c.flash := rfl
@[simp] theorem Chip.setBit_rcu (c : Chip) (off n : Nat) (v : Bool) : (c.setBit off n v).rcu = c.rcu := rfl
@[simp] theorem Chip.setBit_out (c : Chip) (off n : Nat) (v : Bool) : (c.setBit off n v).out = c.out := rfl
@[simp] theorem Chip.setBit_fresh (c : Chip) (off n : Nat) (v : Bool) : (c.setBit off n v).fresh = c.fresh := rfl

/-! ### set64 -/

@[simp] theorem Chip.set64_act (c : Chip) (off v : Nat) : (c.set64 off v).act = c.act := rfl
@[simp] theorem Chip.set64_latch (c : Chip) (off v : Nat) : (c.set64 off v).latch = c.latch := rfl
@[simp] theorem Chip.set64_held (c : Chip) (off v : Nat) : (c.set64 off v).held = c.held := rfl
@[simp] theorem Chip.set64_esc (c : Chip) (off v : Nat) : (c.set64 off v).esc = c.esc := rfl
@[simp] theorem Chip.set64_elec (c : Chip) (off v : Nat) : (c.set64 off v).elec = c.elec := rfl
@[simp] theorem Chip.set64_com (c : Chip) (off v : Nat) : (c.set64 off v).com = c.com := rfl
@[simp] theorem Chip.set64_ext (c : Chip) (off v : Nat) : (c.set64 off v).ext = c.ext := rfl
@[simp] theorem Chip.set64_rng (c : Chip) (off v : Nat) : (c.set64 off v).rng = c.rng := rfl
@[simp] theorem Chip.set64_mem (c : Chip) (off v : Nat) : (c.set64 off v).mem = c.mem := rfl
@[simp] theorem Chip.set64_lcc (c : Chip) (off v : Nat) : (c.set64 off v).lcc = c.lcc := rfl
@[simp] theorem Chip.set64_stk (c : Chip) (off v : Nat) : (c.set64 off v).stk = c.stk := rfl
@[simp] theorem Chip.set64_reg (c : Chip) (off v : Nat) : (c.set64 off v).reg = c.reg := rfl
@[simp] theorem Chip.set64_int (c : Chip) (off v : Nat) : (c.set64 off v).int = c.int := rfl
@[simp] theorem Chip.set64_red (c : Chip) (off v : Nat) : (c.set64 off v).red = c.red := rfl
@[simp] theorem Chip.set64_slots (c : Chip) (off v : Nat) : (c.set64 off v).slots = c.slots := rfl
@[simp] theorem Chip.set64_keys (c : Chip) (off v : Nat) : (c.set64 off v).keys = c.keys := rfl
@[simp] theorem Chip.set64_scrubKey (c : Chip) (off v : Nat) : (c.set64 off v).scrubKey = c.scrubKey := rfl
@[simp] theorem Chip.set64_pci (c : Chip) (off v : Nat) : (c.set64 off v).pci = c.pci := rfl
@[simp] theorem Chip.set64_hostWait (c : Chip) (off v : Nat) : (c.set64 off v).hostWait = c.hostWait := rfl
@[simp] theorem Chip.set64_coh (c : Chip) (off v : Nat) : (c.set64 off v).coh = c.coh := rfl
@[simp] theorem Chip.set64_xlt (c : Chip) (off v : Nat) : (c.set64 off v).xlt = c.xlt := rfl
@[simp] theorem Chip.set64_eng (c : Chip) (off v : Nat) : (c.set64 off v).eng = c.eng := rfl
@[simp] theorem Chip.set64_kve (c : Chip) (off v : Nat) : (c.set64 off v).kve = c.kve := rfl
@[simp] theorem Chip.set64_dbg (c : Chip) (off v : Nat) : (c.set64 off v).dbg = c.dbg := rfl
@[simp] theorem Chip.set64_pwr (c : Chip) (off v : Nat) : (c.set64 off v).pwr = c.pwr := rfl
@[simp] theorem Chip.set64_unbinds (c : Chip) (off v : Nat) : (c.set64 off v).unbinds = c.unbinds := rfl
@[simp] theorem Chip.set64_links (c : Chip) (off v : Nat) : (c.set64 off v).links = c.links := rfl
@[simp] theorem Chip.set64_inject (c : Chip) (off v : Nat) : (c.set64 off v).inject = c.inject := rfl
@[simp] theorem Chip.set64_fuses (c : Chip) (off v : Nat) : (c.set64 off v).fuses = c.fuses := rfl
@[simp] theorem Chip.set64_sec (c : Chip) (off v : Nat) : (c.set64 off v).sec = c.sec := rfl
@[simp] theorem Chip.set64_flash (c : Chip) (off v : Nat) : (c.set64 off v).flash = c.flash := rfl
@[simp] theorem Chip.set64_rcu (c : Chip) (off v : Nat) : (c.set64 off v).rcu = c.rcu := rfl
@[simp] theorem Chip.set64_out (c : Chip) (off v : Nat) : (c.set64 off v).out = c.out := rfl
@[simp] theorem Chip.set64_fresh (c : Chip) (off v : Nat) : (c.set64 off v).fresh = c.fresh := rfl

/-! ### putExt -/

@[simp] theorem Chip.putExt_regs (c : Chip) (h : Nat) (e : Extent) : (c.putExt h e).regs = c.regs := rfl
@[simp] theorem Chip.putExt_act (c : Chip) (h : Nat) (e : Extent) : (c.putExt h e).act = c.act := rfl
@[simp] theorem Chip.putExt_latch (c : Chip) (h : Nat) (e : Extent) : (c.putExt h e).latch = c.latch := rfl
@[simp] theorem Chip.putExt_held (c : Chip) (h : Nat) (e : Extent) : (c.putExt h e).held = c.held := rfl
@[simp] theorem Chip.putExt_esc (c : Chip) (h : Nat) (e : Extent) : (c.putExt h e).esc = c.esc := rfl
@[simp] theorem Chip.putExt_elec (c : Chip) (h : Nat) (e : Extent) : (c.putExt h e).elec = c.elec := rfl
@[simp] theorem Chip.putExt_com (c : Chip) (h : Nat) (e : Extent) : (c.putExt h e).com = c.com := rfl
@[simp] theorem Chip.putExt_rng (c : Chip) (h : Nat) (e : Extent) : (c.putExt h e).rng = c.rng := rfl
@[simp] theorem Chip.putExt_mem (c : Chip) (h : Nat) (e : Extent) : (c.putExt h e).mem = c.mem := rfl
@[simp] theorem Chip.putExt_lcc (c : Chip) (h : Nat) (e : Extent) : (c.putExt h e).lcc = c.lcc := rfl
@[simp] theorem Chip.putExt_stk (c : Chip) (h : Nat) (e : Extent) : (c.putExt h e).stk = c.stk := rfl
@[simp] theorem Chip.putExt_reg (c : Chip) (h : Nat) (e : Extent) : (c.putExt h e).reg = c.reg := rfl
@[simp] theorem Chip.putExt_int (c : Chip) (h : Nat) (e : Extent) : (c.putExt h e).int = c.int := rfl
@[simp] theorem Chip.putExt_red (c : Chip) (h : Nat) (e : Extent) : (c.putExt h e).red = c.red := rfl
@[simp] theorem Chip.putExt_slots (c : Chip) (h : Nat) (e : Extent) : (c.putExt h e).slots = c.slots := rfl
@[simp] theorem Chip.putExt_keys (c : Chip) (h : Nat) (e : Extent) : (c.putExt h e).keys = c.keys := rfl
@[simp] theorem Chip.putExt_scrubKey (c : Chip) (h : Nat) (e : Extent) : (c.putExt h e).scrubKey = c.scrubKey := rfl
@[simp] theorem Chip.putExt_pci (c : Chip) (h : Nat) (e : Extent) : (c.putExt h e).pci = c.pci := rfl
@[simp] theorem Chip.putExt_hostWait (c : Chip) (h : Nat) (e : Extent) : (c.putExt h e).hostWait = c.hostWait := rfl
@[simp] theorem Chip.putExt_coh (c : Chip) (h : Nat) (e : Extent) : (c.putExt h e).coh = c.coh := rfl
@[simp] theorem Chip.putExt_xlt (c : Chip) (h : Nat) (e : Extent) : (c.putExt h e).xlt = c.xlt := rfl
@[simp] theorem Chip.putExt_eng (c : Chip) (h : Nat) (e : Extent) : (c.putExt h e).eng = c.eng := rfl
@[simp] theorem Chip.putExt_kve (c : Chip) (h : Nat) (e : Extent) : (c.putExt h e).kve = c.kve := rfl
@[simp] theorem Chip.putExt_dbg (c : Chip) (h : Nat) (e : Extent) : (c.putExt h e).dbg = c.dbg := rfl
@[simp] theorem Chip.putExt_pwr (c : Chip) (h : Nat) (e : Extent) : (c.putExt h e).pwr = c.pwr := rfl
@[simp] theorem Chip.putExt_unbinds (c : Chip) (h : Nat) (e : Extent) : (c.putExt h e).unbinds = c.unbinds := rfl
@[simp] theorem Chip.putExt_links (c : Chip) (h : Nat) (e : Extent) : (c.putExt h e).links = c.links := rfl
@[simp] theorem Chip.putExt_inject (c : Chip) (h : Nat) (e : Extent) : (c.putExt h e).inject = c.inject := rfl
@[simp] theorem Chip.putExt_fuses (c : Chip) (h : Nat) (e : Extent) : (c.putExt h e).fuses = c.fuses := rfl
@[simp] theorem Chip.putExt_sec (c : Chip) (h : Nat) (e : Extent) : (c.putExt h e).sec = c.sec := rfl
@[simp] theorem Chip.putExt_flash (c : Chip) (h : Nat) (e : Extent) : (c.putExt h e).flash = c.flash := rfl
@[simp] theorem Chip.putExt_rcu (c : Chip) (h : Nat) (e : Extent) : (c.putExt h e).rcu = c.rcu := rfl
@[simp] theorem Chip.putExt_out (c : Chip) (h : Nat) (e : Extent) : (c.putExt h e).out = c.out := rfl
@[simp] theorem Chip.putExt_fresh (c : Chip) (h : Nat) (e : Extent) : (c.putExt h e).fresh = c.fresh := rfl

/-! ### putCtx -/

@[simp] theorem Chip.putCtx_regs (c : Chip) (n : Nat) (e : CtxE) : (c.putCtx n e).regs = c.regs := rfl
@[simp] theorem Chip.putCtx_act (c : Chip) (n : Nat) (e : CtxE) : (c.putCtx n e).act = c.act := rfl
@[simp] theorem Chip.putCtx_latch (c : Chip) (n : Nat) (e : CtxE) : (c.putCtx n e).latch = c.latch := rfl
@[simp] theorem Chip.putCtx_held (c : Chip) (n : Nat) (e : CtxE) : (c.putCtx n e).held = c.held := rfl
@[simp] theorem Chip.putCtx_esc (c : Chip) (n : Nat) (e : CtxE) : (c.putCtx n e).esc = c.esc := rfl
@[simp] theorem Chip.putCtx_elec (c : Chip) (n : Nat) (e : CtxE) : (c.putCtx n e).elec = c.elec := rfl
@[simp] theorem Chip.putCtx_com (c : Chip) (n : Nat) (e : CtxE) : (c.putCtx n e).com = c.com := rfl
@[simp] theorem Chip.putCtx_rng (c : Chip) (n : Nat) (e : CtxE) : (c.putCtx n e).rng = c.rng := rfl
@[simp] theorem Chip.putCtx_mem (c : Chip) (n : Nat) (e : CtxE) : (c.putCtx n e).mem = c.mem := rfl
@[simp] theorem Chip.putCtx_lcc (c : Chip) (n : Nat) (e : CtxE) : (c.putCtx n e).lcc = c.lcc := rfl
@[simp] theorem Chip.putCtx_stk (c : Chip) (n : Nat) (e : CtxE) : (c.putCtx n e).stk = c.stk := rfl
@[simp] theorem Chip.putCtx_reg (c : Chip) (n : Nat) (e : CtxE) : (c.putCtx n e).reg = c.reg := rfl
@[simp] theorem Chip.putCtx_int (c : Chip) (n : Nat) (e : CtxE) : (c.putCtx n e).int = c.int := rfl
@[simp] theorem Chip.putCtx_red (c : Chip) (n : Nat) (e : CtxE) : (c.putCtx n e).red = c.red := rfl
@[simp] theorem Chip.putCtx_slots (c : Chip) (n : Nat) (e : CtxE) : (c.putCtx n e).slots = c.slots := rfl
@[simp] theorem Chip.putCtx_keys (c : Chip) (n : Nat) (e : CtxE) : (c.putCtx n e).keys = c.keys := rfl
@[simp] theorem Chip.putCtx_scrubKey (c : Chip) (n : Nat) (e : CtxE) : (c.putCtx n e).scrubKey = c.scrubKey := rfl
@[simp] theorem Chip.putCtx_pci (c : Chip) (n : Nat) (e : CtxE) : (c.putCtx n e).pci = c.pci := rfl
@[simp] theorem Chip.putCtx_hostWait (c : Chip) (n : Nat) (e : CtxE) : (c.putCtx n e).hostWait = c.hostWait := rfl
@[simp] theorem Chip.putCtx_coh (c : Chip) (n : Nat) (e : CtxE) : (c.putCtx n e).coh = c.coh := rfl
@[simp] theorem Chip.putCtx_xlt (c : Chip) (n : Nat) (e : CtxE) : (c.putCtx n e).xlt = c.xlt := rfl
@[simp] theorem Chip.putCtx_eng (c : Chip) (n : Nat) (e : CtxE) : (c.putCtx n e).eng = c.eng := rfl
@[simp] theorem Chip.putCtx_kve (c : Chip) (n : Nat) (e : CtxE) : (c.putCtx n e).kve = c.kve := rfl
@[simp] theorem Chip.putCtx_dbg (c : Chip) (n : Nat) (e : CtxE) : (c.putCtx n e).dbg = c.dbg := rfl
@[simp] theorem Chip.putCtx_pwr (c : Chip) (n : Nat) (e : CtxE) : (c.putCtx n e).pwr = c.pwr := rfl
@[simp] theorem Chip.putCtx_unbinds (c : Chip) (n : Nat) (e : CtxE) : (c.putCtx n e).unbinds = c.unbinds := rfl
@[simp] theorem Chip.putCtx_links (c : Chip) (n : Nat) (e : CtxE) : (c.putCtx n e).links = c.links := rfl
@[simp] theorem Chip.putCtx_inject (c : Chip) (n : Nat) (e : CtxE) : (c.putCtx n e).inject = c.inject := rfl
@[simp] theorem Chip.putCtx_fuses (c : Chip) (n : Nat) (e : CtxE) : (c.putCtx n e).fuses = c.fuses := rfl
@[simp] theorem Chip.putCtx_sec (c : Chip) (n : Nat) (e : CtxE) : (c.putCtx n e).sec = c.sec := rfl
@[simp] theorem Chip.putCtx_flash (c : Chip) (n : Nat) (e : CtxE) : (c.putCtx n e).flash = c.flash := rfl
@[simp] theorem Chip.putCtx_rcu (c : Chip) (n : Nat) (e : CtxE) : (c.putCtx n e).rcu = c.rcu := rfl
@[simp] theorem Chip.putCtx_out (c : Chip) (n : Nat) (e : CtxE) : (c.putCtx n e).out = c.out := rfl
@[simp] theorem Chip.putCtx_fresh (c : Chip) (n : Nat) (e : CtxE) : (c.putCtx n e).fresh = c.fresh := rfl

/-! ### putSlot -/

@[simp] theorem Chip.putSlot_regs (c : Chip) (n : Nat) (e : SlotE) : (c.putSlot n e).regs = c.regs := rfl
@[simp] theorem Chip.putSlot_act (c : Chip) (n : Nat) (e : SlotE) : (c.putSlot n e).act = c.act := rfl
@[simp] theorem Chip.putSlot_latch (c : Chip) (n : Nat) (e : SlotE) : (c.putSlot n e).latch = c.latch := rfl
@[simp] theorem Chip.putSlot_held (c : Chip) (n : Nat) (e : SlotE) : (c.putSlot n e).held = c.held := rfl
@[simp] theorem Chip.putSlot_esc (c : Chip) (n : Nat) (e : SlotE) : (c.putSlot n e).esc = c.esc := rfl
@[simp] theorem Chip.putSlot_elec (c : Chip) (n : Nat) (e : SlotE) : (c.putSlot n e).elec = c.elec := rfl
@[simp] theorem Chip.putSlot_com (c : Chip) (n : Nat) (e : SlotE) : (c.putSlot n e).com = c.com := rfl
@[simp] theorem Chip.putSlot_ext (c : Chip) (n : Nat) (e : SlotE) : (c.putSlot n e).ext = c.ext := rfl
@[simp] theorem Chip.putSlot_rng (c : Chip) (n : Nat) (e : SlotE) : (c.putSlot n e).rng = c.rng := rfl
@[simp] theorem Chip.putSlot_mem (c : Chip) (n : Nat) (e : SlotE) : (c.putSlot n e).mem = c.mem := rfl
@[simp] theorem Chip.putSlot_lcc (c : Chip) (n : Nat) (e : SlotE) : (c.putSlot n e).lcc = c.lcc := rfl
@[simp] theorem Chip.putSlot_stk (c : Chip) (n : Nat) (e : SlotE) : (c.putSlot n e).stk = c.stk := rfl
@[simp] theorem Chip.putSlot_reg (c : Chip) (n : Nat) (e : SlotE) : (c.putSlot n e).reg = c.reg := rfl
@[simp] theorem Chip.putSlot_int (c : Chip) (n : Nat) (e : SlotE) : (c.putSlot n e).int = c.int := rfl
@[simp] theorem Chip.putSlot_red (c : Chip) (n : Nat) (e : SlotE) : (c.putSlot n e).red = c.red := rfl
@[simp] theorem Chip.putSlot_slots (c : Chip) (n : Nat) (e : SlotE) : (c.putSlot n e).slots = put c.slots n (Tri.of e) := rfl
@[simp] theorem Chip.putSlot_keys (c : Chip) (n : Nat) (e : SlotE) : (c.putSlot n e).keys = c.keys := rfl
@[simp] theorem Chip.putSlot_scrubKey (c : Chip) (n : Nat) (e : SlotE) : (c.putSlot n e).scrubKey = c.scrubKey := rfl
@[simp] theorem Chip.putSlot_pci (c : Chip) (n : Nat) (e : SlotE) : (c.putSlot n e).pci = c.pci := rfl
@[simp] theorem Chip.putSlot_hostWait (c : Chip) (n : Nat) (e : SlotE) : (c.putSlot n e).hostWait = c.hostWait := rfl
@[simp] theorem Chip.putSlot_coh (c : Chip) (n : Nat) (e : SlotE) : (c.putSlot n e).coh = c.coh := rfl
@[simp] theorem Chip.putSlot_xlt (c : Chip) (n : Nat) (e : SlotE) : (c.putSlot n e).xlt = c.xlt := rfl
@[simp] theorem Chip.putSlot_eng (c : Chip) (n : Nat) (e : SlotE) : (c.putSlot n e).eng = c.eng := rfl
@[simp] theorem Chip.putSlot_kve (c : Chip) (n : Nat) (e : SlotE) : (c.putSlot n e).kve = c.kve := rfl
@[simp] theorem Chip.putSlot_dbg (c : Chip) (n : Nat) (e : SlotE) : (c.putSlot n e).dbg = c.dbg := rfl
@[simp] theorem Chip.putSlot_pwr (c : Chip) (n : Nat) (e : SlotE) : (c.putSlot n e).pwr = c.pwr := rfl
@[simp] theorem Chip.putSlot_unbinds (c : Chip) (n : Nat) (e : SlotE) : (c.putSlot n e).unbinds = c.unbinds := rfl
@[simp] theorem Chip.putSlot_links (c : Chip) (n : Nat) (e : SlotE) : (c.putSlot n e).links = c.links := rfl
@[simp] theorem Chip.putSlot_inject (c : Chip) (n : Nat) (e : SlotE) : (c.putSlot n e).inject = c.inject := rfl
@[simp] theorem Chip.putSlot_fuses (c : Chip) (n : Nat) (e : SlotE) : (c.putSlot n e).fuses = c.fuses := rfl
@[simp] theorem Chip.putSlot_sec (c : Chip) (n : Nat) (e : SlotE) : (c.putSlot n e).sec = c.sec := rfl
@[simp] theorem Chip.putSlot_flash (c : Chip) (n : Nat) (e : SlotE) : (c.putSlot n e).flash = c.flash := rfl
@[simp] theorem Chip.putSlot_rcu (c : Chip) (n : Nat) (e : SlotE) : (c.putSlot n e).rcu = c.rcu := rfl
@[simp] theorem Chip.putSlot_out (c : Chip) (n : Nat) (e : SlotE) : (c.putSlot n e).out = c.out := rfl
@[simp] theorem Chip.putSlot_fresh (c : Chip) (n : Nat) (e : SlotE) : (c.putSlot n e).fresh = c.fresh := rfl

/-! ### putStk -/

@[simp] theorem Chip.putStk_regs (c : Chip) (k : Nat) (s : Stk) : (c.putStk k s).regs = c.regs := rfl
@[simp] theorem Chip.putStk_act (c : Chip) (k : Nat) (s : Stk) : (c.putStk k s).act = c.act := rfl
@[simp] theorem Chip.putStk_latch (c : Chip) (k : Nat) (s : Stk) : (c.putStk k s).latch = c.latch := rfl
@[simp] theorem Chip.putStk_held (c : Chip) (k : Nat) (s : Stk) : (c.putStk k s).held = c.held := rfl
@[simp] theorem Chip.putStk_esc (c : Chip) (k : Nat) (s : Stk) : (c.putStk k s).esc = c.esc := rfl
@[simp] theorem Chip.putStk_elec (c : Chip) (k : Nat) (s : Stk) : (c.putStk k s).elec = c.elec := rfl
@[simp] theorem Chip.putStk_com (c : Chip) (k : Nat) (s : Stk) : (c.putStk k s).com = c.com := rfl
@[simp] theorem Chip.putStk_ext (c : Chip) (k : Nat) (s : Stk) : (c.putStk k s).ext = c.ext := rfl
@[simp] theorem Chip.putStk_rng (c : Chip) (k : Nat) (s : Stk) : (c.putStk k s).rng = c.rng := rfl
@[simp] theorem Chip.putStk_mem (c : Chip) (k : Nat) (s : Stk) : (c.putStk k s).mem = c.mem := rfl
@[simp] theorem Chip.putStk_lcc (c : Chip) (k : Nat) (s : Stk) : (c.putStk k s).lcc = c.lcc := rfl
@[simp] theorem Chip.putStk_stk (c : Chip) (k : Nat) (s : Stk) : (c.putStk k s).stk = put c.stk k s := rfl
@[simp] theorem Chip.putStk_reg (c : Chip) (k : Nat) (s : Stk) : (c.putStk k s).reg = c.reg := rfl
@[simp] theorem Chip.putStk_int (c : Chip) (k : Nat) (s : Stk) : (c.putStk k s).int = c.int := rfl
@[simp] theorem Chip.putStk_red (c : Chip) (k : Nat) (s : Stk) : (c.putStk k s).red = c.red := rfl
@[simp] theorem Chip.putStk_slots (c : Chip) (k : Nat) (s : Stk) : (c.putStk k s).slots = c.slots := rfl
@[simp] theorem Chip.putStk_keys (c : Chip) (k : Nat) (s : Stk) : (c.putStk k s).keys = c.keys := rfl
@[simp] theorem Chip.putStk_scrubKey (c : Chip) (k : Nat) (s : Stk) : (c.putStk k s).scrubKey = c.scrubKey := rfl
@[simp] theorem Chip.putStk_pci (c : Chip) (k : Nat) (s : Stk) : (c.putStk k s).pci = c.pci := rfl
@[simp] theorem Chip.putStk_hostWait (c : Chip) (k : Nat) (s : Stk) : (c.putStk k s).hostWait = c.hostWait := rfl
@[simp] theorem Chip.putStk_coh (c : Chip) (k : Nat) (s : Stk) : (c.putStk k s).coh = c.coh := rfl
@[simp] theorem Chip.putStk_xlt (c : Chip) (k : Nat) (s : Stk) : (c.putStk k s).xlt = c.xlt := rfl
@[simp] theorem Chip.putStk_eng (c : Chip) (k : Nat) (s : Stk) : (c.putStk k s).eng = c.eng := rfl
@[simp] theorem Chip.putStk_kve (c : Chip) (k : Nat) (s : Stk) : (c.putStk k s).kve = c.kve := rfl
@[simp] theorem Chip.putStk_dbg (c : Chip) (k : Nat) (s : Stk) : (c.putStk k s).dbg = c.dbg := rfl
@[simp] theorem Chip.putStk_pwr (c : Chip) (k : Nat) (s : Stk) : (c.putStk k s).pwr = c.pwr := rfl
@[simp] theorem Chip.putStk_unbinds (c : Chip) (k : Nat) (s : Stk) : (c.putStk k s).unbinds = c.unbinds := rfl
@[simp] theorem Chip.putStk_links (c : Chip) (k : Nat) (s : Stk) : (c.putStk k s).links = c.links := rfl
@[simp] theorem Chip.putStk_inject (c : Chip) (k : Nat) (s : Stk) : (c.putStk k s).inject = c.inject := rfl
@[simp] theorem Chip.putStk_fuses (c : Chip) (k : Nat) (s : Stk) : (c.putStk k s).fuses = c.fuses := rfl
@[simp] theorem Chip.putStk_sec (c : Chip) (k : Nat) (s : Stk) : (c.putStk k s).sec = c.sec := rfl
@[simp] theorem Chip.putStk_flash (c : Chip) (k : Nat) (s : Stk) : (c.putStk k s).flash = c.flash := rfl
@[simp] theorem Chip.putStk_rcu (c : Chip) (k : Nat) (s : Stk) : (c.putStk k s).rcu = c.rcu := rfl
@[simp] theorem Chip.putStk_out (c : Chip) (k : Nat) (s : Stk) : (c.putStk k s).out = c.out := rfl
@[simp] theorem Chip.putStk_fresh (c : Chip) (k : Nat) (s : Stk) : (c.putStk k s).fresh = c.fresh := rfl

/-! ### count -/

@[simp] theorem Chip.count_regs (c : Chip) (i n : Nat) : (c.count i n).regs = c.regs := rfl
@[simp] theorem Chip.count_act (c : Chip) (i n : Nat) : (c.count i n).act = c.act := rfl
@[simp] theorem Chip.count_latch (c : Chip) (i n : Nat) : (c.count i n).latch = c.latch := rfl
@[simp] theorem Chip.count_held (c : Chip) (i n : Nat) : (c.count i n).held = c.held := rfl
@[simp] theorem Chip.count_esc (c : Chip) (i n : Nat) : (c.count i n).esc = c.esc := rfl
@[simp] theorem Chip.count_elec (c : Chip) (i n : Nat) : (c.count i n).elec = c.elec := rfl
@[simp] theorem Chip.count_com (c : Chip) (i n : Nat) : (c.count i n).com = c.com := rfl
@[simp] theorem Chip.count_ext (c : Chip) (i n : Nat) : (c.count i n).ext = c.ext := rfl
@[simp] theorem Chip.count_rng (c : Chip) (i n : Nat) : (c.count i n).rng = c.rng := rfl
@[simp] theorem Chip.count_mem (c : Chip) (i n : Nat) : (c.count i n).mem = c.mem := rfl
@[simp] theorem Chip.count_lcc (c : Chip) (i n : Nat) : (c.count i n).lcc = c.lcc := rfl
@[simp] theorem Chip.count_stk (c : Chip) (i n : Nat) : (c.count i n).stk = c.stk := rfl
@[simp] theorem Chip.count_reg (c : Chip) (i n : Nat) : (c.count i n).reg = c.reg := rfl
@[simp] theorem Chip.count_int (c : Chip) (i n : Nat) : (c.count i n).int = c.int := rfl
@[simp] theorem Chip.count_red (c : Chip) (i n : Nat) : (c.count i n).red = c.red := rfl
@[simp] theorem Chip.count_slots (c : Chip) (i n : Nat) : (c.count i n).slots = c.slots := rfl
@[simp] theorem Chip.count_keys (c : Chip) (i n : Nat) : (c.count i n).keys = c.keys := rfl
@[simp] theorem Chip.count_scrubKey (c : Chip) (i n : Nat) : (c.count i n).scrubKey = c.scrubKey := rfl
@[simp] theorem Chip.count_pci (c : Chip) (i n : Nat) : (c.count i n).pci = c.pci := rfl
@[simp] theorem Chip.count_hostWait (c : Chip) (i n : Nat) : (c.count i n).hostWait = c.hostWait := rfl
@[simp] theorem Chip.count_coh (c : Chip) (i n : Nat) : (c.count i n).coh = c.coh := rfl
@[simp] theorem Chip.count_xlt (c : Chip) (i n : Nat) : (c.count i n).xlt = c.xlt := rfl
@[simp] theorem Chip.count_eng (c : Chip) (i n : Nat) : (c.count i n).eng = c.eng := rfl
@[simp] theorem Chip.count_kve (c : Chip) (i n : Nat) : (c.count i n).kve = c.kve := rfl
@[simp] theorem Chip.count_pwr (c : Chip) (i n : Nat) : (c.count i n).pwr = c.pwr := rfl
@[simp] theorem Chip.count_unbinds (c : Chip) (i n : Nat) : (c.count i n).unbinds = c.unbinds := rfl
@[simp] theorem Chip.count_links (c : Chip) (i n : Nat) : (c.count i n).links = c.links := rfl
@[simp] theorem Chip.count_inject (c : Chip) (i n : Nat) : (c.count i n).inject = c.inject := rfl
@[simp] theorem Chip.count_fuses (c : Chip) (i n : Nat) : (c.count i n).fuses = c.fuses := rfl
@[simp] theorem Chip.count_sec (c : Chip) (i n : Nat) : (c.count i n).sec = c.sec := rfl
@[simp] theorem Chip.count_flash (c : Chip) (i n : Nat) : (c.count i n).flash = c.flash := rfl
@[simp] theorem Chip.count_rcu (c : Chip) (i n : Nat) : (c.count i n).rcu = c.rcu := rfl
@[simp] theorem Chip.count_out (c : Chip) (i n : Nat) : (c.count i n).out = c.out := rfl
@[simp] theorem Chip.count_fresh (c : Chip) (i n : Nat) : (c.count i n).fresh = c.fresh := rfl

/-! ### wake -/

@[simp] theorem Chip.wake_regs (c : Chip)  : (c.wake).regs = c.regs := rfl
@[simp] theorem Chip.wake_act (c : Chip)  : (c.wake).act = c.act := rfl
@[simp] theorem Chip.wake_latch (c : Chip)  : (c.wake).latch = c.latch := rfl
@[simp] theorem Chip.wake_held (c : Chip)  : (c.wake).held = c.held := rfl
@[simp] theorem Chip.wake_esc (c : Chip)  : (c.wake).esc = c.esc := rfl
@[simp] theorem Chip.wake_elec (c : Chip)  : (c.wake).elec = c.elec := rfl
@[simp] theorem Chip.wake_com (c : Chip)  : (c.wake).com = c.com := rfl
@[simp] theorem Chip.wake_ext (c : Chip)  : (c.wake).ext = c.ext := rfl
@[simp] theorem Chip.wake_rng (c : Chip)  : (c.wake).rng = c.rng := rfl
@[simp] theorem Chip.wake_mem (c : Chip)  : (c.wake).mem = c.mem := rfl
@[simp] theorem Chip.wake_lcc (c : Chip)  : (c.wake).lcc = c.lcc := rfl
@[simp] theorem Chip.wake_stk (c : Chip)  : (c.wake).stk = c.stk := rfl
@[simp] theorem Chip.wake_reg (c : Chip)  : (c.wake).reg = c.reg := rfl
@[simp] theorem Chip.wake_int (c : Chip)  : (c.wake).int = c.int := rfl
@[simp] theorem Chip.wake_red (c : Chip)  : (c.wake).red = c.red := rfl
@[simp] theorem Chip.wake_slots (c : Chip)  : (c.wake).slots = c.slots := rfl
@[simp] theorem Chip.wake_keys (c : Chip)  : (c.wake).keys = c.keys := rfl
@[simp] theorem Chip.wake_scrubKey (c : Chip)  : (c.wake).scrubKey = c.scrubKey := rfl
@[simp] theorem Chip.wake_pci (c : Chip)  : (c.wake).pci = c.pci := rfl
@[simp] theorem Chip.wake_hostWait (c : Chip)  : (c.wake).hostWait = c.hostWait := rfl
@[simp] theorem Chip.wake_coh (c : Chip)  : (c.wake).coh = c.coh := rfl
@[simp] theorem Chip.wake_xlt (c : Chip)  : (c.wake).xlt = c.xlt := rfl
@[simp] theorem Chip.wake_eng (c : Chip)  : (c.wake).eng = c.eng := rfl
@[simp] theorem Chip.wake_kve (c : Chip)  : (c.wake).kve = c.kve := rfl
@[simp] theorem Chip.wake_dbg (c : Chip)  : (c.wake).dbg = c.dbg := rfl
@[simp] theorem Chip.wake_pwr (c : Chip)  : (c.wake).pwr = { c.pwr with idle := false } := rfl
@[simp] theorem Chip.wake_unbinds (c : Chip)  : (c.wake).unbinds = c.unbinds := rfl
@[simp] theorem Chip.wake_links (c : Chip)  : (c.wake).links = c.links := rfl
@[simp] theorem Chip.wake_inject (c : Chip)  : (c.wake).inject = c.inject := rfl
@[simp] theorem Chip.wake_fuses (c : Chip)  : (c.wake).fuses = c.fuses := rfl
@[simp] theorem Chip.wake_sec (c : Chip)  : (c.wake).sec = c.sec := rfl
@[simp] theorem Chip.wake_flash (c : Chip)  : (c.wake).flash = c.flash := rfl
@[simp] theorem Chip.wake_rcu (c : Chip)  : (c.wake).rcu = c.rcu := rfl
@[simp] theorem Chip.wake_out (c : Chip)  : (c.wake).out = c.out := rfl
@[simp] theorem Chip.wake_fresh (c : Chip)  : (c.wake).fresh = c.fresh := rfl

end Sys2Proof.Machine
end

