-- ==== Sys2Proof/Laws/Ops.lean ====
section
/-! SUPPORT. What the shared operations over registers and blocks can do: the equations that proofs cite in place of their definitions. -/

namespace Sys2Proof.Machine

/-! ### Fields of words -/

/-- A field replaced, in parts: what stands above it, the field, what stands below. -/
theorem withBits_parts (x lo w v : Nat) : withBits x lo w v = 2 ^ lo * (2 ^ w * (x / 2 ^ lo / 2 ^ w) + v % 2 ^ w) + x % 2 ^ lo := by
  have a := Nat.div_add_mod x (2 ^ lo)
  have b := Nat.div_add_mod (x / 2 ^ lo) (2 ^ w)
  simp only [withBits, bitsOf]
  generalize x / 2 ^ lo = q at *
  generalize x % 2 ^ lo = r at *
  generalize q / 2 ^ w = t at *
  generalize q % 2 ^ w = f at *
  have e : x = f * 2 ^ lo + (2 ^ lo * (2 ^ w * t) + r) := by rw [← a, ← b]; ring
  rw [e, Nat.add_sub_cancel_left]; ring

@[simp] theorem bitsOf_withBits_self (x lo w v : Nat) : bitsOf (withBits x lo w v) lo w = v % 2 ^ w := by
  have hr : x % 2 ^ lo < 2 ^ lo := Nat.mod_lt _ (Nat.two_pow_pos _)
  rw [withBits_parts, bitsOf, Nat.mul_add_div (Nat.two_pow_pos _), Nat.div_eq_of_lt hr, Nat.add_zero, Nat.mul_add_mod, Nat.mod_mod]

/-- A field below the one replaced is unchanged. -/
theorem bitsOf_withBits_below (x : Nat) {lo w lo' w' : Nat} (v : Nat) (h : lo' + w' ≤ lo) : bitsOf (withBits x lo w v) lo' w' = bitsOf x lo' w' := by
  obtain ⟨d, rfl⟩ := Nat.exists_eq_add_of_le h
  have key (y : Nat) : bitsOf y lo' w' = y % 2 ^ (lo' + w' + d) / 2 ^ lo' % 2 ^ w' := by
    rw [bitsOf, Nat.pow_add, Nat.pow_add, Nat.mul_assoc, Nat.mod_mul_right_div_self, Nat.mod_mul_right_mod]
  rw [key, key x, withBits_parts, Nat.mul_add_mod, Nat.mod_mod]

/-- A field above the one replaced is unchanged. -/
theorem bitsOf_withBits_above (x : Nat) {lo w lo' w' : Nat} (v : Nat) (h : lo + w ≤ lo') : bitsOf (withBits x lo w v) lo' w' = bitsOf x lo' w' := by
  obtain ⟨d, rfl⟩ := Nat.exists_eq_add_of_le h
  have hr : x % 2 ^ lo < 2 ^ lo := Nat.mod_lt _ (Nat.two_pow_pos _)
  have hv : v % 2 ^ w < 2 ^ w := Nat.mod_lt _ (Nat.two_pow_pos _)
  rw [withBits_parts, bitsOf, bitsOf, Nat.pow_add, Nat.pow_add, ← Nat.div_div_eq_div_mul, ← Nat.div_div_eq_div_mul,
    Nat.mul_add_div (Nat.two_pow_pos _), Nat.div_eq_of_lt hr, Nat.add_zero, Nat.mul_add_div (Nat.two_pow_pos _), Nat.div_eq_of_lt hv,
    Nat.add_zero, ← Nat.div_div_eq_div_mul, ← Nat.div_div_eq_div_mul]

/-- A word with a field replaced is a word. -/
theorem withBits_lt {x lo w v n : Nat} (hx : x < 2 ^ n) (h : lo + w ≤ n) : withBits x lo w v < 2 ^ n := by
  obtain ⟨d, rfl⟩ := Nat.exists_eq_add_of_le h
  have hr : x % 2 ^ lo < 2 ^ lo := Nat.mod_lt _ (Nat.two_pow_pos _)
  have hv : v % 2 ^ w < 2 ^ w := Nat.mod_lt _ (Nat.two_pow_pos _)
  have ht : x / 2 ^ lo / 2 ^ w < 2 ^ d := by
    rw [Nat.div_div_eq_div_mul, ← Nat.pow_add]
    exact Nat.div_lt_of_lt_mul (by rwa [← Nat.pow_add])
  rw [withBits_parts, Nat.pow_add, Nat.pow_add]
  generalize x % 2 ^ lo = r at *
  generalize v % 2 ^ w = f at *
  generalize x / 2 ^ lo / 2 ^ w = t at *
  calc 2 ^ lo * (2 ^ w * t + f) + r < 2 ^ lo * (2 ^ w * t + f) + 2 ^ lo := by omega
    _ = 2 ^ lo * (2 ^ w * t + (f + 1)) := by ring
    _ ≤ 2 ^ lo * (2 ^ w * t + 2 ^ w) := Nat.mul_le_mul_left _ (by omega)
    _ = 2 ^ lo * (2 ^ w * (t + 1)) := by ring
    _ ≤ 2 ^ lo * (2 ^ w * 2 ^ d) := Nat.mul_le_mul_left _ (Nat.mul_le_mul_left _ ht)
    _ = 2 ^ lo * 2 ^ w * 2 ^ d := by ring

/-! ### Registers -/

@[simp] theorem word_setWord_self (c : Chip) (off : Nat) (v : Word) : (c.setWord off v).word off = v := by simp [Chip.word]

theorem word_setWord_ne (c : Chip) {o off : Nat} (v : Word) (h : o ≠ off) : (c.setWord off v).word o = c.word o := by
  simp [Chip.word, look_put_ne _ _ h]

theorem word_set_ne (c : Chip) {o off : Nat} (lo w v : Nat) (h : o ≠ off) : (c.set off lo w v).word o = c.word o := word_setWord_ne _ _ h

theorem word_setBit_ne (c : Chip) {o off : Nat} (n : Nat) (v : Bool) (h : o ≠ off) : (c.setBit off n v).word o = c.word o :=
  word_setWord_ne _ _ h

theorem word_set_self (c : Chip) (off : Nat) {lo w : Nat} (v : Nat) (h : lo + w ≤ 32) :
    ((c.set off lo w v).word off).toNat = withBits (c.word off).toNat lo w v := by
  rw [Chip.set, word_setWord_self, BitVec.toNat_ofNat, Nat.mod_eq_of_lt (withBits_lt (c.word off).isLt h)]

/-- A field written reads back; the fields beside it in its word read as before. -/
theorem get_set_self (c : Chip) (off : Nat) {lo w : Nat} (v : Nat) (h : lo + w ≤ 32) : (c.set off lo w v).get off lo w = v % 2 ^ w := by
  rw [Chip.get, word_set_self c off v h, bitsOf_withBits_self]

theorem get_set_beside (c : Chip) (off : Nat) {lo w lo' w' : Nat} (v : Nat) (h : lo + w ≤ 32) (d : lo' + w' ≤ lo ∨ lo + w ≤ lo') :
    (c.set off lo w v).get off lo' w' = c.get off lo' w' := by
  rw [Chip.get, word_set_self c off v h, Chip.get]
  rcases d with d | d
  · exact bitsOf_withBits_below _ v d
  · exact bitsOf_withBits_above _ v d

theorem get_set_ne (c : Chip) {o off : Nat} (lo w v lo' w' : Nat) (h : o ≠ off) : (c.set off lo w v).get o lo' w' = c.get o lo' w' := by
  rw [Chip.get, word_set_ne c lo w v h, Chip.get]

theorem bit_setBit_self (c : Chip) (off : Nat) {n : Nat} (v : Bool) (h : n < 32) : (c.setBit off n v).bit off n = v := by
  rw [Chip.bit, Chip.setBit, get_set_self c off _ h]; cases v <;> rfl

theorem bit_setBit_beside (c : Chip) (off : Nat) {n k : Nat} (v : Bool) (h : n < 32) (d : k ≠ n) :
    (c.setBit off n v).bit off k = c.bit off k := by
  rw [Chip.bit, Chip.setBit, get_set_beside c off _ h (by omega), Chip.bit]

theorem bit_setBit_ne (c : Chip) {o off : Nat} (n k : Nat) (v : Bool) (h : o ≠ off) : (c.setBit off n v).bit o k = c.bit o k := by
  rw [Chip.bit, Chip.setBit, get_set_ne c _ _ _ _ _ h, Chip.bit]

/-! ### What a block does -/

/-- A block does its work where no reset and no stop holds it, and nothing otherwise (R442, R471). -/
theorem live_serving {c : Chip} {b : Blk} (f : Chip → Chip) (p : c.paused b = false) (h : c.held.contains b = false) :
    c.live b f = f c.wake := by rw [Chip.live, p, h]; rfl

theorem live_held {c : Chip} {b : Blk} (f : Chip → Chip) (h : c.paused b = true ∨ c.held.contains b = true) : c.live b f = c := by
  rcases h with h | h <;> simp only [Chip.live, h, Bool.or_true, Bool.true_or, if_true]

/-- A write of a register that has a command of its own acts for a requester that reaches the register, and once it is through, the requester
holds no latch (R6). -/
theorem regCmd_reached {c : Chip} {who : Who} {off : Nat} (f : Chip → Chip) (p : c.speaks who = true) (r : c.reaches who off = true)
    (s : c.shut off = false) : c.regCmd who off f = f ((c.regIn who 4).dropLatch who) := by
  rw [Chip.regCmd, Chip.ask, p, r, s]; rfl

/-- It does nothing else for one that does not reach it, or at a block that is shut off. -/
theorem regCmd_shut {c : Chip} {who : Who} {off : Nat} (f : Chip → Chip) (p : c.speaks who = true)
    (h : c.reaches who off = false ∨ c.shut off = true) : c.regCmd who off f = (c.regIn who 4).dropLatch who := by
  rw [Chip.regCmd, Chip.ask, p]
  rcases h with h | h <;> simp [h]

/-- A requester whose port is in reset is not heard (R444). -/
theorem regCmd_mute {c : Chip} {who : Who} {off : Nat} (f : Chip → Chip) (p : c.speaks who = false) : c.regCmd who off f = c := by
  rw [Chip.regCmd, Chip.ask, p]; rfl

end Sys2Proof.Machine
end

