-- ==== Sys2Proof/Tests/Slice0.lean ====
section
/-! SUPPORT. Tests: ill-formed commands are refused, worked examples of the manual, and one witness per statement that has hypotheses. -/

namespace Sys2Proof.Tests

-- One theorem at a time: each kernel evaluation has the memory to itself.
set_option Elab.async false

open Sys2Proof.Machine

/-! ### Small packages -/

/-- A state with no command waiting. -/
def on (c : Chip) : State := ⟨c, []⟩

/-- A package out of reset, with every table empty; the event counters' selections are those of reset. -/
def up : Chip := { Chip.reset with held := [], act := (upTo 64).map (fun j => (0x120E000 + 8 * j, ⟨0, 0, 0⟩)), rcu := { asserted := none, releasing := none, fusing := false } }

/-- A register field set to 1. -/
def Chip.with1 (c : Chip) (l : List (Nat × Nat)) : Chip := l.foldl (fun c e => c.setBit e.1 e.2 true) c

/-- An H15 part whose blocks are enabled and whose tables are usable, with four contexts (1: a tenant's admin at host function 0; 2: an agent
of node 5; 3: a plain host function), two extents of tenant 1 (7 and a lent 9) and the stacks READY. -/
def adm : CtxE := { valid := true, admin := true, srcPcie := true, tenant := 1, rights := 31, faultq := 2, faultqValid := true }
def agt : CtxE := { valid := true, srcNode := 5, srcMask := 0xFFFFFF, tenant := 1, rights := 31, agent := 3, agentValid := true }
def ext7 : Extent := { plaBase := 16, len := 2, ownerCtx := 1, backing := 100, rights := 31, gen := 4, st := .live, tenant := 1 }
def ext9 : Extent := { plaBase := 32, len := 1, ownerCtx := 1, backing := 50, rights := 31, gen := 4, st := .live, tenant := 1, lent := true,
                         lender := 6, lenderCtx := 1 }
def w : Chip :=
  let c := Chip.with1 (up.set 0x10 0 20 786432) [(rEXT_CTL, 0), (rEXT_STATUS, 0), (rRNG_CTL, 0), (0x300000, 0), (0x380000, 0), (0x400000, 0),
    (0x500000, 0), (0x700000, 0), (rINT_CTL, 0), (rINT_CTL, 1), (rRTE_CTL, 0), (rINT_STATUS, 0)]
  let c := (upTo 20).foldl (fun c k => (c.setStkState k stkReady).setBit (stkReg k 0) 0 true) c
  let c := (((c.putCtx 1 adm).putCtx 2 agt).putExt 7 ext7).putExt 9 ext9
  ((c.setExt { c.ext with lenders := [(6, 0)] }).set rRTE_NODE 0 24 1).setReg ⟨[], (upTo 32).map (fun p => (p, 100000))⟩

/-- A descriptor on ring 1 from an opcode, its context and fields by bit position. -/
def dsc (op ctx : Nat) (fs : List (Nat × Nat)) : Desc := ⟨1, 0, BitVec.ofNat 512 (fs.foldl (fun a e => a + e.2 * 2 ^ e.1) (op + ctx * 2 ^ 16))⟩

/-- The entry under which a request is admitted. -/
def grant (v : Verdict) : ElbE := match v with | .granted x => x | _ => ⟨0, 0, {}, {}⟩

/-- Messages of node 5 under context 2, to the package's own node 1. -/
def req (op : Byte) (pla : Nat) : Msg := { cls := clsReq, opcode := op, dest := 1, src := 5, txn := 9, ctx := 2, addr := BitVec.ofNat 64 pla, bytes := 64 }
def wreq (op : Byte) (pla : Nat) : Msg := { req op pla with len := 1, be := 0xF, data := List.replicate 64 7 }
def rsp (op : Byte) (txn : BitVec 16) : Msg := { cls := clsRsp, opcode := op, dest := 1, src := 5, txn := txn }

/-- Ring 1 of context 1, ring 4 of context 2 in the memory of node 5, fault queue 2 and error record queue 3 of context 1. -/
def ring1 : RingP := { st := .active, ctx := 1, tail := 4, fetchIx := 4, cqPut := 2, irq := 1, coalMax := 16, coalWait := 10, runahead := 64 }
def fet (op : Nat) (ix : Word) : Fetched := ⟨ix, (dsc op 1 []).raw, .fetched, [], 0⟩
def wr : Chip := ((((w.putRing 1 ring1).putRing 4 { st := .active, ctx := 2, loc := 1, hostNode := 5 }).putFq 2
  { enabled := true, ctrlCtx := 1, put := 3 })).putEq 3 { enabled := true, ctrlCtx := 1, put := 3 }
def cpl : Cpl := ⟨1, 0, .ok, false, false, 0, 0, 0, false⟩

/-- A read of line 1000 and a write of stripe 100 in progress, in extent 7. -/
def tgt7 : Target := { handle := 7, tenant := 1, ctx := 2, slot := none, pair := none, pla := 16 * 2 ^ 21, ppa := 64000 }
def rdop (st : LineSt) : ReadOp := { port := 3, who := .fabric 3 (req 1 (16 * 2 ^ 21)), tgt := tgt7, bytes := 64, lines := [⟨1000, st, 0, 0⟩], extra := 0,
                                     urgency := 0, guaranteed := true, waited := 0, start := 0 }
def rdw (st : LineSt) : Chip := ((w.setInt { w.int with reads := [(4, rdop st)] }).addInflight 7).setReg { w.reg with cap := [(29, 20000)] }
def stripe (locked : Bool) : StripeOp := { stripe := 100, chgs := [⟨0, List.replicate 64 7, allOn 64, false⟩], write := 5, port := 3, locked := locked, pla := 16 * 2 ^ 21, q := ⟨3, true, 0, 0, 0, 0⟩ }
def wrop : WriteOp := { who := .fabric 3 (wreq 2 (16 * 2 ^ 21)), tgt := tgt7, stripes := [6], mirrors := [], pair := false, status := .ok, extra := 0 }
def wrw (locked : Bool) : Chip :=
  ((w.setInt { w.int with stripes := [(6, stripe locked)], writes := [(5, wrop)] }).addInflight 7).setReg { w.reg with cap := [(3, 900)] }


/-- An operator's descriptor of context 1: words name extent 7 (generation 4) from a tile on, in a format. -/
def P7 : Nat := 16 * 2 ^ 21
def wd (off tile fmt : Nat) : List (Nat × Nat) := [(8 * off, P7 + tile * 4096), (8 * off + 48, 4), (8 * off + 56, fmt)]
/-- Extent 7 with tile check words; a line of extent 7 in the line cache. -/
def sealing : Chip := (w.putExt 7 { ext7 with tchk := 1 }).setBit rTCHK_CTL 0 true
def cached (c : Chip) (line : Nat) (b : List Byte) : Chip := c.lccFill (3276800 + line) 1 (b ++ zeros (64 - b.length))
/-- A domain of tenant 1 whose walk cache knows the last level's node, and a page of it: readable, writable, at 0x5000. -/
def dom : Chip := w.setXlt { w.xlt with domains := [(5, ⟨P7, false, 1, 1⟩)], maps := [(1, ⟨5, true, true⟩)] }
def walking : Chip :=
  cached (dom.setXlt { dom.xlt with wc := [⟨5, 1, 0, P7⟩], walks := [⟨5, 0⟩] }) 0 (bytesLE 8 0x5007)
def tlbe : TlbE := ⟨5, 0, 0, 0x5000, 1, true⟩
/-- FOLD_WRITE's fields: one tile of extent 7 in FP32, one contributor, ARM_SEQ 7, the list at tile 8; with peers; and OPT_STEP's. -/
def fwF : List (Nat × Nat) := wd 16 0 0 ++ [(192, 1), (208, 1), (224, 1), (228, 1), (256, 7)] ++ wd 40 8 0
def fwD : Desc := dsc 0x25 1 fwF
def rsD (op : Nat) : Desc := dsc op 1 (fwF ++ wd 48 4 0 ++ [(448, 1)])
def optD (algo fuse : Nat) : Desc :=
  dsc 0x2B 1 (wd 16 0 1 ++ wd 24 1 1 ++ (if algo = 0 then wd 32 2 1 else []) ++ wd 40 3 1 ++ wd 48 16 0
    ++ [(448, 1), (464, algo), (466, fuse), (480, 7), (496, fuse)])
def grantOf (c : Chip) (r : Req) : ElbE := grant (c.check elbSeq r).2.1
/-- Operator 3, held by sequencer 0, and tile 0 of it in a unit. -/
def scD : Desc := dsc 0x22 1 (wd 16 0 0 ++ [(192, 4)])
def op0 (d : Desc) : Op := { seqn := 0, d := d, total := 4 }
def ops (o : Op) : Chip := w.setEng { w.eng with ops := [(3, o)] }
def unitOf (q : List TileCmd) (r : Option Run) : EngUnit := { queue := q, run := r }
def inUnit (o : Op) (u : Nat) (x : EngUnit) : Chip := w.setEng { w.eng with ops := [(3, o)], units := [(u, x)] }
def runs (st : RunSt) : Run := { cmd := ⟨3, 0, []⟩, st := st, beat := 0 }
/-- A COPY of 4 KiB from host address 0x10000 (mode DIRECT) to extent 7. -/
def cpD : Desc := dsc 0x20 1 ([(128, 0x10000), (190, 1)] ++ wd 24 0 0 ++ [(256, 4096), (320, 1)])
/-- An armed region in slot 2, a closed one, and a contribution of node 5 to its tile. -/
def armed : Region := { w.fwRegion fwD none with st := .armed, list := [5], handle := 7, tenant := 1 }
def armedW (t : RTile) : Region := { armed with work := [(0, t)] }
def withReg (r : Region) : Chip := w.setEng { w.eng with regions := [(2, r)] }
/-- A region over the lent extent 9, whose lender has answered the read of its tile. -/
def P9 : Nat := 32 * 2 ^ 21
def armed9 : Region := { armedW { init := 1 } with pla := P9 }
def answered9 : Chip := (withReg armed9).setExt { w.ext with units := [⟨1, P9, 4096, false, 3, 0, some (.dataLost, [])⟩] }
def fold5 : Msg :=
  (({ cls := clsFold, opcode := 0x10, dest := 1, src := 5, txn := 9, ctx := 2, addr := BitVec.ofNat 64 P7, bytes := 4096, len := 64,
      data := zeros 4096 } : Msg).withSpec 0 2 7)
def gotOf (g : Got) : Option ElbE := match g with | .got _ _ x _ => x | _ => none
/-- Three stacks of group 0 FAILED, so that a line on one of them is lost. -/
def threeFailed (c : Chip) : Chip := Chip.with1 c [(rINT_STATUS, 5), (rINT_STATUS, 6), (rINT_STATUS, 7)]

/-- KVE enabled and READY, its tables in extent 3 of context 0 (folio 1000 on); tenant 1's arena: folio 16, 16 leaves, quires 0 to 99, 8 prefixes. -/
def ext3 : Extent := { plaBase := 1000, len := 2000, backing := 1000, rights := 31, gen := 2, st := .live }
def Chip.activate (c : Chip) (off : Nat) (v : Word) : Chip := { c with act := put c.act off ⟨v, v, v⟩ }
def kvw : Chip :=
  let c := ((Chip.with1 (w.putExt 3 ext3) [(rKVE_CTL, 0), (rKVE_STATUS, 0)]).set64 rKVE_BASE (1000 * 2 ^ 21 + 2 * 2 ^ 48)).set64 rTCHK_BASE
    (1000 * 2 ^ 21 + 2 * 2 ^ 48)
  [(0, 16), (8, 16), (16, 100), (20, 8)].foldl (fun c e => Chip.activate c (0x601020 + e.1) e.2) c
/-- A quire of tenant 1 in the tables, as the line cache holds its entry; a prefix entry for a key. -/
def qu (n pfx : Nat) : Quire := { st := 1, gen := 3, tenant := 1, tokens := n, leaves := ceilDiv n 16, pfx := if pfx = 0 then none else some pfx }
def withQuire (h : Nat) (q : Quire) (c : Chip) : Chip :=
  (c.lccFill (32768000 + h) 0 (bytesLE 64 q.bits)).setKve { c.kve with quires := c.kve.quires ++ [h] }
def withPfx (key h : Nat) (c : Chip) : Chip :=
  c.lccFill (32768000 + (0x14000000 + 256 * pfxSet 1 key) / 64) 0 (bytesLE 64 (Pfx.bits ⟨key, 1, false, true, h, 3, 0, 0⟩))
def apD (x : Nat) : Desc := dsc 0x30 1 [(128, 5), (148, 3), (160, 4), (176, 1), (192, 0x10000), (254, 1), (256, x)]
def gaD : Desc := dsc 0x31 1 [(128, 5), (148, 3), (192, 1), (232, 1), (248, 1), (256, 0x10000), (318, 1)]
/-- An append whose data has been moved and written. -/
def apO : KvOp := { d := apD 0xFFFFFFFF, st := .moving, quires := [5], op := 3, leaves := [0], blocks := [0] }
def apP : Op := { seqn := 16, d := apD 0xFFFFFFFF, total := 2, next := 2, issue := 2 }
def kvCommitting (c : Chip) : Chip := (c.setKve { c.kve with ops := [(4, apO)], nextId := 5 }).setEng { c.eng with ops := [(3, apP)] }
def apWait : KvOp := { apO with st := .deferred, op := 0, leaves := [], blocks := [] }
def gaS : State := on (withQuire 5 (qu 1 0) kvw)
theorem three {α β γ : Type} {x : α × β × Option γ} {q : β} (h : x.2.1 = q) (h' : x.2.2 = none) : x = (x.1, q, none) := by
  rw [← h, ← h']

/-- Extent 7 coherent, agent 3 (node 5, context 2) and agent 4 (node 8) JOINED; an agent's entries for lines. -/
def L7 : Nat := P7 / 64
def cohw (l3 l4 : List FEnt) : Chip :=
  let c := w.putExt 7 { ext7 with coh := 1 }
  let ag (n : NodeId) : Agent := { st := .joined, node := n, setsLog2 := 4, ways := 4, tenant := 1 }
  c.setCoh { c.coh with agents := [(3, ag 5), (4, ag 8)], parts := (if l3 = [] then [] else [(3, l3)]) ++ (if l4 = [] then [] else [(4, l4)]) }
def creq (op : Byte) : Msg := { cls := clsReq, opcode := op, dest := 1, src := 5, txn := 9, ctx := 2, addr := BitVec.ofNat 64 P7 }
def wbData : Msg := { creq 0x43 with len := 1, data := List.replicate 64 7 }
/-- Agent 3 with a snoop outstanding in slot 6. -/
def snp (op : Nat) (why : SnpWhy) : Snp := { agent := 3, line := L7, op := op, why := why, m := true }
def snooped (p : Snp) : Chip :=
  let c := cohw [⟨L7, true, 1⟩] []
  (c.setCoh { c.coh with snps := [(6, p)] }).addInflight 7
/-- An operator's access whose line agent 3 holds in S, under way. -/
def probeT : CohTxn := { kind := .write, who := .none, agent := 64, port := 25, tgt := tgt7, bytes := 64, data := [], be := [], miss := false,
                         strict := false, started := true }
def probing : Chip := (snooped (snp 0x52 (.txn 8))).setCoh { (snooped (snp 0x52 (.txn 8))).coh with txns := [(8, probeT)] }
def ackData : Msg := { rsp 0x64 6 with len := 1, data := List.replicate 64 7 }
/-- Agent 3 as it leaves. -/
def leaving : Chip :=
  let c := cohw [] []
  c.putAgent 3 { c.agent 3 with st := .leaving, leave := some (dsc 0x39 1 [(128, 3)]), binvs := 2 }

/-- Port 3 in a state, its laser usable, with what its link holds. -/
def lk (st : Nat) (l : Link) : Chip := ((w.setLnkState 3 st).setBit (lnkReg 3 4) 6 true).putLink 3 l
def secOk (c : Chip) : Chip := c.setSec { c.sec with testsOk := true }
def hel (n : Nat) : HelloFlit := ⟨BitVec.ofNat 24 n, 3, true, 72, 3232⟩
def off0 : Offer := ⟨77, 0, [], [], [], [88], true⟩
def offered : Link := { begun := true, offer := some off0 }
def answered : Link := { begun := true, offer := some off0, resp := some ([5], 6) }
def whole2 : Frags := ⟨[0, 1], 2⟩
def slots1 : List Slot := [⟨1, 5⟩]
def grp (n : Nat) : Group := { seq := BitVec.ofNat 64 n, slots := slots1, tag := 0, mark := false }
def sent : Link := { replay := [grp 1, grp 2, grp 3], tx := 4, credit := List.replicate 12 72, credit0 := 72 }
def ack2 : LctlFlit := { lctlNone with ackValid := true, ackSeq := 2, credit := List.replicate 12 1, shared := 4 }
/-- A message of one DATA flit for node 2, in the REQ VC of port 4; port 3 is productive in dimension 0 and has credits. -/
def thead : Flit := BitVec.ofNat 512 (2 * 2 ^ (8 * (63 - 4)) + 2 ^ (8 * (63 - 24)))
def tmsg : Transit := ⟨thead, [9], false⟩
def toward2 (c : Chip) : Chip := Chip.activate (Chip.activate c 0xA02000 0x02000002) 0xA02004 0x80000000
def routing : Chip := toward2 <|
  let c := (lk lsActive { keys := some ⟨1, 2, 3, 4⟩, credit := List.replicate 12 72, credit0 := 72 }).putLink 4 { vcs := [(0, [tmsg])] }
  Chip.activate (Chip.activate c (portReg 3) 0) (dimReg 0 2) 8

def own2 : Msg := { cls := clsReq, opcode := 1, dest := 2, src := 1, bytes := 64 }
def cutThrough : Chip := ((lk lsActive { part := some ⟨0, thead, [9], .port 4 0 0⟩, loans := [(0, 1)] }).setLnkState 4 lsActive).putLink 4 { keys := some ⟨1, 2, 3, 4⟩, feed := 3 }
/-- Four other links run key establishment. -/
def keying : Chip :=
  [4, 5, 6, 7].foldl (fun c k => (c.setLnkState k lsKey).putLink k { begun := true }) (lk lsParam { hellos := [hel 2] })
/-- A package whose anchor 0 is fused. -/
def fusedW : Chip := (secOk (lk lsKey { begun := true })).setFuses { Fuses.part with anchors := [(0, Config.sha3 (sized 2592 []))] }

/-- Stack 2 with debts, activations and open rows; the stack and the bank of line 1000. -/
def stk0 (b : Bool) (r : Nat) : Stk :=
  { debt := [(4, 7)], acts := [(4, 64)], rows := [(4, 9), (6, 1)], pause := ⟨5, 0, r, b⟩, duePos := 0, predicted := [4] }
def stkw (b : Bool) (r : Nat) : Chip := (w.putStk 2 (stk0 b r)).setReg { w.reg with cap := [(25, 900)] }
def sk : Nat := (linePlace 1000).1
def bk : Nat := bankOf (linePlace 1000).2
def urgent (u : Nat) : ReadOp := { rdop .issued with urgency := u }
def patient : ReadOp := { urgent 1 with guaranteed := false, waited := 1 }
def cReset (k st : Nat) : Chip := ((stkw true 1).setStkState k st).setRcu { w.rcu with asserted := some .c }
def wrEnt : WrEnt := ⟨0, ⟨3, true, 1, 0, 9, 0⟩, 0⟩
def lateW : Chip := ((stkw true 1).putStk 2 { stk0 true 1 with wq := [wrEnt] }).setEsc { w.esc with now := 9000 }
def patientO : StripeOp := { stripe true with q := ⟨3, false, 0, 0, 1, 0⟩ }
/-- INT at work: stripe 50 next, within grants; extent 7 scrubbing. -/
def intw : Chip :=
  (((w.setBit rINT_CTL 0 true).setWord rINT_SCRUB_POS 50).setInt { w.int with walkGrant := 2, rebuildGrant := 700 }).setReg
    { w.reg with guar := [(29, 9000)] }
def zeroing : Chip := ((intw.putExt 7 { ext7 with st := .scrubbing }).setInt { intw.int with zero := [⟨7, 1⟩], paid := 2621440 })
def catted : Chip := w.setInt { w.int with cat := [(3, ⟨77, 2, 0, 0, true, 1⟩)], catStamp := 1 }
/-- Pair group 5 over folios 100 and 101, which extent 7 names or not; one of its mirror writes. -/
def grp5 (red : Bool) : Chip :=
  let c := (((w.setBit (groupWord 5 0) 31 true).set (groupWord 5 0) 0 24 6).set (groupWord 5 2) 0 20 100).set (groupWord 5 3) 0 20 2
  (c.putExt 7 { ext7 with red := red, pairGroup := 5 }).setBit rRED_CTL 0 true
def mir (r : Option Nat) : Mirror := ⟨5, 3276800, zeros 64, 0, 0, r.isNone, r⟩
def mirrored (r : Option Nat) : Chip := (grp5 true).setRed { w.red with mirrors := [(8, mir r)], nextTxn := 9 }
def resyncing : Chip := ((grp5 true).setGroupPair 5 2).setRed { w.red with dirty := [100], resyncs := [⟨5, 100, 512, []⟩] }
def rebuilding : Chip :=
  ((grp5 true).setInt { w.int with rebuildGrant := 700 }).setRed { w.red with rebuilding := [(7, 409600)], fetch := some 409600 }
def image0 : CkptImage := ⟨[(7, ext7)], [(1, adm)], [(2, { st := .bound, tenant := 1 })], [], .clean, []⟩
def head0 : Header := ⟨3, 40, 1, image0⟩
def restoring (h : Option Header) : Chip :=
  ((Chip.with1 w [(rRED_REGION, 0)]).setBit rRED_STATUS 0 false).setRed { w.red with header := h }
def taking : Chip := (w.setBit rRED_CTL 0 true).set rRED_STATUS 2 2 1
def copy0 : Restored := ⟨w.get 0x0 24 2, true, 1, [(7, BitVec.ofNat 256 ext7.bits)], [], [], none, [], [], []⟩
/-- A word whose three active copies differ. -/
def differ : Chip := { up with act := [(0x100, ⟨1, 3, 2⟩)] }
def jrec (q : Nat) : JRec := ⟨BitVec.ofNat 64 q, 40, (.group 5 []), false, true⟩
def ckpt0 (u : Bool) : Chip :=
  (w.setRed { w.red with ckpt := some head0, journal := [jrec 0, jrec 1], journaling := true, jwaits := [⟨[1], 0, dsc 0x20 1 [], 0⟩] }).setEsc
    { w.esc with lock := if u then .unlocked else .locked }

/-- SEC is READY, its firmware booted; management key 1 is programmed; signed commands that verify, or not. -/
def secW : Chip :=
  (((((w.setBit rSEC_STATUS 0 true).set rSEC_STATUS 1 2 2).setBit rMGT_STATUS 3 true).setSec { w.sec with testsOk := true }).setFuses
    { Fuses.part with mgmt := [(1, 77)] }).putCtx 1 { adm with mgmt := true }
def sg (ok : Bool) : SignedCmd := ⟨1, secW.bootId, 5, Fuses.part.serial, true, false, 77, ok, 9, none⟩
def imgW : Image := { rootHash := 0, firstOk := true, mgtOk := true, seqOk := true, svn := 1, first := 1, mgt := 2, seq := 3 }
def imgX : Image := { imgW with firstOk := false }
def att (v : Transport) : AttestReq := ⟨v, 0, false, 3⟩
def attested (l : List AttestReq) : Chip := secW.setSec { secW.sec with attests := l }
/-- TENANT_BIND of tenant 2 to slot 3, TENANT_UNBIND of tenant 2 or 1; a tenant whose unbind goes on. -/
def bindD : Desc := dsc 0x40 1 ([(128, 2), (144, 3)] ++ wd 24 0 0 ++ wd 32 8 0)
def bindO : BindSealed := ⟨9, 40, false, 0, 6⟩
def bindB : BindBlob := ⟨secW.bootId, 2, 3, some bindO⟩
def unbD (t : Nat) : Desc := dsc 0x41 1 [(128, t)]
def unbW (u : Unbind) : Chip := (secW.putSlot 3 { st := .bound, tenant := 2, kcv := 1 }).setUnbinds [(2, u)]
def unbU : Unbind := { descs := [unbD 2] }
/-- CONTENT_KEY_LOAD of one tile into a keyed lent extent of tenant 1, whose slot is 4 and whose lender has answered the write. -/
def ckD : Desc := dsc 0x42 1 (wd 16 0 0 ++ wd 24 1 0 ++ [(256, P9), (304, 4), (320, 1)])
def ckE : Envelope := ⟨1, 1, true, true, [zeros 4096]⟩
def ckW : Chip :=
  let c := (secW.putExt 9 { ext9 with keyValid := true, keySlot := 4 }).putSlot 4 { st := .bound, tenant := 1 }
  c.setExt { c.ext with units := [⟨1, P9, 4096, true, 3, 0, some (.ok, [])⟩] }
def ckX : Option ElbE := ((on ckW).chip.ckDest ckD ckE).2.2
theorem ck_x : ((on ckW).chip.ckDest ckD ckE).2.2 = ckX := by rw [ckX]
def keyedBy (x : Option ElbE) (slot : Nat) : Bool := match x with | some y => y.e.keyValid && y.e.keySlot == slot | none => false
theorem keyed_by {x : Option ElbE} {slot : Nat} (h : keyedBy x slot = true) : ∃ y, x = some y ∧ y.e.keyValid = true ∧ y.e.keySlot = slot := by
  cases x with
  | none => cases h
  | some y => exact ⟨y, rfl, by simpa [keyedBy] using h⟩
def Got.fine (g : Got) : Bool := match g with | .got st _ _ _ => st.good | _ => false
theorem got_fine {g : Got} (h : Got.fine g = true) : ∃ st n x l, g = .got st n x l ∧ st.good = true := by
  cases g with
  | wait => cases h
  | got st n x l => exact ⟨st, n, x, l, rfl, h⟩
def Got.done (g : Got) : Bool := match g with | .got st _ _ _ => st != .busyRetry | _ => false
theorem got_done {g : Got} (h : Got.done g = true) : ∃ st n x l, g = .got st n x l ∧ st ≠ .busyRetry := by
  cases g with
  | wait => cases h
  | got st n x l => exact ⟨st, n, x, l, rfl, by simpa [Got.done] using h⟩
theorem ck_header : Got.fine ((on ckW).chip.ckHeader ckD ckE).2 = true := by decide +kernel
theorem ck_source : ((on ckW).chip.ckSource ckD ckE).2.1 = none := by decide +kernel
theorem ck_dest : ((on ckW).chip.ckDest ckD ckE).2.1 = none := by decide +kernel
theorem ck_slot : ((on ckW).chip.ckDest ckD ckE).1.slotOf (((on ckW).chip.ckDest ckD ckE).1.caller ckD).tenant = some 4 := by decide +kernel
theorem ck_bound : (((on ckW).chip.ckDest ckD ckE).1.slot 4).st = .bound := by decide +kernel
theorem ck_keyed : keyedBy ckX 4 = true := by decide +kernel
theorem ck_all : ckTiles ckD ≤ ((on ckW).chip.ckLoaded ckD ckE).2.1 ∧ ((on ckW).chip.ckLoaded ckD ckE).2.2 = .stops := by decide +kernel
/-- The ROM's turn: nothing booted; the release of SEQ. -/
def romW : Chip := { w with flash := { w.flash with recA := some ⟨1, 0, 1, 0⟩ } }
def seqHeld : Chip := { secW with held := [.seq] }
/-- Resets: the scope of PERST#, a level under way, eight resets in the last second; stacks all in self-refresh. -/
def scope (n : Nat) : Chip := w.set 0x10000 0 2 n
def inReset (a : Option Level) : Chip := w.setRcu { w.rcu with asserted := a }
def eight : Chip := w.setRcu { w.rcu with resets := List.replicate 8 0 }
def slept (c : Chip) : Chip := (upTo 20).foldl (fun c k => c.setStkState k stkSelf) c
def lostW (l : List Nat) : Chip := w.setRcu { w.rcu with lost := l }
def fusingW (n : Nat) : Chip := (w.set 0x10014 2 2 n).setRcu { w.rcu with fusing := true }
def pciHeld : Chip := { secW with held := [.pci], sec := { secW.sec with confirmed := true } }
def calm : Chip := w.setPwr { w.pwr with soft := true, reached := true }
/-- The trace: a debug level, a stop, a capture of kind 1, a spill region in extent 3 of context 0. -/
def dbgW (n : Nat) : Chip := w.setBit 0x50000 n true
def stoppedW (n : Nat) : Chip := (dbgW n).setBit 0x50010 8 true
def capW : Chip := Chip.activate ((dbgW 0).setBit rTRC_STATUS 0 true) 0x1300004 2
def te : TraceEntry := { kind := 1, block := 5, inst := 0, code := 7, ctx := 0, unit := 0, addr := 64, tag := 0, aux := 0 }
def spilling : Chip :=
  let c := [(0x1300000, 0x200), (0x1300018, 0x7D000000), (0x130001C, 0x20000), (0x1300020, 1)].foldl (fun c e => Chip.activate c e.1 e.2)
    (w.putExt 3 ext3)
  c.setDbg { c.dbg with written := 128 }
/-- A flash operation under way. -/
def flashing (e : Bool) : Chip := { w with flash := { w.flash with op := some ⟨e, 0x80000, [7], .register .mgt⟩ } }

/-- A package no link of which is ACTIVE has a route to itself alone. -/
theorem no_route {c : Chip} {n : NodeId} (h : c.isOwnDest n = false) (u : ∀ p, p < 24 → c.lnkState p ≠ lsActive) : c.hasRoute n = false := by
  have up (p : Nat) : c.portUp p = false := by
    by_cases hp : p < 24 <;> simp [Chip.portUp, hp, u]
  have e (t : NodeId) (i k : Nat) : c.escape t i k = none := by
    unfold Chip.escape; split <;> simp [up]
  simp [Chip.hasRoute, h, Chip.productive, up, e]

theorem loss_no_route {c : Chip} {n : Nat} (h : c.isOwnDest (c.agent n).node = false) (u : ∀ p, p < 24 → c.lnkState p ≠ lsActive) :
    c.lossHolds n .noRoute = true := by simp [Chip.lossHolds, no_route h u]

/-! ### Ill-formed commands: one term for each check -/

/-- A message and a descriptor of an opcode that the commands below do not carry. -/
def strayMsg : Msg := req 0x7F 0
def strayDesc : Desc := dsc 0x7F 0 []
def okDesc (op : Nat) : Desc := dsc op 0 []
def okMsg (op : Byte) : Msg := req op 0

theorem test_wf_refuses_senders_and_offsets :
    ([.registerWrite (.vf 0) 0 4 0, .counterReadClear (.vf 256) 0 ⟨4, 0⟩, .reg64LowRead .mgt 4, .reg64HighRead .mgt 8,
      .reg64LowWrite .mgt 12 0, .reg64HighWrite .mgt 0 0, .mgtFlashErase (.register (.vf 0)), .mgtFlashProgram (.register .mgt) []] : List Instr).all
      (fun i => !i.wf) = true := by decide

theorem test_wf_refuses_opcodes :
    ([.rd 0 strayMsg, .wr 0 strayMsg, .wrBe 0 strayMsg, .rdRsp 0 strayMsg, .wrAck 0 strayMsg, .lendDone 0 strayMsg, .reclaim 0 strayMsg,
      .doorbell 0 strayMsg, .foldContrib 0 strayMsg, .rdShared 0 strayMsg, .rdOwn 0 strayMsg, .upgrade 0 strayMsg, .wbData 0 strayMsg,
      .wbClean 0 strayMsg, .evictS 0 strayMsg, .snpAck 0 strayMsg, .snpAckData 0 strayMsg, .heartbeat 0 strayMsg, .ctxSet strayDesc,
      .ctxClear strayDesc, .extMap strayDesc, .extRevoke strayDesc, .extRelease strayDesc, .nop strayDesc, .ringSet strayDesc,
      .ringAbort strayDesc, .xltInval strayDesc, .copy strayDesc, .fill strayDesc, .scrub strayDesc, .convert strayDesc, .fold strayDesc,
      .foldWrite strayDesc, .reduceScatter strayDesc, .allReduce strayDesc, .broadcast strayDesc, .gather strayDesc, .scatter strayDesc,
      .seal strayDesc, .check strayDesc, .complication strayDesc, .watch strayDesc, .kvAppend strayDesc, .kvGather strayDesc,
      .agentJoin strayDesc, .agentLeave strayDesc, .tenantUnbind strayDesc] : List Instr).all (fun i => !i.wf) = true := by decide +kernel

theorem test_wf_refuses_actions :
    ([.queueEnable (okDesc 0x03), .queueDisable (dsc 0x03 0 [(129, 1)]), .domainSet (dsc 0x19 0 [(128, 1)]), .domainClear (okDesc 0x19),
      .attach (okDesc 0x19), .optStepAdamw (dsc 0x2B 0 [(464, 1)]), .optStepLion (okDesc 0x2B), .optStepSgdMomentum (okDesc 0x2B),
      .kvCreate (dsc 0x32 0 [(128, 1)]), .kvFork (okDesc 0x32), .kvForkPrefix (okDesc 0x32), .kvPublish (okDesc 0x32),
      .kvDropQuire (dsc 0x33 0 [(128, 1)]), .kvDropPrefix (okDesc 0x33), .kvPinQuire (dsc 0x34 0 [(128, 1)]), .kvPinPrefix (okDesc 0x34),
      .kvEvictAge (dsc 0x35 0 [(128, 1)]), .kvEvictQuota (okDesc 0x35)] : List Instr).all (fun i => !i.wf) = true := by decide +kernel

theorem test_wf_refuses_numbers :
    ([.beat 24 ⟨0, 0, 0, 0, 0, 0, 0⟩ 0, .ctxChangePoint 65536, .revocationPoint 262144, .directoryWalk 29 0 0, .directoryWalk 0 65536 0,
      .directoryWalk 0 0 (2 ^ 48), .entryRebuild 3 0, .entryRebuild 0 262144, .bar4Read 256 0 4 0 none, .bar4Read 0 0 0 0 none,
      .bar4Write 0 0 [] none, .sqTailWrite 0 4096 (.write 4) 0 none, .sqTailWrite 0 0 (.write 65) 0 none, .sqTailWrite 0 0 (.other 4096 4) 0 none,
      .sqTailWrite 0 0 (.read 2 0) 0 none, .sqTailWrite 0 0 (.read 0 65536) 0 none, .cqHeadWrite 0 0 0 0 none, .fqHeadWrite 0 0 64 4 0 none,
      .eqHeadWrite 0 0 64 4 0 none, .descriptorArrival 0 true (List.replicate 65 0), .batchWaitExpiry 4224, .xltWalk 4096 0,
      .xltWalk 0 (2 ^ 64), .moverBurst 32, .tileStart 64, .peerTimeout 0 4096, .foldArmed 4096, .agentLeaveDone 64, .laserLoss 4,
      .msgAbort 0 12, .messageRoute 25 0, .messageRoute 0 12, .refreshDue 20 0, .rfmDue 0 4096, .urgencyRise 0 32 1, .urgencyRise 0 0 5,
      .redGroupClear .mgt 4096, .attest (.doe 256) 0 true 0, .attest .mailbox 1024 true 0, .fwStage (sg true) 2 imgW, .clockLoss 52,
      .doeDiscovery 256, .hostReadCompletion 64 true [], .ring0Enable (.vf 0) 0] : List Instr).all (fun i => !i.wf) = true := by decide +kernel

theorem test_wf_refuses_lengths :
    ([.tag 0 ⟨List.replicate 32 ⟨0, 0⟩, 0⟩ 0 true, .tag 0 ⟨[], 33⟩ 0 true, .lctl 0 { lctlNone with credit := [] }, .keyOffer 0 whole2 off0,
      .keyResponse 0 whole2 [] 0, .ideSessionOpen [] 0, .rebuildStripe 0 [[]], .mgtFlashProgram (.service 0 0) [0]] : List Instr).all
      (fun i => !i.wf) = true := by decide +kernel

theorem test_wf_accepts :
    ([.registerWrite .mgt 0 4 0, .rd 0 (okMsg 1), .copy (okDesc 0x20), .queueEnable (dsc 0x03 0 [(129, 1)]), .lctl 0 lctlNone,
      .tileStart 63, .refreshDue 19 4095, .clockLoss 51] : List Instr).all (fun i => i.wf) = true := by decide +kernel

/-! ### Examples of the manual -/

/-- 18_register_map.md, example after R493: LNK_7.STATUS, STK_12.TRAIN_PERIOD, RTE_DIM_2_37. -/
theorem test_register_offsets : lnkReg 7 4 = 0x870004 ∧ stkReg 12 0xC = 0xD8000C ∧ dimReg 2 37 = 0xA01294 := by decide

/-- 00_scope.md, example after R3: the coordinate of node 0x080043. -/
theorem test_node_coordinate : (upTo 4).map (coordOf 0x080043#24) = [3, 1, 0, 2] := by decide

/-- 11_memory_stacks.md, example after R325: PPA 0x4B2798F65. -/
theorem test_ppa_place :
    let p := linePlace (0x4B2798F65 / 64)
    p = (14, 19701347) ∧ pcOf p.2 % 2 = 1 ∧ channelOf p.2 = 17 ∧ bankGroupOf (bankOf p.2) = 3 ∧ rowOf p.2 = 300 := by decide

/-- 03_extents.md, example after R88: two levels of interleave lead from folio 21 to folio 3 of node 0x040109. -/
def gathering : Chip :=
  [(0x100080, 2), (0x100100, 2), (0x100104, 60 * 2 ^ 18), (0x100108, 262408), (0x10010C, 2), (0x100110, 257), (0x10011C, 1)].foldl
    (fun c e => Chip.activate c e.1 e.2) up
theorem test_interleave : gathering.ilvWalk 2 0 21 (gathering.ilvBase 0) = (3, 0x040109#24) := by decide +kernel

/-- 02_beat_and_commit.md, example after R50: a commit written 100 cycles before a boundary takes the next but one. -/
theorem test_commit_target : (w.setEsc { w.esc with beat := 1000, cyc := 62400, len := 62500 }).commitTarget = 1002 := by decide +kernel

/-- 07_operators.md, example after R194: the slices of a COPY of 1 GiB. -/
def gib : Op := { seqn := 0, d := dsc 0x20 1 (wd 16 0 0 ++ wd 24 0 0), total := 262144 }
def movShare : Chip := Chip.activate w (rSTK_REG + 16 * 25) (25 * 2)
theorem test_slice_bound :
    movShare.sliceBound gib 31136 = 62472 ∧ movShare.sliceBound gib 31137 = 62536 ∧ movShare.sliceBound gib 13056 = 26312
    ∧ movShare.largestSlice gib 62498 18 0 = 31136 := by decide +kernel

/-- 07_operators.md, example after R212: AdamW at step 1. The element's update in FP32, and its loss in BF16. -/
def adamRec : List Byte :=
  [0x3A800000, 0x3F600000, 0x3F7C0000, 0x35800000, 0x3D800000, 0x3E800000, 0, 1].flatMap (bytesLE 4) ++ zeros 32
def adamC : OptC := optConst 0 fp32 adamRec
theorem test_adamw :
    let r := optElem adamC .one .zero .zero (fp32.dec 0x3F000000)
    (fp32.enc .rne false r.1).1 = 0x3F7FBC00 ∧ (fp32.enc .rne false r.2.1).1 = 0x3C800000 ∧ (fp32.enc .rne false r.2.2).1 = 0x39800000
    ∧ (bf16.enc .rne false r.1).1 = 0x3F80 := by decide +kernel

/-- 07_operators.md, example after R216: clamp(2 × IN_A + IN_B, 0, 6), at (1.5, 2), (1.5, 4) and (1, −3). -/
def clampC : List Machine.Num := [.ofInt 2, .zero, .ofInt 6]
def clampW : List Nat := [0x0001, 0x0091, 0x2015, 0x24A6, 0]
theorem test_complication :
    (bf16.enc .rne false (compElem clampC clampW 2 (.fin false 3 (-1)) (.ofInt 2)).1).1 = 0x40A0
    ∧ (bf16.enc .rne false (compElem clampC clampW 2 (.fin false 3 (-1)) (.ofInt 4)).1).1 = 0x40C0
    ∧ (bf16.enc .rne false (compElem clampC clampW 2 .one (.ofInt (-3))).1).1 = 0 := by decide +kernel

/-- 12_integrity.md, example after R366: a folio's zeroing costs 2,621,440 B. -/
theorem test_zeroing_cost : w.folioCost = 2621440 := by decide +kernel

/-- 16_observation.md, example after R470: a spill region of 1 GiB holds 33,554,432 entries. -/
theorem test_trace_capacity : (Chip.activate (Chip.activate w 0x1300000 0x200) 0x1300020 1024).trcCap = 33554432 := by decide +kernel

/-- The check value of CRC-32C, which R384 and R401 name by its standard: that of the digits 1 to 9. -/
theorem test_crc32c : crc32c [0x31, 0x32, 0x33, 0x34, 0x35, 0x36, 0x37, 0x38, 0x39] = 0xE3069283 := by decide +kernel

/-- A header flit written out byte by byte from the table of R291, and the same bytes read. -/
def rdHead : Msg :=
  { cls := 0, chan := 2, opcode := 0x01, dest := 0x080043, dport := 4, src := 0x040109, sport := 5, fwded := true, txn := 0x1234, ctx := 0x0123,
    gen := 0x41, addr := 0x2A05C40, bytes := 64 }
def rdBytes : List Byte :=
  [0x20, 0x01, 0x08, 0x00, 0x43, 0x04, 0x04, 0x01, 0x09, 0x25, 0x12, 0x34, 0x01, 0x23, 0x41, 0x00, 0x00, 0x00, 0x00, 0x00, 0x02, 0xA0, 0x5C, 0x40,
   0x00, 0x00, 0x40] ++ zeros 37
theorem test_header : flitBytes (headOf rdHead 2) = rdBytes ∧ msgOf (headOf rdHead 2) [] = rdHead := by decide +kernel

/-- 17_host_port_management.md, example after R478, and 10_fabric.md R290: bytes fill DATA flits from byte 0, the last with zeros. -/
theorem test_data_flits : (flitsOfBytes (List.replicate 65 7)).map flitBytes = [List.replicate 64 7, 7 :: zeros 63] := by decide +kernel

/-! ### One step of a small state -/

theorem test_step_takes_the_front : step ⟨w, [.jtagStop, .retainWake]⟩ = exec .jtagStop ⟨w, [.retainWake]⟩ := rfl

/-- R99: a NOP completes with OK and INFO 0, in the buffer of RNG. -/
theorem test_nop_completes :
    (match exec (.nop (dsc 0x00 1 [])) (on wr) with
     | .next t => (lookD t.chip.rng.bufs bufRng []).map (fun x => (x.status, x.info))
     | _ => []) = [(.ok, 0)] := by decide +kernel

/-- R98, R97: a doorbell moves the tail of an ACTIVE ring. -/
theorem test_doorbell_moves_tail :
    (match exec (.sqTailWrite 0 1 (.write 4) 6 none) (on wr) with | .next t => (t.chip.ring 1).tail | _ => 0) = 6 := by decide +kernel

/-- R447: verified fuses say which part this is. -/
theorem test_fuses_name_the_part :
    (match exec (.fuseLoad true) (on (fusingW 0)) with | .next t => t.chip.get 0x10 0 20 | _ => 0) = 786432 := by decide +kernel

/-- R439: a RST_CORE_N sets its cause bit and holds the core; the pool stays. -/
theorem test_core_reset :
    (match exec .rstCoreN (on w) with
     | .next t => (t.chip.bit 0x10008 3, t.chip.held.contains .seq, (t.chip.extent 7).st)
     | _ => (false, false, .free)) = (true, true, .live) := by decide +kernel

/-- Of the table's rows none gives bits, so no word spells a command. -/
theorem test_no_word_decodes : (List.range 65).all (fun n => (decodeTableWord n 0).isNone) = true := by decide

/-! ### Witnesses: a state and operands for the hypotheses of every statement, clause by clause -/

theorem witness_StoredBytesReadBack :
    (∃ (m : Mem) (a : Nat) (data : List Byte) (mask : List Bool), m.wf = true)
    ∧ (∃ (m : Mem) (a : Nat) (data : List Byte) (mask : List Bool), m.wf = true ∧ ∃ (i : Nat), i < data.length ∧ mask.getD i false = true)
    ∧ (∃ (m : Mem) (a : Nat) (data : List Byte) (mask : List Bool), m.wf = true ∧ ∃ (i : Nat), i < data.length ∧ mask.getD i false =
      false)
    ∧ (∃ (m : Mem) (a : Nat) (data : List Byte) (mask : List Bool), m.wf = true ∧ ∃ (x : Nat), x < a ∨ a + data.length ≤ x)
    ∧ (∃ (m : Mem) (a : Nat) (data : List Byte) (mask : List Bool), m.wf = true ∧ ∃ (x : Nat) (y : Nat), y ≠ x) :=
  ⟨⟨⟨[(5, 7)], [9]⟩, 5, [1], [true], by decide +kernel⟩,
   ⟨⟨[(5, 7)], [9]⟩, 5, [1], [true], by decide +kernel, 0, by decide +kernel⟩,
   ⟨⟨[(5, 7)], [9]⟩, 5, [1], [false], by decide +kernel, 0, by decide +kernel⟩,
   ⟨⟨[(5, 7)], [9]⟩, 5, [1], [true], by decide +kernel, 6, by decide +kernel⟩,
   ⟨⟨[(5, 7)], [9]⟩, 5, [1], [true], by decide +kernel, 5, 6, by decide +kernel⟩⟩

theorem witness_MemoryStaysCanonical :
    ∃ (s : State) (t : State), s.Safe ∧ step s = .next t :=
  ⟨⟨w, [.jtagStop]⟩, on (w.stopAll causeJtag), ⟨by decide +kernel, rfl⟩⟩

theorem witness_RegistersAreWrittenAndCleared :
    (∃ (s : State) (who : Who) (off : Nat) (val : Quad), (who = .pf0 ∨ who = .mgt) ∧ off % 4 = 0 ∧ isWideLow off = false ∧ isWideHigh off
      = false ∧ PlainWord s who off)
    ∧ (∃ (s : State) (who : Who) (off : Nat) (inc : Nat), readClears off = true ∧ off % 4 = 0 ∧ Reaches s who off ∧ s.chip.speaks who =
      true ∧ inc < 2 ^ 32)
    ∧ (∃ (s : State) (who : Who), Reaches s who 0x120D000)
    ∧ (∃ (s : State) (who : Who) (off : Nat) (width : Nat) (val : Quad), s.chip.speaks who = true ∧ ((width ≠ 4 ∧ width ≠ 8) ∨ off % width
      ≠ 0)) :=
  ⟨⟨on up, .mgt, 0x20, 5, ⟨by decide, by decide, by decide +kernel, by decide +kernel, by decide +kernel, by decide +kernel,
    by decide +kernel, fun _ => rfl, by decide, by decide, by decide⟩⟩,
   ⟨on (up.setWord 0x200060 3), .pf0, 0x200060, 2, by decide +kernel⟩,
   ⟨on up, .mgt, by decide +kernel⟩,
   ⟨on up, .mgt, 6, 4, 5, by decide +kernel⟩⟩

theorem witness_RegisterHalves :
    (∃ (s : State) (who : Who) (off : Nat), off % 4 = 0 ∧ s.chip.speaks who = true)
    ∧ (∃ (s : State) (who : Who) (off : Nat) (v : Word), off % 4 = 0 ∧ s.chip.speaks who = true ∧ s.chip.latchOf who = some (.high off v))
    ∧ (∃ (s : State) (who : Who) (off : Nat), off % 4 = 0 ∧ s.chip.speaks who = true ∧ s.chip.latchOf who = none)
    ∧ (∃ (s : State) (who : Who) (off : Nat) (v : Word), s.chip.speaks who = true)
    ∧ (∃ (s : State) (who : Who) (off : Nat) (lo : Word) (hi : Word), 4 ≤ off ∧ s.chip.latchOf who = some (.low (off - 4) lo) ∧ (who =
      .pf0 ∨ who = .mgt) ∧ PlainWord s who (off - 4) ∧ PlainWord s who off) :=
  ⟨⟨on up, .jtag, 0x110, by decide +kernel⟩,
   ⟨on { up with latch := [(.pf0, .high 0x114 7)] }, .pf0, 0x114, 7, by decide +kernel⟩,
   ⟨on up, .jtag, 0x114, by decide +kernel⟩,
   ⟨on up, .jtag, 0x110, 3, by decide +kernel⟩,
   ⟨on { up with latch := [(.pf0, .low 0x210 9)] }, .pf0, 0x214, 9, 1, ⟨by decide, by decide +kernel, by decide, ⟨by decide +kernel,
     by decide +kernel, by decide +kernel, fun _ => rfl, by decide, by decide, by decide⟩, by decide +kernel, by decide +kernel,
     by decide +kernel, fun _ => rfl, by decide, by decide, by decide⟩⟩⟩

theorem witness_CommitsTakeTicketsOrAreRefused :
    (∃ (s : State) (who : Who) (mask : Word), (who = .pf0 ∨ who = .mgt) ∧ Reaches s who 0x200 ∧ mask ≠ 0 ∧ mask.toNat < 2 ^ 11 ∧
      s.chip.esc.lock.unlockedFlag = false ∧ (∀ p ∈ s.chip.com.pend, Nat.land p.mask mask.toNat = 0) ∧ s.chip.tooLate s.chip.commitTarget
      = false)
    ∧ (∃ (s : State) (ticket : BitVec 4) (p : Pending), s.chip.stopped = false ∧ s.chip.com.pend.find? (fun q => q.ticket == ticket.toNat
      && !q.checked) = some p ∧ s.chip.checkAll p = none)
    ∧ (∃ (s : State) (who : Who) (mask : Word), (who = .pf0 ∨ who = .mgt) ∧ Reaches s who 0x200 ∧ (mask = 0 ∨ 2 ^ 11 ≤ mask.toNat ∨
      s.chip.esc.lock.unlockedFlag = true ∨ (s.chip.com.pend.any (fun p => Nat.land p.mask mask.toNat != 0)) = true ∨ (s.chip.tooLate
      s.chip.commitTarget) = true)) :=
  ⟨⟨on up, .pf0, 1, by decide +kernel⟩,
   ⟨on (up.setCom { up.com with ticket := 1, pend := [⟨1, 1, 5, false⟩] }), 1, ⟨1, 1, 5, false⟩, by decide +kernel⟩,
   ⟨on up, .mgt, 0, by decide +kernel⟩⟩

theorem witness_BeatNumberAdvances :
    ∃ (s : State) (watts : Nat), s.chip.rcu.refLost = false ∧ s.chip.rcu.asserted ≠ some .p ∧ s.chip.esc.beat.toNat + 1 < 2 ^ 64 ∧
      s.chip.elec.maxBeat.toNat + 1 < 2 ^ 64 :=
  ⟨on w, 20, by decide +kernel⟩

theorem witness_MarksMoveTheLockAndElectionsRun :
    (∃ (s : State), s.chip.esc.lock = .holdover ∧ 4 ≤ s.chip.esc.holdover ∧ s.chip.esc.markThisBeat = false)
    ∧ (∃ (s : State) (link : Nat) (f : BeatFlit) (late : Int), link < 24 ∧ s.chip.lnkState link = lsActive ∧ s.chip.held.contains (.lnk
      link) = false ∧ s.chip.beatValid f = true ∧ s.chip.esc.beat.toNat ≤ f.num.toNat)
    ∧ (∃ (s : State) (link : Nat) (f : ElectFlit), link < 24 ∧ s.chip.lnkState link = lsActive ∧ s.chip.held.contains (.lnk link) = false
      ∧ s.chip.elec.epoch.toNat < f.epoch.toNat)
    ∧ (∃ (s : State), s.chip.activeLinks ≠ [] ∧ s.chip.esc.isMaster = false ∧ 9 ≤ s.chip.elec.silent)
    ∧ (∃ (s : State), s.chip.elec.running = true ∧ s.chip.elec.claim.isSome = true ∧ s.chip.elec.claim = s.chip.ownClaim ∧ 4 ≤
      s.chip.elec.ownBeats) :=
  ⟨⟨on (w.setEsc { w.esc with lock := .holdover, holdover := 4 }), by decide +kernel⟩,
   ⟨on (w.setLnkState 2 lsActive), 2, ⟨0, 9, 1, 0, 8, 10, 0⟩, 0, by decide +kernel⟩,
   ⟨on (w.setLnkState 23 lsActive), 23, ⟨9, 1, 1, 0⟩, by decide +kernel⟩,
   ⟨on ((w.setLnkState 0 lsActive).setElec { w.elec with silent := 9 }), by decide +kernel⟩,
   ⟨on ({ w with act := [(0x100, ⟨0x1100, 0x1100, 0x1100⟩)] }.setElec { w.elec with running := true, claim := some (1, 1), ownBeats := 4
     }), by decide +kernel⟩⟩

theorem witness_ContextsChange :
    (∃ (s : State) (d : Desc), Serves s .ext ∧ csTarget d ≠ 0 ∧ (csEntry d).valid = true ∧ MaySetCtx s.chip d ∧ s.chip.unbinding (csEntry
      d).tenant = false ∧ d.zero 18 0 112 = true ∧ d.zero 48 0 128 = true ∧ entryReserved d = false ∧ s.chip.journalFull = false)
    ∧ (∃ (s : State) (d : Desc), Serves s .ext ∧ csTarget d ≠ 0 ∧ (s.chip.ctx (csTarget d)).valid = true ∧ ((s.chip.caller d).mgmt = true
      ∨ ((s.chip.caller d).admin = true ∧ (s.chip.ctx (csTarget d)).tenant = (s.chip.caller d).tenant)) ∧ d.zero 18 0 368 = true ∧
      s.chip.journalFull = false)
    ∧ (∃ (s : State) (x : CtxChange), Serves s .ext ∧ s.chip.ext.ctxChanges.find? (fun y => y.ctx == x.ctx) = some x ∧ NoJournal s.chip)
    ∧ (∃ (s : State) (d : Desc), Serves s .ext ∧ csTarget d = 0 ∧ s.chip.unbinding (csEntry d).tenant = false) :=
  ⟨⟨on w, dsc 0x10 0 [(128, 4), (256, 17), (320, 2)], by decide +kernel⟩,
   ⟨on w, dsc 0x11 1 [(128, 2)], by decide +kernel⟩,
   ⟨on (w.setExt { w.ext with ctxChanges := [⟨4, dsc 0x10 0 [(128, 4)], 0⟩] }), ⟨4, dsc 0x10 0 [(128, 4)], 0⟩, by decide +kernel⟩,
   ⟨on w, dsc 0x10 0 [(256, 1)], by decide +kernel⟩⟩

theorem witness_MapMakesLive :
    ∃ (s : State) (d : Desc), Serves s .ext ∧ MayMap s.chip d :=
  ⟨on w, dsc 0x12 1 [(149, 64), (176, 1), (192, 3), (224, 11), (242, 1), (277, 200), (368, 31)], by decide +kernel⟩

theorem witness_RevokeDrains :
    (∃ (s : State) (d : Desc), Serves s .ext ∧ (d.ctx = (s.chip.extent (rvHandle d)).ownerCtx ∨ (s.chip.caller d).mgmt = true ∨
      ((s.chip.caller d).admin = true ∧ (s.chip.caller d).tenant = (s.chip.extent (rvHandle d)).tenant)) ∧ d.zero 16 26 6 = true ∧ d.zero
      20 1 7 = true ∧ d.zero 21 0 344 = true ∧ rvGen d = (s.chip.extent (rvHandle d)).gen ∧ ((s.chip.extent (rvHandle d)).st = .live ∨
      (s.chip.extent (rvHandle d)).st = .held) ∧ s.chip.journalFull = false)
    ∧ (∃ (s : State) (h : Nat) (rv : Revoke), Serves s .ext ∧ look s.chip.ext.revokes h = some rv)
    ∧ (∃ (s : State) (h : Nat) (rv : Revoke), Serves s .ext ∧ look s.chip.ext.revokes h = some rv ∧ rv.point = true ∧ s.chip.inflight h =
      0 ∧ s.chip.ext.parity.contains h = false)
    ∧ (∃ (s : State) (h : Nat) (rv : Revoke), Serves s .ext ∧ look s.chip.ext.revokes h = some rv ∧ rv.bound = false ∧ s.chip.expired
      rv.beat 2 = true ∧ NoCoherence s.chip ∧ s.chip.int.writes = [] ∧ s.chip.eng.regions = [] ∧ s.chip.red.rereads = []) :=
  ⟨⟨on w, dsc 0x13 1 [(128, 7), (146, 4)], by decide +kernel⟩,
   ⟨on (w.setExt { w.ext with revokes := [(7, ⟨false, none, 0, 0, false, false⟩)] }), 7, ⟨false, none, 0, 0, false, false⟩,
     by decide +kernel⟩,
   ⟨on ((w.putExt 7 { ext7 with st := .draining }).setExt { (w.putExt 7 { ext7 with st := .draining }).ext with revokes := [(7, ⟨true,
     none, 0, 0, true, false⟩)] }), 7, ⟨true, none, 0, 0, true, false⟩, by decide +kernel⟩,
   ⟨on ((w.setEsc { w.esc with bounds := 9 }).setExt { w.ext with revokes := [(7, ⟨true, none, 0, 0, true, false⟩)] }), 7, ⟨true, none, 0,
     0, true, false⟩, by decide +kernel⟩⟩

theorem witness_ExtentsAreReleasedAndRebuilt :
    (∃ (s : State) (d : Desc), Serves s .ext ∧ (d.ctx = (s.chip.extent (rvHandle d)).ownerCtx ∨ ((s.chip.caller d).admin = true ∧
      (s.chip.caller d).tenant = (s.chip.extent (rvHandle d)).tenant)) ∧ d.zero 16 26 6 = true ∧ d.zero 20 0 352 = true ∧ rvGen d =
      (s.chip.extent (rvHandle d)).gen ∧ ((s.chip.extent (rvHandle d)).st = .live ∨ ((s.chip.extent (rvHandle d)).st = .held ∧
      s.chip.journalFull = false)))
    ∧ (∃ (s : State) (elb : Nat) (ctx : Nat) (pla : Nat) (h : Nat) (ce : CtxE) (e : Extent), Serves s .ext ∧ (s.chip.ctxTri ctx).vote.1 =
      some ce ∧ ce.valid = true ∧ s.chip.handleAt pla = some h ∧ (s.chip.extTri h).vote.1 = some e)
    ∧ (∃ (s : State) (h : Nat), Serves s .red ∧ s.chip.ext.rebuild.contains (0, h) = true ∧ s.chip.bit rRED_STATUS 1 = false ∧
      (s.chip.extTri h).a.val.st = .live)
    ∧ (∃ (s : State) (n : Nat), Serves s .red ∧ s.chip.ext.rebuild.contains (1, n) = true ∧ s.chip.bit rRED_STATUS 1 = false) :=
  ⟨⟨on (w.putExt 7 { ext7 with st := .held }), dsc 0x14 1 [(128, 7), (146, 4)], by decide +kernel⟩,
   ⟨on w, 28, 1, 16 * 2 ^ 21, 7, adm, ext7, by decide +kernel⟩,
   ⟨on { w with ext := { w.ext with dir := [(7, ⟨⟨ext7, 0⟩, ⟨ext7, 1⟩, ⟨{ ext7 with len := 9 }, 0⟩⟩)], rebuild := [(0, 7)] } }, 7,
     by decide +kernel⟩,
   ⟨on { w with ext := { w.ext with ctxs := [(2, ⟨⟨agt, 0⟩, ⟨agt, 1⟩, ⟨adm, 0⟩⟩)], rebuild := [(1, 2)] } }, 2, by decide +kernel⟩⟩

theorem witness_LentExtentsAreForwardedAndReclaimed :
    (∃ (s : State) (link : Nat) (h : Nat) (m : Msg), Sunk s.chip m ∧ s.chip.quiesced = false ∧ s.chip.usedHandles.filter (fun k =>
      (s.chip.extent k).lent && (s.chip.extent k).lender == m.src && (s.chip.extent k).backing * 2 ^ 21 == m.addr.toNat && ((s.chip.extent
      k).st == .live || (s.chip.extent k).st == .held)) = [h])
    ∧ (∃ (s : State) (node : NodeId) (h : Nat), Serves s .ext ∧ s.chip.hasRoute node = false ∧ s.chip.usedHandles.filter (fun k =>
      (s.chip.extent k).lent && (s.chip.extent k).lender == node) = [h] ∧ (s.chip.extent h).st = .live)
    ∧ (∃ (s : State) (link : Nat) (pla : Nat) (m : Msg) (x : ElbE), ServedHere s.chip m pla ∧ (s.chip.wake.check (elbLink link) (msgReq m
      pla m.bytes.toNat rRead false false)).2.1 = .granted x ∧ x.e.lent = true ∧ s.chip.lendFree.isSome = true)
    ∧ (∃ (s : State) (link : Nat) (m : Msg) (l : Lend), Sunk s.chip m ∧ s.chip.ext.lends.find? (fun l => l.txn == m.txn && l.lender ==
      m.src) = some l)
    ∧ (∃ (s : State) (link : Nat) (m : Msg), Sunk s.chip m ∧ (look s.chip.ext.lenders m.src.toNat).isSome = true) :=
  ⟨⟨on w, 3, 9, { req 0x0A (50 * 2 ^ 21) with src := 6 }, by decide +kernel⟩,
   ⟨on w, 6, 9, ⟨by decide +kernel, no_route (by decide +kernel) (by decide +kernel), by decide +kernel⟩⟩,
   ⟨on w, 3, 32 * 2 ^ 21, req 1 (32 * 2 ^ 21), grant (w.wake.check (elbLink 3) (msgReq (req 1 (32 * 2 ^ 21)) (32 * 2 ^ 21) 64 rRead false
     false)).2.1, by decide +kernel⟩,
   ⟨on (w.setExt { w.ext with lends := [⟨9, 6, 5, 8⟩], inflight := [(9, 1)] }), 3, { rsp 0x23 8 with src := 6 }, ⟨9, 6, 5, 8⟩,
     by decide +kernel⟩,
   ⟨on w, 3, { rsp 0x24 0 with src := 6 }, by decide +kernel⟩⟩

theorem witness_ReadsStartAndOwnRequestsEnd :
    (∃ (s : State) (link : Nat) (pla : Nat) (m : Msg) (x : ElbE), ServedHere s.chip m pla ∧ (s.chip.wake.check (elbLink link) (msgReq m
      pla m.bytes.toNat rRead false false)).2.1 = .granted x ∧ x.e.lent = false ∧ x.e.coh ≠ 1)
    ∧ (∃ (s : State) (fn : Nat) (off : Nat) (n : Nat) (tag : Nat) (pla : Nat) (ctx : Nat) (stream : Option Nat) (x : ElbE), s.chip.stopped
      = false ∧ s.chip.ideOk stream = true ∧ s.chip.coreHeld = false ∧ s.chip.quiesced = false ∧ s.chip.bar4At fn off n = some (pla, ctx)
      ∧ (s.chip.wake.check elbPci (bar4Req fn ctx pla n rRead false)).2.1 = .granted x ∧ x.e.lent = false ∧ x.e.coh ≠ 1)
    ∧ (∃ (s : State) (link : Nat) (fn : Nat) (tag : Nat) (m : Msg) (b : Quad), Sunk s.chip m ∧ 0xC000 ≤ m.txn.toNat ∧ m.status = 0 ∧ look
      s.chip.pci.lent m.txn.toNat = some (fn, tag, b))
    ∧ (∃ (s : State) (link : Nat) (m : Msg) (x : Mirror), Sunk s.chip m ∧ s.chip.held.contains .red = false ∧ 0x4000 ≤ m.txn.toNat ∧
      m.txn.toNat < 0x8000 ∧ m.status = 0 ∧ look s.chip.red.mirrors m.txn.toNat = some x ∧ NoCoherence s.chip)
    ∧ (∃ (s : State) (id : Nat) (fn : Nat) (tag : Nat) (b : Quad), Serves s .spine ∧ look s.chip.pci.lent id = some (fn, tag, b) ∧
      s.chip.expired b (s.chip.beatsFor (s.chip.get (rPCI_FN + 16 * fn) 0 16) 0) = true) :=
  ⟨⟨on w, 3, 16 * 2 ^ 21, req 1 (16 * 2 ^ 21), grant (w.wake.check (elbLink 3) (msgReq (req 1 (16 * 2 ^ 21)) (16 * 2 ^ 21) 64 rRead false
    false)).2.1, by decide +kernel⟩,
   ⟨on (w.setWord rPCI_FN 0x80000001), 0, 16 * 2 ^ 21, 64, 3, 16 * 2 ^ 21, 1, none, grant (w.wake.check elbPci (bar4Req 0 1 (16 * 2 ^ 21)
     64 rRead false)).2.1, by decide +kernel⟩,
   ⟨on (w.setPci { w.pci with lent := [(0xC000, 0, 5, 0)] }), 3, 0, 5, { rsp 0x20 0xC000 with len := 1, bytes := 64, data := zeros 64 },
     0, by decide +kernel⟩,
   ⟨on (w.setRed { w.red with mirrors := [(0x4001, ⟨0, 1, zeros 64, 0, 0, true, none⟩)] }), 3, rsp 0x21 0x4001, ⟨0, 1, zeros 64, 0, 0,
     true, none⟩, by decide +kernel⟩,
   ⟨on ((w.setPci { w.pci with lent := [(0xC000, 0, 5, 0)] }).setEsc { w.esc with bounds := 300 }), 0xC000, 0, 5, 0, by decide +kernel⟩⟩

theorem witness_WritesStart :
    (∃ (s : State) (link : Nat) (pla : Nat) (m : Msg) (x : ElbE), ServedHere s.chip m pla ∧ 0 < m.data.length ∧ (s.chip.wake.check
      (elbLink link) (msgReq m pla m.data.length rWrite true false)).2.1 = .granted x ∧ x.e.lent = false ∧ x.e.coh ≠ 1 ∧ (x.e.red = false
      ∨ partLines (x.target pla).ppa m.data.length (allOn m.data.length) = []))
    ∧ (∃ (s : State) (link : Nat) (pla : Nat) (m : Msg) (x : ElbE), ServedHere s.chip m pla ∧ 0 < m.data.length ∧ (s.chip.wake.check
      (elbLink link) (msgReq m pla m.data.length rWrite true false)).2.1 = .granted x ∧ x.e.lent = false ∧ x.e.coh ≠ 1 ∧ (x.e.red = false
      ∨ partLines (x.target pla).ppa m.data.length (msgBe m) = []))
    ∧ (∃ (s : State) (fn : Nat) (off : Nat) (pla : Nat) (ctx : Nat) (data : List Byte) (stream : Option Nat) (x : ElbE), s.chip.stopped =
      false ∧ s.chip.ideOk stream = true ∧ s.chip.coreHeld = false ∧ s.chip.quiesced = false ∧ 0 < data.length ∧ s.chip.bar4At fn off
      data.length = some (pla, ctx) ∧ ((s.chip.tlpIn data.length).wake.check elbPci (bar4Req fn ctx pla data.length rWrite true)).2.1 =
      .granted x ∧ x.e.lent = false ∧ x.e.coh ≠ 1 ∧ (x.e.red = false ∨ partLines (x.target pla).ppa data.length (allOn data.length) = [])) :=
  ⟨⟨on w, 3, 16 * 2 ^ 21, wreq 2 (16 * 2 ^ 21), grant (w.wake.check (elbLink 3) (msgReq (wreq 2 (16 * 2 ^ 21)) (16 * 2 ^ 21) 64 rWrite
    true false)).2.1, by decide +kernel⟩,
   ⟨on w, 3, 16 * 2 ^ 21, wreq 3 (16 * 2 ^ 21), grant (w.wake.check (elbLink 3) (msgReq (wreq 3 (16 * 2 ^ 21)) (16 * 2 ^ 21) 64 rWrite
     true false)).2.1, by decide +kernel⟩,
   ⟨on (w.setWord rPCI_FN 0x80000001), 0, 16 * 2 ^ 21 + 60, 16 * 2 ^ 21 + 60, 1, [1, 2, 3, 4, 5, 6, 7, 8], none, grant (((w.setWord
     rPCI_FN 0x80000001).tlpIn 8).wake.check elbPci (bar4Req 0 1 (16 * 2 ^ 21 + 60) 8 rWrite true)).2.1, by decide +kernel⟩⟩

theorem witness_LinesAndStripesComplete :
    (∃ (s : State) (id : Nat) (line : Nat) (lat : Nat) (passed : Nat) (link : Nat) (r : ReadOp) (m : Msg), Serves s .int ∧
      s.chip.stkServes (linePlace line).1 = true ∧ look s.chip.int.reads id = some r ∧ r.lines = [⟨line, .issued, lat, passed⟩] ∧
      (s.chip.wake.serveLine id line).isSome = true ∧ r.who = .fabric link m ∧ s.chip.keyUsable r.tgt.slot = true ∧ s.chip.clean line =
      true ∧ NoCoherence s.chip)
    ∧ (∃ (s : State) (id : Nat) (line : Nat) (lat : Nat) (passed : Nat) (link : Nat) (r : ReadOp) (m : Msg), Serves s .int ∧
      s.chip.mayAccess 29 = true ∧ s.chip.locked < 2048 ∧ s.chip.stripeHeld (stripeOf line) = false ∧ look s.chip.int.reads id = some r ∧
      r.lines = [⟨line, .failed, lat, passed⟩] ∧ r.who = .fabric link m ∧ s.chip.keyUsable r.tgt.slot = true ∧ r.tgt.pair = none ∧
      NoCoherence s.chip)
    ∧ (∃ (s : State) (id : Nat) (o : StripeOp), Serves s .int ∧ look s.chip.int.stripes id = some o ∧ o.locked = false ∧ (∀ e ∈
      s.chip.int.stripes, e.1 < id → e.2.stripe ≠ o.stripe) ∧ s.chip.locked < 2048 ∧ s.chip.stripeHeld o.stripe = false ∧ s.chip.portFill
      o.port + o.lines ≤ 256)
    ∧ (∃ (s : State) (id : Nat) (link : Nat) (o : StripeOp) (w : WriteOp) (m : Msg), Serves s .int ∧ look s.chip.int.stripes id = some o ∧
      o.locked = true ∧ s.chip.stripeCost o.stripe o.chgs ≤ s.chip.capLeft o.port ∧ s.chip.queuesTake o = true ∧ s.chip.groupServes
      o.stripe = true ∧ look s.chip.int.writes o.write = some w ∧ w.stripes = [id] ∧ w.mirrors = [] ∧ w.who = .fabric link m ∧
      s.chip.keyUsable w.tgt.slot = true ∧ s.chip.groupState (o.stripe % 2) < 3 ∧ (∀ x ∈ o.chgs, x.d < 8 ∧ x.data.length = 64) ∧
      NoCoherence s.chip) :=
  ⟨⟨on (rdw .issued), 4, 1000, 0, 0, 3, rdop .issued, req 1 (16 * 2 ^ 21), by decide +kernel⟩,
   ⟨on (rdw .failed), 4, 1000, 0, 0, 3, rdop .failed, req 1 (16 * 2 ^ 21), by decide +kernel⟩,
   ⟨on (wrw false), 6, stripe false, by decide +kernel⟩,
   ⟨on (wrw true), 6, 3, stripe true, wrop, wreq 2 (16 * 2 ^ 21), by decide +kernel⟩⟩

theorem witness_DoorbellsMoveIndexes_1 :
    (∃ (s : State) (fn : Nat) (r : Nat) (width : Nat) (val : Word) (stream : Option Nat), Serves s .rng ∧ BellTaken s.chip fn r width
      stream ∧ TailFits (s.chip.ring r) val)
    ∧ (∃ (s : State) (fn : Nat) (r : Nat) (width : Nat) (val : Word) (stream : Option Nat), Serves s .rng ∧ BellTaken s.chip fn r width
      stream ∧ (val - (s.chip.ring r).cqHead).toNat ≤ (s.chip.ring r).written)
    ∧ (∃ (s : State) (fn : Nat) (r : Nat) (q : Nat) (width : Nat) (val : Word) (stream : Option Nat), Serves s .rng ∧ BellTaken s.chip fn
      r width stream ∧ q < 64 ∧ (s.chip.fq q).ctrlCtx = (s.chip.ring r).ctx ∧ (val - (s.chip.fq q).head).toNat ≤ (s.chip.fq q).used -
      (s.chip.fq q).batch.length)
    ∧ (∃ (s : State) (fn : Nat) (r : Nat) (q : Nat) (width : Nat) (val : Word) (stream : Option Nat), Serves s .rng ∧ BellTaken s.chip fn
      r width stream ∧ q < 64 ∧ (s.chip.eq q).ctrlCtx = (s.chip.ring r).ctx ∧ (val - (s.chip.eq q).head).toNat ≤ (s.chip.eq q).used -
      (s.chip.eq q).batch.length)
    ∧ (∃ (s : State) (link : Nat) (r : Nat) (m : Msg), Sunk s.chip m ∧ s.chip.held.contains .rng = false ∧ s.chip.bit rRNG_CTL 0 = true ∧
      r < 4096 ∧ m.specAt 0 2 % 4096 = r ∧ m.specAt 2 2 % 4096 = 0 ∧ (s.chip.ring r).st ≠ .disabled ∧ (s.chip.ring r).unfit = false ∧
      (s.chip.ring r).loc = 1 ∧ m.specAt 4 2 = (s.chip.ring r).ctx ∧ m.src = (s.chip.ring r).hostNode ∧ TailFits (s.chip.ring r)
      (BitVec.ofNat 32 (m.specAt 8 4)))
    ∧ (∃ (s : State) (fn : Nat) (r : Nat) (off : Nat) (width : Nat) (val : Word) (stream : Option Nat), Serves s .rng ∧ BellTaken s.chip
      fn r width stream ∧ (8 ≤ off ∧ off < 0x100 ∨ 0x300 ≤ off)) :=
  ⟨⟨on wr, 0, 1, 4, 64, none, by decide +kernel⟩,
   ⟨on wr, 0, 1, 4, 2, none, by decide +kernel⟩,
   ⟨on wr, 0, 1, 2, 4, 3, none, by decide +kernel⟩,
   ⟨on wr, 0, 1, 3, 4, 3, none, by decide +kernel⟩,
   ⟨on wr, 3, 4, (((req 8 0).withSpec 0 2 4).withSpec 4 2 2).withSpec 8 4 64, by decide +kernel⟩,
   ⟨on wr, 0, 1, 0x10, 4, 3, none, by decide +kernel⟩⟩

theorem witness_DoorbellsMoveIndexes_2 :
    ∃ (s : State) (fn : Nat) (r : Nat) (off : Nat) (tag : Nat) (val : Word) (stream : Option Nat), s.chip.ideOk stream = true :=
  ⟨on wr, 0, 1, 0, 7, 0, none, by decide +kernel⟩

theorem witness_DescriptorsAreFetchedAndStarted :
    (∃ (s : State) (r : Nat) (n : Nat) (ix : Word) (slots : List Flit), Serves s .rng ∧ (s.chip.ring r).fetches = [(ix, n, none)] ∧
      slots.length = n ∧ (∀ e ∈ slots.zipIdx, s.chip.headerBad ⟨r, ix + BitVec.ofNat 32 e.2, e.1⟩ = none) ∧ (∀ f ∈ (s.chip.ring r).descs,
      f.st = .fetched ∨ f.st = .started) ∧ (s.chip.ring r).tail = (s.chip.ring r).fetchIx)
    ∧ (∃ (s : State) (r : Nat) (f : Fetched), Serves s .rng ∧ s.chip.quiesced = false ∧ s.chip.pickRing = some (r, f) ∧ (∀ p ∈ f.pre,
      p.stale = false ∧ p.st ≠ .waiting))
    ∧ (∃ (s : State) (r : Nat) (f : Fetched), Serves s .rng ∧ f ∈ (s.chip.ring r).descs ∧ f.st = .fetched ∧ f.beat.toNat + 2 ≤
      s.chip.esc.bounds.toNat)
    ∧ (∃ (s : State) (d : Desc), Serves s .rng) :=
  ⟨⟨on (wr.putRing 1 { ring1 with fetches := [(2, 2, none)] }), 1, 2, 2, [(dsc 0 1 []).raw, (dsc 0x20 1 []).raw], by decide +kernel⟩,
   ⟨on (wr.putRing 1 { ring1 with descs := [fet 0 0] }), 1, fet 0 0, by decide +kernel⟩,
   ⟨on ((wr.putRing 1 { ring1 with descs := [fet 0 0] }).setEsc { w.esc with bounds := 2 }), 1, fet 0 0, by decide +kernel⟩,
   ⟨on (wr.putRing 1 { ring1 with descs := [{ fet 0 0 with st := .started }], reserved := 1 }), dsc 0 1 [], by decide +kernel⟩⟩

theorem witness_RingsAndQueuesAreSet :
    (∃ (s : State) (d : Desc), Serves s .rng ∧ MaySetRing s.chip d)
    ∧ (∃ (s : State) (d : Desc), Serves s .rng ∧ (s.chip.ring (rgRing d)).st = .active ∨ (s.chip.ring (rgRing d)).st = .stopped ∧
      (s.chip.admins d (s.chip.ctxTenant (s.chip.ring (rgRing d)).ctx) = true ∨ (s.chip.ring (rgRing d)).ctx = d.ctx) ∧ rgRing d ≠ 0 ∧
      d.zero 16 12 4 = true ∧ d.zero 18 0 368 = true ∧ rgRing d ≠ d.ring)
    ∧ (∃ (s : State) (r : Nat), Serves s .rng ∧ (s.chip.ring r).st = .aborting ∧ (s.chip.ring r).descs = [])
    ∧ (∃ (s : State) (d : Desc), Serves s .rng ∧ MaySetQueue s.chip d ∧ d.bitsAt 16 1 1 = 1)
    ∧ (∃ (s : State) (d : Desc), Serves s .rng ∧ MaySetQueue s.chip d ∧ d.bitsAt 16 1 1 = 0) :=
  ⟨⟨on wr, dsc 1 1 [(128, 9), (152, 64), (160, 1), (176, 6), (184, 16), (200, 2 ^ 4), (264, 2 ^ 5), (384, 16), (400, 256)],
    by decide +kernel⟩,
   ⟨on ((wr.putRing 9 { ring1 with descs := [fet 0 0] })), dsc 2 1 [(128, 9)], by decide +kernel⟩,
   ⟨on (wr.putRing 9 { ring1 with st := .aborting, abort := some (dsc 2 1 [(128, 9)]) }), 9, by decide +kernel⟩,
   ⟨on wr, dsc 3 1 [(129, 1), (136, 63), (152, 16), (160, 1)], by decide +kernel⟩,
   ⟨on wr, dsc 3 1 [(136, 2), (152, 6), (160, 1)], by decide +kernel⟩⟩

theorem witness_RegistersSetRingZero :
    (∃ (s : State) (who : Who) (val : Word), Reaches s who rRNG_RING0_CFG ∧ bitOf val.toNat 0 = true ∧ (s.chip.ring 0).st = .disabled)
    ∧ (∃ (s : State) (who : Who) (val : Word), Reaches s who rRNG_RING0_CFG ∧ bitOf val.toNat 0 = false ∧ (s.chip.ring 0).st = .active)
    ∧ (∃ (s : State) (who : Who) (val : Word), Reaches s who rRNG_FQ0_CFG ∧ bitOf val.toNat 0 = true ∧ (s.chip.fq 0).enabled = false)
    ∧ (∃ (s : State) (who : Who) (val : Word), Reaches s who rRNG_FQ0_CFG ∧ bitOf val.toNat 0 = false ∧ (s.chip.fq 0).enabled = true)
    ∧ (∃ (s : State) (who : Who) (val : Word), Reaches s who rRNG_EQ0_CFG ∧ bitOf val.toNat 0 = true ∧ (s.chip.eq 0).enabled = false)
    ∧ (∃ (s : State) (who : Who) (val : Word), Reaches s who rRNG_EQ0_CFG ∧ bitOf val.toNat 0 = false ∧ (s.chip.eq 0).enabled = true) :=
  ⟨⟨on wr, .pf0, 0x101, by decide +kernel⟩,
   ⟨on (wr.putRing 0 { ring1 with ctx := 0 }), .mgt, 0x100, by decide +kernel⟩,
   ⟨on wr, .pf0, 1, by decide +kernel⟩,
   ⟨on (wr.putFq 0 { enabled := true }), .pf0, 0, by decide +kernel⟩,
   ⟨on wr, .pf0, 1, by decide +kernel⟩,
   ⟨on (wr.putEq 0 { enabled := true }), .pf0, 0, by decide +kernel⟩⟩

theorem witness_CompletionsAreCollected :
    (∃ (s : State) (b : Nat) (k : Cpl) (rest : List Cpl), Serves s .rng ∧ ((upTo 54).map (fun i => (s.chip.rng.turn + i) % 54)).find? (fun
      x => s.chip.posted x != 0) = some b ∧ lookD s.chip.rng.bufs b [] = k :: rest ∧ b ≠ bufKve ∧ b ≠ bufRng ∧ (s.chip.ring
      k.ring).batch.length + 1 < (s.chip.ring k.ring).coalMax ∧ (s.chip.ring k.ring).coalWait ≠ 0)
    ∧ (∃ (s : State) (r : Nat), Serves s .rng ∧ r < 4096 ∧ (s.chip.ring r).batch ≠ [] ∧ (s.chip.ring r).unfit = false ∧ s.chip.portShut
      (s.chip.ring r).loc = false ∧ (s.chip.ring r).keep = none ∧ (s.chip.ring r).batchCyc + (s.chip.ring r).coalWait ≤ s.chip.esc.now) :=
  ⟨⟨on (wr.setRng { wr.rng with bufs := [(31, [cpl])] }), 31, cpl, [], by decide +kernel⟩,
   ⟨on ((wr.putRing 1 { ring1 with batch := [cpl], reserved := 1 }).setEsc { w.esc with now := 10 }), 1, by decide +kernel⟩⟩

theorem witness_DomainsAreSet :
    (∃ (s : State) (d : Desc), Serves s .xlt ∧ s.chip.xlt.inval = none ∧ s.chip.bit rXLT_CTL 0 = true ∧ (s.chip.ctxTenant (tsCtx d)).any
      s.chip.unbinding = false ∧ s.chip.admins d (s.chip.ctxTenant (tsCtx d)) = true ∧ ((look s.chip.xlt.domains (tsDomain d)).isSome =
      true → s.chip.admins d (s.chip.domTenant (tsDomain d)) = true) ∧ (s.chip.ctx (tsCtx d)).valid = true ∧ tsRsvd d = false ∧ d.bitsAt
      17 1 2 = 0 ∧ tsTarget d = 0 ∧ tsDomain d ≠ 0 ∧ tsRoot d % 4096 = 0)
    ∧ (∃ (s : State) (d : Desc), Serves s .xlt ∧ s.chip.xlt.inval = none ∧ s.chip.bit rXLT_CTL 0 = true ∧ (look s.chip.xlt.domains
      (tsDomain d)).isSome = true ∧ (s.chip.domTenant (tsDomain d)).any s.chip.unbinding = false ∧ s.chip.admins d (s.chip.domTenant
      (tsDomain d)) = true ∧ tsRsvd d = false ∧ d.bitsAt 17 0 3 = 0 ∧ tsCtx d = 0 ∧ tsTarget d = 0 ∧ tsRoot d = 0 ∧ tsDomain d ≠ 0)
    ∧ (∃ (s : State) (d : Desc), Serves s .xlt ∧ s.chip.xlt.inval = none ∧ s.chip.bit rXLT_CTL 0 = true ∧ (s.chip.ctxTenant (tsTarget
      d)).any s.chip.unbinding = false ∧ s.chip.admins d (s.chip.ctxTenant (tsTarget d)) = true ∧ (s.chip.ctx (tsTarget d)).valid = true ∧
      tsRsvd d = false ∧ d.bitsAt 17 0 1 = 0 ∧ tsCtx d = 0 ∧ tsRoot d = 0 ∧ (tsDomain d ≠ 0 → s.chip.domTenant (tsDomain d) = some
      (s.chip.ctx (tsTarget d)).tenant) ∧ (tsTarget d = 0 → d.bitsAt 17 1 1 = 1)) :=
  ⟨⟨on w, dsc 0x18 1 [(144, 5), (160, 1), (192, 4096 * 9), (136, 1)], by decide +kernel⟩,
   ⟨on dom, dsc 0x18 1 [(128, 1), (144, 5)], by decide +kernel⟩,
   ⟨on dom, dsc 0x18 1 [(128, 2), (144, 5), (176, 1), (137, 1)], by decide +kernel⟩⟩

theorem witness_InvalidationsReachTheTlb :
    (∃ (s : State) (d : Desc), Serves s .xlt ∧ s.chip.xlt.inval = none ∧ s.chip.bit rXLT_CTL 0 = true ∧ (s.chip.admins d (s.chip.domTenant
      (d.bitsAt 16 0 12)) = true ∨ (s.chip.mapOf d.ctx).domain = d.bitsAt 16 0 12) ∧ (look s.chip.xlt.domains (d.bitsAt 16 0 12)).isSome =
      true ∧ d.bitsAt 16 0 12 ≠ 0 ∧ d.zero 16 12 4 = true ∧ d.zero 18 2 6 = true ∧ d.zero 19 0 8 = true ∧ d.zero 24 57 7 = true ∧ d.zero
      32 0 256 = true ∧ ((d.bitsAt 18 0 2 = 0 ∧ d.bitsAt 24 0 57 % 4096 = 0 ∧ d.field 20 4 ≠ 0) ∨ d.bitsAt 18 0 2 = 1))
    ∧ (∃ (s : State) (d : Desc) (n : Nat), Serves s .xlt ∧ s.chip.xlt.inval = some (d, n) ∧ s.chip.staleHeld = false ∧ s.chip.xlt.queue =
      [])
    ∧ (∃ (s : State) (dn : Nat) (va : Nat) (w : Walk) (e : TlbE), Serves s .xlt ∧ s.chip.xlt.walks.find? (fun w => w.domain == dn && w.va
      / 2 ^ 18 == va / 2 ^ 18) = some w ∧ (s.chip.wake.walkMirror dn w.va).2 = .mapped e) :=
  ⟨⟨on (dom.tlbFill tlbe), dsc 0x19 1 [(128, 5), (160, 1)], by decide +kernel⟩,
   ⟨on (w.setXlt { w.xlt with inval := some (dsc 0x19 1 [], 3) }), dsc 0x19 1 [], 3, by decide +kernel⟩,
   ⟨on walking, 5, 0, ⟨5, 0⟩, tlbe, by decide +kernel⟩⟩

theorem witness_OperatorsAreHeldOrRefused :
    (∃ (s : State) (d : Desc) (n : Nat) (modes : List Nat), Serves s .seq ∧ OpPasses s.chip.wake d n [] [] modes ∧ ∃ p, p ∈ [(0x20,
      Instr.copy d), (0x21, .fill d), (0x22, .scrub d), (0x23, .convert d), (0x24, .fold d), (0x2C, .seal d), (0x2D, .check d), (0x2F,
      .watch d)] ∧ d.opcode = p.1)
    ∧ (∃ (s : State) (d : Desc) (n : Nat) (rcd : List Byte) (modes : List Nat), Serves s .seq ∧ d.opcode = 0x2E ∧ OpPasses s.chip.wake d n
      rcd [] modes)
    ∧ (∃ (s : State) (d : Desc) (n : Nat) (peers : List Peer) (modes : List Nat), Serves s .seq ∧ OpPasses s.chip.wake d n [] peers modes
      ∧ ∃ p, p ∈ [(0x28, Instr.broadcast d), (0x29, .gather d), (0x2A, .scatter d)] ∧ d.opcode = p.1)
    ∧ (∃ (s : State) (d : Desc) (n : Nat) (rcd : List Byte) (modes : List Nat), Serves s .seq ∧ d.opcode = 0x2B ∧ optFuse d = false ∧
      OpPasses s.chip.wake d n rcd [] modes)
    ∧ (∃ (s : State) (d : Desc) (n : Nat), Serves s .seq ∧ s.chip.pickSeq = some n ∧ (s.chip.bit rSEQ_CTL 0 = false ∨ (s.chip.planOf d
      1).rsvd = true)) :=
  ⟨⟨on w, dsc 0x20 1 (wd 16 0 0 ++ wd 24 1 0 ++ [(256, 64)]), 0, [0, 0], by decide +kernel, by decide +kernel, (0x20, Instr.copy (dsc 0x20
    1 (wd 16 0 0 ++ wd 24 1 0 ++ [(256, 64)]))), by decide +kernel, by decide +kernel⟩,
   ⟨on (cached w 128 (zeros 32 ++ [64])), dsc 0x2E 1 (wd 16 0 1 ++ wd 32 3 1 ++ wd 40 2 0 ++ [(384, 1)]), 0, zeros 32 ++ [64] ++ zeros 31,
     [0, 0], by decide +kernel⟩,
   ⟨on w, dsc 0x28 1 (wd 16 0 0 ++ [(192, 1), (448, 1)] ++ wd 48 4 0), 0, [⟨0, 0, 0, 0, none, 0, 0⟩], [0], by decide +kernel,
     by decide +kernel, (0x28, Instr.broadcast (dsc 0x28 1 (wd 16 0 0 ++ [(192, 1), (448, 1)] ++ wd 48 4 0))), by decide +kernel,
     by decide +kernel⟩,
   ⟨on (cached w 1024 (zeros 28 ++ [1])), optD 0 0, 0, zeros 28 ++ [1] ++ zeros 35, [0, 0, 0, 0], by decide +kernel⟩,
   ⟨on w, dsc 0x22 1 [], 0, by decide +kernel⟩⟩

theorem witness_RegionsArm :
    (∃ (s : State) (d : Desc) (n : Nat) (peers : List Peer) (modes : List Nat), Serves s .seq ∧ OpPasses s.chip.wake d n [] peers modes ∧
      MayArm (s.chip.wake.opStep5 d).1 ((s.chip.wake.opStep5 d).1.fwRegion d none) ∧ ∃ p, p ∈ [(0x26, Instr.reduceScatter d), (0x27,
      .allReduce d)] ∧ d.opcode = p.1)
    ∧ (∃ (s : State) (d : Desc) (n : Nat) (rcd : List Byte) (modes : List Nat), Serves s .seq ∧ d.opcode = 0x2B ∧ optFuse d = true ∧
      OpPasses s.chip.wake d n rcd [] modes ∧ MayArm (s.chip.wake.opStep5 d).1 ((s.chip.wake.opStep5 d).1.optRegion d none))
    ∧ (∃ (s : State) (d : Desc), Serves s .fld ∧ s.chip.bit rFLD_CTL 0 = true ∧ fwBad d (s.chip.fwRegion d none) = false ∧ d.zero 48 0 128
      = true ∧ accPairs (s.chip.fwRegion d none).acc (s.chip.fwRegion d none).inFmt (s.chip.fwRegion d none).red = true ∧
      (s.chip.wake.wouldAdmit elbSeq (s.chip.fwRegion d none).targetReq).2.1 = none ∧ ((s.chip.wake.wouldAdmit elbSeq (s.chip.fwRegion d
      none).targetReq).1.wouldAdmit elbSeq (s.chip.fwRegion d none).listReq).2.1 = none ∧ RoomToArm s.chip (s.chip.fwRegion d none))
    ∧ (∃ (s : State) (n : Nat) (k : Nat) (r : Region) (st : Status) (x : Option ElbE) (b : List Byte), Serves s .fld ∧ s.chip.region n =
      some r ∧ r.st = .arming ∧ (s.chip.wake.armAdmit n r).2 = true ∧ (s.chip.wake.poolRead elbSeq 26 r.listReq).2 = .got st k x b ∧
      st.good = true ∧ (∀ i, i < r.contributors → ofBytesLE (slice b (4 * i) 4) < 2 ^ 24) ∧ s.chip.card = false ∧ ((s.chip.wake.poolRead
      elbSeq 26 r.listReq).1.wouldAdmit elbSeq r.targetReq).2.1 = none) :=
  ⟨⟨on w, rsD 0x26, 0, [⟨0, 0, 0, 0, none, 0, 0⟩], [0], by decide +kernel, by decide +kernel, by decide +kernel, (0x26,
    Instr.reduceScatter (rsD 0x26)), by decide +kernel, by decide +kernel⟩,
   ⟨on (cached w 1024 (zeros 28 ++ [1])), optD 0 1, 0, zeros 28 ++ [1] ++ zeros 35, [0, 0, 0], by decide +kernel⟩,
   ⟨on w, fwD, by decide +kernel⟩,
   ⟨on ((w.setEng { w.eng with regions := [(2, w.fwRegion fwD none)], arming := [2] }).setEsc { w.esc with cyc := 2 }), 2, 0, w.fwRegion
     fwD none, .ok, some (grantOf w (w.fwRegion fwD none).listReq), zeros 4, by decide +kernel⟩⟩

theorem witness_OperatorsAdvance :
    (∃ (s : State) (n : Nat) (o : Op), Serves s .seq ∧ s.chip.quiesced = false ∧ look s.chip.eng.ops n = some o ∧ o.seqn < 16 ∧ o.ended =
      false ∧ o.aborted = false ∧ o.next < o.total ∧ o.next ≤ o.issue ∧ o.busy = 0 ∧ 2 ≤ s.chip.esc.cyc ∧ o.wait.toNat ≤
      s.chip.esc.bounds.toNat ∧ (s.chip.largestSlice o (s.chip.esc.len - s.chip.esc.cyc) 25 0 ≠ 0 ∨ o.wait ≠ 0))
    ∧ (∃ (s : State) (n : Nat) (o : Op), Serves s .seq ∧ look s.chip.eng.ops n = some o ∧ o.seqn < 16 ∧ o.d.opcode ≠ 0x2F ∧ s.chip.opIdle
      o = true)
    ∧ (∃ (s : State) (n : Nat) (k : Nat) (t : Nat) (o : Op) (p : Peer) (x : MovTxn), Serves s .mov ∧ look s.chip.eng.ops n = some o ∧
      o.peers[k]? = some p ∧ p.failed = none ∧ s.chip.eng.txns.filter (fun t => t.2.peer == some k && (match (s.chip.unit t.2.unit).run
      with | some y => y.cmd.op == n | none => false)) = [(t, x)] ∧ s.chip.expired x.beat (s.chip.beatsFor o.d.ctx 0) = true) :=
  ⟨⟨on ((ops (op0 scD)).setEsc { w.esc with cyc := 2 }), 3, op0 scD, by decide +kernel⟩,
   ⟨on (ops { op0 scD with next := 4, issue := 4 }), 3, { op0 scD with next := 4, issue := 4 }, by decide +kernel⟩,
   ⟨on (((inUnit { op0 (rsD 0x28) with peers := [⟨5, 2, 4, 0, none, 0, 0⟩] } 32 (unitOf [] (some (runs .acks)))).setEsc { w.esc with
     bounds := 300 }).setEng { (inUnit { op0 (rsD 0x28) with peers := [⟨5, 2, 4, 0, none, 0, 0⟩] } 32 (unitOf [] (some (runs .acks)))).eng
     with txns := [(0x8000, ⟨32, some 0, 0, false, 0⟩)] }), 3, 0, 0x8000, { op0 (rsD 0x28) with peers := [⟨5, 2, 4, 0, none, 0, 0⟩] }, ⟨5,
     2, 4, 0, none, 0, 0⟩, ⟨32, some 0, 0, false, 0⟩, by decide +kernel⟩⟩

theorem witness_TilesMove :
    (∃ (s : State) (u : Nat) (w : Nat) (at' : Nat) (cmd : TileCmd) (rest : List TileCmd) (o : Op), Serves s .mov ∧ s.chip.bit rMOV_CTL 0 =
      true ∧ 32 ≤ u ∧ u < 64 ∧ (s.chip.unit u).queue = cmd :: rest ∧ (s.chip.unit u).run = none ∧ look s.chip.eng.ops cmd.op = some o ∧
      opPeers o = false ∧ (opMove o cmd.tile).src = .host w at' ∧ 0 < (opMove o cmd.tile).len)
    ∧ (∃ (s : State) (u : Nat) (cmd : TileCmd) (rest : List TileCmd) (o : Op), Serves s .fld ∧ u < 32 ∧ (s.chip.unit u).queue = cmd ::
      rest ∧ (s.chip.unit u).run = none ∧ look s.chip.eng.ops cmd.op = some o ∧ o.seqn ≠ 16 ∧ (((s.chip.wake.epoch (288 + u)).count (144 +
      (o.d.opcode - 0x20)) 1).fldTile u cmd o).2 ≠ .wait)
    ∧ (∃ (s : State) (u : Nat) (w : Nat) (at' : Nat) (k : Nat) (addr : Nat) (x : Run) (o : Op) (held : List Held), Serves s .mov ∧ 32 ≤ u
      ∧ u < 64 ∧ (s.chip.unit u).run = some x ∧ x.st = .ready ∧ look s.chip.eng.ops x.cmd.op = some o ∧ opPeers o = false ∧ (opMove o
      x.cmd.tile).src = .host w at' ∧ x.pos < (opMove o x.cmd.tile).len ∧ (s.chip.ring o.d.ring).loc = 0 ∧ (s.chip.unit u).next = none ∧
      HostOpen s.chip ∧ (s.chip.wake.hostAt o w (at' + x.pos) ((opMove o x.cmd.tile).len - x.pos) false).2 = .ok addr k held)
    ∧ (∃ (s : State) (u : Nat) (w : Nat) (at' : Nat) (x : Run) (o : Op) (data : List Byte), Serves s .mov ∧ 32 ≤ u ∧ u < 64 ∧ (s.chip.unit
      u).run = some x ∧ x.st = .read ∧ s.chip.unitBusy u = false ∧ look s.chip.eng.ops x.cmd.op = some o ∧ opPeers o = false ∧ (opMove o
      x.cmd.tile).src = .host w at' ∧ x.pos + x.len < (opMove o x.cmd.tile).len) :=
  ⟨⟨on (inUnit (op0 cpD) 33 (unitOf [⟨3, 0, []⟩] none)), 33, 16, 0, ⟨3, 0, []⟩, [], op0 cpD, by decide +kernel⟩,
   ⟨on (inUnit (op0 (dsc 0x23 1 (wd 16 9999 1 ++ wd 24 2 1 ++ [(256, 64)]))) 4 (unitOf [⟨3, 0, []⟩] none)), 4, ⟨3, 0, []⟩, [], op0 (dsc
     0x23 1 (wd 16 9999 1 ++ wd 24 2 1 ++ [(256, 64)])), by decide +kernel⟩,
   ⟨on ((inUnit (op0 cpD) 33 (unitOf [] (some (runs .ready)))).setMap 1 ⟨0, true, true⟩), 33, 16, 0, 4096, 0x10000, runs .ready, op0 cpD,
     [], by decide +kernel⟩,
   ⟨on (inUnit (op0 cpD) 33 (unitOf [] (some { runs .read with len := 64 }))), 33, 16, 0, { runs .read with len := 64 }, op0 cpD, zeros
     64, by decide +kernel⟩⟩

theorem witness_ContributionsCountOnce :
    (∃ (s : State) (link : Nat) (pla : Nat) (m : Msg) (x : ElbE), ServedHere s.chip m pla ∧ m.opcode = 0x10 ∧ s.chip.bit rFLD_CTL 0 = true
      ∧ (s.chip.wake.check (elbLink link) (msgReq m (pla / 4096 * 4096) 4096 rFold false false)).2.1 = .granted x ∧ ∃ slot, ∃ tile,
      s.chip.foldCase m pla = .accept slot tile)
    ∧ (∃ (s : State) (link : Nat) (pla : Nat) (m : Msg) (x : ElbE), ServedHere s.chip m pla ∧ m.opcode = 0x10 ∧ s.chip.bit rFLD_CTL 0 =
      true ∧ (s.chip.wake.check (elbLink link) (msgReq m (pla / 4096 * 4096) 4096 rFold false false)).2.1 = .granted x ∧ ∃ slot, ∃ r,
      s.chip.foldCase m pla = .duplicate slot ∧ s.chip.region slot = some r)
    ∧ (∃ (s : State) (link : Nat) (pla : Nat) (m : Msg) (x : ElbE), ServedHere s.chip m pla ∧ m.opcode = 0x10 ∧ s.chip.bit rFLD_CTL 0 =
      true ∧ (s.chip.wake.check (elbLink link) (msgReq m (pla / 4096 * 4096) 4096 rFold false false)).2.1 = .granted x ∧ s.chip.foldCase m
      pla = .late)
    ∧ (∃ (s : State) (link : Nat) (pla : Nat) (m : Msg) (x : ElbE), ServedHere s.chip m pla ∧ m.opcode = 0x10 ∧ s.chip.bit rFLD_CTL 0 =
      true ∧ (s.chip.wake.check (elbLink link) (msgReq m (pla / 4096 * 4096) 4096 rFold false false)).2.1 = .granted x ∧ s.chip.foldCase m
      pla = .notArmed) :=
  ⟨⟨on (withReg armed), 3, P7, fold5, grant (w.wake.check (elbLink 3) (msgReq fold5 P7 4096 rFold false false)).2.1, by decide +kernel,
    by decide +kernel, by decide +kernel, by decide +kernel, 2, 0, by decide +kernel⟩,
   ⟨on (withReg (armedW { got := [(0, [0])] })), 3, P7, fold5, grant (w.wake.check (elbLink 3) (msgReq fold5 P7 4096 rFold false
     false)).2.1, by decide +kernel, by decide +kernel, by decide +kernel, by decide +kernel, 2, armedW { got := [(0, [0])] },
     by decide +kernel⟩,
   ⟨on (withReg { armed with st := .closed }), 3, P7, fold5, grant (w.wake.check (elbLink 3) (msgReq fold5 P7 4096 rFold false
     false)).2.1, by decide +kernel⟩,
   ⟨on w, 3, P7, fold5, grant (w.wake.check (elbLink 3) (msgReq fold5 P7 4096 rFold false false)).2.1, by decide +kernel⟩⟩

theorem witness_RegionsFinish :
    (∃ (s : State) (slot : Nat) (tile : Nat) (k : Nat) (r : Region) (st : Status) (x : Option ElbE) (b : List Byte), Serves s .fld ∧
      s.chip.region slot = some r ∧ r.st = .armed ∧ r.isOpt = false ∧ (lookD r.work tile {}).init = 1 ∧ (s.chip.wake.readTiles elbSeq 26
      (unitReq r.d.ctx (r.pla + tile * 4096) 4096 (some r.gen) (rRead + rOperate) false)).2 = .got st k x b ∧ k = 0 ∧ st ≠ .busyRetry)
    ∧ (∃ (s : State) (slot : Nat) (tile : Nat) (r : Region), Serves s .fld ∧ s.chip.region slot = some r ∧ r.st = .armed ∧ r.isOpt = false
      ∧ r.op = none ∧ r.due (lookD r.work tile {}) = true ∧ (r.reads = true → (lookD r.work tile {}).init = 2) ∧ (s.chip.extent
      r.handle).coh ≠ 1 ∧ (s.chip.extent r.handle).tchk = 0 ∧ (s.chip.wake.fldOut ((slot + tile) % 32) r.d r.outFmt (r.pla + tile * 4096)
      (encFrom r.outFmt r.round r.sat r.seed (tile * fmtE r.outFmt) (r.values (lookD r.work tile {})))).2 ≠ 2)
    ∧ (∃ (s : State) (slot : Nat) (r : Region), Serves s .fld ∧ s.chip.region slot = some r ∧ r.st = .armed ∧ r.op = none ∧ (∀ i, i <
      r.tiles → r.finished (lookD r.work i {}) = true) ∧ (∀ id ∈ r.mirrors, look s.chip.red.mirrors id = none))
    ∧ (∃ (s : State) (slot : Nat) (r : Region), Serves s .fld ∧ s.chip.region slot = some r ∧ r.st = .armed ∧ r.op = none ∧ r.late = false
      ∧ r.part' = false ∧ s.chip.expired r.beat r.limit = true) :=
  ⟨⟨on answered9, 2, 0, 0, armed9, .dataLost, some (grantOf w (unitReq 1 P9 4096 (some 4) (rRead + rOperate) false)), [],
    by decide +kernel⟩,
   ⟨on (withReg (armedW { got := [(0, [0])] })), 2, 0, armedW { got := [(0, [0])] }, by decide +kernel⟩,
   ⟨on (withReg (armedW { written := true })), 2, armedW { written := true }, by decide +kernel⟩,
   ⟨on ((withReg armed).setEsc { w.esc with bounds := 300 }), 2, armed, by decide +kernel⟩⟩

theorem witness_QuiresAreMadeAndDropped_1 :
    (∃ (s : State) (d : Desc) (n : Nat), Serves s .kve ∧ KvReady s.chip d ∧ d.opcode = 0x32 ∧ ((s.chip.wake.kvAlone d).fork d (kvCaller
      s.chip d)).1.err = none ∧ ((s.chip.wake.kvAlone d).fork d (kvCaller s.chip d)).2 = .inr n ∧ kvMode d = 0)
    ∧ (∃ (s : State) (d : Desc) (n : Nat), Serves s .kve ∧ KvReady s.chip d ∧ d.opcode = 0x32 ∧ ((s.chip.wake.kvAlone d).fork d (kvCaller
      s.chip d)).1.err = none ∧ ((s.chip.wake.kvAlone d).fork d (kvCaller s.chip d)).2 = .inr n ∧ kvMode d = 1) :=
  ⟨⟨on kvw, dsc 0x32 1 [(160, 5), (180, 3)], 0, by decide +kernel⟩,
   ⟨on (withQuire 6 (qu 0 0) kvw), dsc 0x32 1 [(128, 1), (160, 5), (180, 4), (192, 6), (212, 3)], 0, by decide +kernel⟩⟩

theorem witness_QuiresAreMadeAndDropped_2 :
    (∃ (s : State) (d : Desc) (n : Nat), Serves s .kve ∧ KvReady s.chip d ∧ d.opcode = 0x32 ∧ ((s.chip.wake.kvAlone d).fork d (kvCaller
      s.chip d)).1.err = none ∧ ((s.chip.wake.kvAlone d).fork d (kvCaller s.chip d)).2 = .inr n ∧ kvMode d = 2)
    ∧ (∃ (s : State) (d : Desc) (n : Nat), Serves s .kve ∧ KvReady s.chip d ∧ d.opcode = 0x32 ∧ ((s.chip.wake.kvAlone d).fork d (kvCaller
      s.chip d)).1.err = none ∧ ((s.chip.wake.kvAlone d).fork d (kvCaller s.chip d)).2 = .inr n ∧ kvMode d = 3) :=
  ⟨⟨on (withPfx 77 6 (withQuire 6 (qu 0 0) kvw)), dsc 0x32 1 [(128, 2), (160, 5), (180, 4), (256, 77)], 0, by decide +kernel⟩,
   ⟨on (withQuire 6 (qu 0 0) kvw), dsc 0x32 1 [(128, 3), (160, 5), (180, 4), (192, 6), (212, 3), (256, 77)], 0, by decide +kernel⟩⟩

theorem witness_QuiresAreMadeAndDropped_3 :
    (∃ (s : State) (d : Desc) (n : Nat), Serves s .kve ∧ KvReady s.chip d ∧ d.opcode = 0x33 ∧ ((s.chip.wake.kvAlone d).dropOrPin d
      (kvCaller s.chip d)).1.err = none ∧ ((s.chip.wake.kvAlone d).dropOrPin d (kvCaller s.chip d)).2 = .inr n ∧ kvByKey d = false)
    ∧ (∃ (s : State) (d : Desc) (n : Nat), Serves s .kve ∧ KvReady s.chip d ∧ d.opcode = 0x33 ∧ ((s.chip.wake.kvAlone d).dropOrPin d
      (kvCaller s.chip d)).1.err = none ∧ ((s.chip.wake.kvAlone d).dropOrPin d (kvCaller s.chip d)).2 = .inr n ∧ kvByKey d = true) :=
  ⟨⟨on (withQuire 6 (qu 0 0) kvw), dsc 0x33 1 [(160, 6), (180, 3)], 0, by decide +kernel⟩,
   ⟨on (withPfx 77 6 (withQuire 6 (qu 0 0) kvw)), dsc 0x33 1 [(128, 1), (192, 77)], 0, by decide +kernel⟩⟩

theorem witness_QuiresAreMadeAndDropped_4 :
    (∃ (s : State) (d : Desc) (n : Nat), Serves s .kve ∧ KvReady s.chip d ∧ d.opcode = 0x34 ∧ ((s.chip.wake.kvAlone d).dropOrPin d
      (kvCaller s.chip d)).1.err = none ∧ ((s.chip.wake.kvAlone d).dropOrPin d (kvCaller s.chip d)).2 = .inr n ∧ kvByKey d = false)
    ∧ (∃ (s : State) (d : Desc) (n : Nat), Serves s .kve ∧ KvReady s.chip d ∧ d.opcode = 0x34 ∧ ((s.chip.wake.kvAlone d).dropOrPin d
      (kvCaller s.chip d)).1.err = none ∧ ((s.chip.wake.kvAlone d).dropOrPin d (kvCaller s.chip d)).2 = .inr n ∧ kvByKey d = true) :=
  ⟨⟨on (withQuire 6 (qu 0 0) kvw), dsc 0x34 1 [(129, 1), (160, 6), (180, 3)], 0, by decide +kernel⟩,
   ⟨on (withPfx 77 6 (withQuire 6 (qu 0 0) kvw)), dsc 0x34 1 [(128, 1), (129, 1), (192, 77)], 0, by decide +kernel⟩⟩

theorem witness_QuiresAreMadeAndDropped_5 :
    ∃ (s : State) (d : Desc) (n : Nat), Serves s .kve ∧ KvReady s.chip d ∧ d.opcode = 0x35 ∧ ((s.chip.wake.kvAlone d).evictCmd d (kvCaller
      s.chip d)).1.err = none ∧ ((s.chip.wake.kvAlone d).evictCmd d (kvCaller s.chip d)).2 = .inr n :=
  ⟨on ((withQuire 6 (qu 0 0) kvw).setEsc { w.esc with beat := 9 }), dsc 0x35 1 [(160, 3)], 1, by decide +kernel⟩

theorem witness_AppendsStartAndCommit_1 :
    (∃ (s : State) (d : Desc), Serves s .kve ∧ KvReady s.chip d ∧ d.opcode = 0x30 ∧ MayAppend (s.chip.wake.kvTaken d) s.chip.kve.nextId {
      d := d })
    ∧ (∃ (s : State) (d : Desc), Serves s .kve ∧ KvReady s.chip d ∧ d.opcode = 0x30 ∧ ((s.chip.wake.kvTaken d).appendView d).k.err = none
      ∧ ((s.chip.wake.kvTaken d).appendView d).bad = none ∧ ((s.chip.wake.kvTaken d).appendView d).q.st = 1 ∧ d.field 32 4 = 0xFFFFFFFF ∧
      (s.chip.wake.kvTaken d).appendFull ((s.chip.wake.kvTaken d).appendView d) = true) :=
  ⟨⟨on (withQuire 5 (qu 0 0) kvw), apD 0xFFFFFFFF, by decide +kernel⟩,
   ⟨on (withQuire 5 { qu 0 0 with apps := 4 } kvw), apD 0xFFFFFFFF, by decide +kernel⟩⟩

theorem witness_AppendsStartAndCommit_2 :
    (∃ (s : State) (id : Nat) (o : KvOp), Serves s .kve ∧ 2 ≤ s.chip.esc.cyc ∧ s.chip.quiesced = false ∧ s.chip.kve.ops = [(id, o)] ∧
      s.chip.posted bufKve < 64 ∧ o.st = .deferred ∧ o.d.opcode = 0x30 ∧ o.wait.toNat ≤ s.chip.esc.bounds.toNat ∧ MayAppend s.chip.wake id
      o)
    ∧ (∃ (s : State) (d : Desc) (k : Kt) (q : Quire), Serves s .kve ∧ KvReady s.chip d ∧ d.opcode = 0x31 ∧ Kt.named ⟨s.chip.wake.kvTaken
      d, none⟩ (kvCaller s.chip d) (kvHandle d 16) (kvGen d 16) = (k, q, none) ∧ kvFirst d + kvCount d ≤ q.tokens ∧ kvLayerFirst d +
      kvLayerCount d ≤ q.layers ∧ (s.chip.wake.kvTaken d).kvSpan d 32 (kvLayerCount d * 2 * kvCount d * q.row) (kvDstHost d) true = none ∧
      ((k.list q (ceilDiv (kvFirst d + kvCount d) q.tpl)).1.putQuire (kvHandle d 16) { q with last := s.chip.esc.beat.toNat }).err = none) :=
  ⟨⟨on ((withQuire 5 (qu 0 0) (kvw.setEsc { w.esc with cyc := 2 })).setKve { kvw.kve with ops := [(4, apWait)], nextId := 5 }), 4, apWait,
    by decide +kernel⟩,
   ⟨gaS, gaD, (Kt.named ⟨gaS.chip.wake.kvTaken gaD, none⟩ (kvCaller gaS.chip gaD) (kvHandle gaD 16) (kvGen gaD 16)).1, qu 1 0,
     ⟨by decide +kernel, by decide +kernel, by decide +kernel, three (by decide +kernel) (by decide +kernel), by decide +kernel,
     by decide +kernel, by decide +kernel, by decide +kernel⟩⟩⟩

theorem witness_AppendsStartAndCommit_3 :
    (∃ (s : State) (id : Nat) (o : KvOp) (p : Op), Serves s .kve ∧ s.chip.kve.ops = [(id, o)] ∧ o.st = .moving ∧ o.d.opcode = 0x30 ∧ look
      s.chip.eng.ops o.op = some p ∧ s.chip.opIdle p = true ∧ (opStatus p).1.good = true ∧ ((Kt.quire ⟨s.chip.wake.commitView o, none⟩
      (kvHandle o.d 16)).2.st = 1 ∧ (Kt.quire ⟨s.chip.wake.commitView o, none⟩ (kvHandle o.d 16)).2.gen = kvGen o.d 16) ∧ ((Kt.quire
      ⟨s.chip.wake.commitView o, none⟩ (kvHandle o.d 16)).1.commit o (Kt.quire ⟨s.chip.wake.commitView o, none⟩ (kvHandle o.d 16)).2).err
      = none)
    ∧ (∃ (s : State) (id : Nat) (o : KvOp) (p : Op), Serves s .kve ∧ s.chip.kve.ops = [(id, o)] ∧ o.st = .moving ∧ o.d.opcode = 0x30 ∧
      look s.chip.eng.ops o.op = some p ∧ s.chip.opIdle p = true ∧ (opStatus p).1.good = true ∧ ((Kt.quire ⟨s.chip.wake.commitView o,
      none⟩ (kvHandle o.d 16)).2.st ≠ 1 ∨ (Kt.quire ⟨s.chip.wake.commitView o, none⟩ (kvHandle o.d 16)).2.gen ≠ kvGen o.d 16)) :=
  ⟨⟨on (kvCommitting (withQuire 5 (qu 0 0) kvw)), 4, apO, apP, by decide +kernel⟩,
   ⟨on (kvCommitting kvw), 4, apO, apP, by decide +kernel⟩⟩

theorem witness_TablesStart_1 :
    (∃ (s : State) (who : Who) (val : Word), Reaches s who rKVE_CTL ∧ s.chip.bit rKVE_CTL 0 = false ∧ bitOf val.toNat 0 = true ∧ bitOf
      val.toNat 1 = true ∧ s.chip.kvRegionOk = true)
    ∧ (∃ (s : State) (who : Who) (val : Word), Reaches s who rKVE_CTL ∧ s.chip.bit rKVE_CTL 0 = false ∧ bitOf val.toNat 0 = true ∧ bitOf
      val.toNat 1 = false ∧ s.chip.kvRegionOk = true)
    ∧ (∃ (s : State) (who : Who) (val : Word), Reaches s who rKVE_CTL ∧ s.chip.bit rKVE_CTL 0 = false ∧ bitOf val.toNat 0 = true ∧
      s.chip.kvRegionOk = false)
    ∧ (∃ (s : State), Serves s .kve ∧ s.chip.kve.starting = true ∧ s.chip.bit rKVE_CTL 0 = true)
    ∧ (∃ (s : State) (who : Who) (val : Word), Reaches s who rTCHK_CTL ∧ s.chip.bit rTCHK_CTL 0 = false ∧ bitOf val.toNat 0 = true ∧
      s.chip.regionOk s.chip.tbase s.chip.tgen (s.chip.folioCount * 2112) (fun _ => true) = true ∧ bitOf val.toNat 1 = true)
    ∧ (∃ (s : State) (who : Who) (val : Word), Reaches s who rTCHK_CTL ∧ s.chip.bit rTCHK_CTL 0 = false ∧ bitOf val.toNat 0 = true ∧
      s.chip.regionOk s.chip.tbase s.chip.tgen (s.chip.folioCount * 2112) (fun _ => true) = true ∧ bitOf val.toNat 1 = false) :=
  ⟨⟨on (kvw.setBit rKVE_CTL 0 false), .pf0, 3, by decide +kernel⟩,
   ⟨on (kvw.setBit rKVE_CTL 0 false), .mgt, 1, by decide +kernel⟩,
   ⟨on ((w.setBit rKVE_CTL 0 false)), .pf0, 3, by decide +kernel⟩,
   ⟨on (kvw.setKve { kvw.kve with starting := true }), by decide +kernel⟩,
   ⟨on kvw, .pf0, 3, by decide +kernel⟩,
   ⟨on kvw, .pf0, 1, by decide +kernel⟩⟩

theorem witness_TablesStart_2 :
    ∃ (s : State), Serves s .seq ∧ s.chip.eng.tchkWait = true ∧ s.chip.bit rTCHK_CTL 0 = true :=
  ⟨on ((kvw.setBit rTCHK_CTL 0 true).setEng { kvw.eng with tchkWait := true }), by decide +kernel⟩

theorem witness_HomesGrantLines :
    (∃ (s : State) (link : Nat) (pla : Nat) (k : Nat) (m : Msg) (x : ElbE), ServedHere s.chip m pla ∧ CohIdle s.chip ∧ (s.chip.wake.check
      (elbLink link) (msgReq m pla 64 (rRead + rMapCoh) false true)).2.1 = .granted x ∧ x.e.coh = 1 ∧ look s.chip.ext.revokes x.handle =
      none ∧ s.chip.agentOk x.c m = true ∧ s.chip.holders (pla / 64) = [(k, true)] ∧ k ≠ x.c.agent)
    ∧ (∃ (s : State) (link : Nat) (pla : Nat) (k : Nat) (m : Msg) (x : ElbE), ServedHere s.chip m pla ∧ CohIdle s.chip ∧
      (s.chip.wake.check (elbLink link) (msgReq m pla 64 (rRead + rMapCoh + rWrite) true true)).2.1 = .granted x ∧ x.e.coh = 1 ∧ look
      s.chip.ext.revokes x.handle = none ∧ s.chip.agentOk x.c m = true ∧ s.chip.holders (pla / 64) = [(k, true)] ∧ k ≠ x.c.agent)
    ∧ (∃ (s : State) (link : Nat) (pla : Nat) (m : Msg) (x : ElbE) (e : FEnt), ServedHere s.chip m pla ∧ CohIdle s.chip ∧
      (s.chip.wake.check (elbLink link) (msgReq m pla 64 (rRead + rMapCoh + rWrite) true true)).2.1 = .granted x ∧ x.e.coh = 1 ∧ look
      s.chip.ext.revokes x.handle = none ∧ s.chip.agentOk x.c m = true ∧ s.chip.holders (pla / 64) = [(x.c.agent, false)] ∧ s.chip.fent
      x.c.agent (pla / 64) = some e ∧ e.m = false) :=
  ⟨⟨on (cohw [] [⟨L7, true, 1⟩]), 3, P7, 4, creq 0x40, grant ((cohw [] []).wake.check (elbLink 3) (msgReq (creq 0x40) P7 64 (rRead +
    rMapCoh) false true)).2.1, by decide +kernel⟩,
   ⟨on (cohw [] [⟨L7, true, 1⟩]), 3, P7, 4, creq 0x41, grant ((cohw [] []).wake.check (elbLink 3) (msgReq (creq 0x41) P7 64 (rRead +
     rMapCoh + rWrite) true true)).2.1, by decide +kernel⟩,
   ⟨on (cohw [⟨L7, false, 1⟩] []), 3, P7, creq 0x42, grant ((cohw [] []).wake.check (elbLink 3) (msgReq (creq 0x42) P7 64 (rRead + rMapCoh
     + rWrite) true true)).2.1, ⟨L7, false, 1⟩, by decide +kernel⟩⟩

theorem witness_NoticesGiveLinesUp :
    (∃ (s : State) (link : Nat) (pla : Nat) (m : Msg) (x : ElbE) (e : FEnt), ServedHere s.chip m pla ∧ CohIdle s.chip ∧ s.chip.extOpen =
      true ∧ (s.chip.wake.noticeCheck (elbLink link) (msgReq m pla 64 0 false true)).2 = .granted x ∧ x.e.coh = 1 ∧ FromAgent s.chip x m ∧
      s.chip.fent x.c.agent (pla / 64) = some e ∧ e.m = false)
    ∧ (∃ (s : State) (link : Nat) (pla : Nat) (m : Msg) (x : ElbE) (e : FEnt), ServedHere s.chip m pla ∧ CohIdle s.chip ∧ s.chip.extOpen =
      true ∧ (s.chip.wake.noticeCheck (elbLink link) (msgReq m pla 64 rWrite false true)).2 = .granted x ∧ x.e.coh = 1 ∧ FromAgent s.chip
      x m ∧ s.chip.fent x.c.agent (pla / 64) = some e ∧ e.m = true)
    ∧ (∃ (s : State) (link : Nat) (pla : Nat) (m : Msg) (x : ElbE) (e : FEnt), ServedHere s.chip m pla ∧ CohIdle s.chip ∧ s.chip.extOpen =
      true ∧ (s.chip.wake.noticeCheck (elbLink link) (msgReq m pla 64 rWrite false true)).2 = .granted x ∧ x.e.coh = 1 ∧ FromAgent s.chip
      x m ∧ s.chip.fent x.c.agent (pla / 64) = some e ∧ e.m = true ∧ m.data.length = 64) :=
  ⟨⟨on (cohw [⟨L7, false, 1⟩] []), 3, P7, creq 0x45, grant ((cohw [] []).wake.noticeCheck (elbLink 3) (msgReq (creq 0x45) P7 64 0 false
    true)).2, ⟨L7, false, 1⟩, by decide +kernel⟩,
   ⟨on (cohw [⟨L7, true, 1⟩] []), 3, P7, creq 0x44, grant ((cohw [] []).wake.noticeCheck (elbLink 3) (msgReq (creq 0x44) P7 64 rWrite
     false true)).2, ⟨L7, true, 1⟩, by decide +kernel⟩,
   ⟨on (cohw [⟨L7, true, 1⟩] []), 3, P7, wbData, grant ((cohw [] []).wake.noticeCheck (elbLink 3) (msgReq wbData P7 64 rWrite false
     true)).2, ⟨L7, true, 1⟩, by decide +kernel⟩⟩

theorem witness_SnoopAnswersEndSnoops :
    (∃ (s : State) (link : Nat) (id : Nat) (m : Msg) (p : Snp) (t : CohTxn), Sunk s.chip m ∧ s.chip.held.contains .coh = false ∧
      s.chip.coh.txns = [(id, t)] ∧ t.who = .none ∧ t.started = true ∧ s.chip.coh.queue = [] ∧ s.chip.coh.front = [] ∧ s.chip.coh.posts =
      [] ∧ look s.chip.coh.snps m.txn.toNat = some p ∧ (s.chip.agent p.agent).node = m.src ∧ p.why = .txn id ∧ p.op = 0x52 ∧ p.crossed =
      false)
    ∧ (∃ (s : State) (link : Nat) (h : Nat) (m : Msg) (p : Snp), Sunk s.chip m ∧ s.chip.held.contains .coh = false ∧ s.chip.coh.txns = []
      ∧ s.chip.coh.queue = [] ∧ s.chip.coh.front = [] ∧ s.chip.coh.posts = [] ∧ look s.chip.coh.snps m.txn.toNat = some p ∧ (s.chip.agent
      p.agent).node = m.src ∧ p.why = .revoke h true)
    ∧ (∃ (s : State) (link : Nat) (m : Msg) (p : Snp) (t : Target), Sunk s.chip m ∧ s.chip.held.contains .coh = false ∧ s.chip.coh.txns =
      [] ∧ s.chip.coh.queue = [] ∧ s.chip.coh.front = [] ∧ s.chip.coh.posts = [] ∧ look s.chip.coh.snps m.txn.toNat = some p ∧
      (s.chip.agent p.agent).node = m.src ∧ p.why = .leave ∧ p.crossed = false ∧ s.chip.lineTarget p.line = some t ∧ m.data.length = 64) :=
  ⟨⟨on probing, 3, 8, rsp 0x63 6, snp 0x52 (.txn 8), probeT, by decide +kernel⟩,
   ⟨on (snooped (snp 0x54 (.revoke 7 true))), 3, 7, ackData, snp 0x54 (.revoke 7 true), by decide +kernel⟩,
   ⟨on (snooped (snp 0x54 .leave)), 3, ackData, snp 0x54 .leave, (((snooped (snp 0x54 .leave)).lineTarget L7).getD tgt7),
     by decide +kernel⟩⟩

theorem witness_AgentsJoinAndLeave :
    (∃ (s : State) (d : Desc), Serves s .coh ∧ s.chip.unbinding (d.bitsAt 24 0 10) = false ∧ s.chip.bit rCOH_CTL 0 = true ∧ s.chip.adminOf
      d (d.bitsAt 24 0 10) = true ∧ d.zero 16 6 2 = true ∧ d.zero 17 4 4 = true ∧ d.zero 18 7 1 = true ∧ d.zero 19 0 8 = true ∧ d.zero 20
      24 8 = true ∧ d.zero 24 10 6 = true ∧ d.zero 26 0 304 = true ∧ d.bitsAt 18 0 7 ≠ 0 ∧ d.bitsAt 18 0 7 ≤ 64 ∧ 2 ^ d.bitsAt 17 0 4 *
      d.bitsAt 18 0 7 ≤ 32768 ∧ (s.chip.agent (d.bitsAt 16 0 6)).st = .free ∧ s.chip.card = false)
    ∧ (∃ (s : State) (d : Desc), Serves s .coh ∧ s.chip.bit rCOH_CTL 0 = true ∧ s.chip.adminOf d (s.chip.agent (d.bitsAt 16 0 6)).tenant =
      true ∧ d.zero 16 6 2 = true ∧ d.zero 17 0 376 = true ∧ (s.chip.agent (d.bitsAt 16 0 6)).st = .joined ∧ s.chip.card = false)
    ∧ (∃ (s : State) (n : Nat) (d : Desc), Serves s .coh ∧ (s.chip.agent n).st = .leaving ∧ (∀ p ∈ s.chip.allSnps, p.agent ≠ n) ∧ (∀ e ∈
      s.chip.coh.txns, e.2.agent ≠ n) ∧ (∀ t ∈ s.chip.coh.front, t.agent ≠ n) ∧ (s.chip.agent n).leave = some d)
    ∧ (∃ (s : State) (n : Nat) (why : LossCause), Serves s .coh ∧ (s.chip.agent n).st = .joined ∧ s.chip.lossHolds n why = true ∧
      s.chip.coh.txns = [] ∧ s.chip.coh.queue = [] ∧ s.chip.coh.front = [] ∧ s.chip.coh.posts = []) :=
  ⟨⟨on (cohw [] []), dsc 0x38 1 [(128, 63), (136, 15), (144, 1), (160, 77), (192, 1)], by decide +kernel⟩,
   ⟨on (cohw [⟨L7, true, 1⟩, ⟨L7 + 1, false, 2⟩] []), dsc 0x39 1 [(128, 3)], by decide +kernel⟩,
   ⟨on leaving, 3, dsc 0x39 1 [(128, 3)], by decide +kernel⟩,
   ⟨on (cohw [⟨L7, true, 1⟩] []), 3, .noRoute, ⟨by decide +kernel, by decide +kernel, loss_no_route (by decide +kernel)
     (by decide +kernel), by decide +kernel⟩⟩⟩

theorem witness_LinksTrain_1 :
    (∃ (s : State) (who : Who) (n : Nat) (val : Word), n < 24 ∧ Reaches s who (lnkReg n 0) ∧ s.chip.card = false ∧ bitOf val.toNat 0 =
      true ∧ s.chip.lnkState n = lsDisabled)
    ∧ (∃ (s : State) (who : Who) (n : Nat) (val : Word), n < 24 ∧ Reaches s who (lnkReg n 0) ∧ s.chip.card = false ∧ bitOf val.toNat 0 =
      false ∧ s.chip.lnkState n = lsDark)
    ∧ (∃ (s : State) (n : Nat), n < 24 ∧ Serves s (.lnk n) ∧ s.chip.bit (lnkReg n 4) 6 = true ∧ s.chip.lnkState n = lsDark)
    ∧ (∃ (s : State) (n : Nat), n < 24 ∧ Serves s (.lnk n) ∧ s.chip.bit (lnkReg n 4) 6 = true ∧ s.chip.lnkState n ∈ [lsLock, lsParam,
      lsKey, lsDelay] ∧ s.chip.bit (lnkReg n 4) 5 = true)
    ∧ (∃ (s : State) (n : Nat), n < 24 ∧ Serves s (.lnk n) ∧ s.chip.lnkState n = lsDark ∧ s.chip.bit (lnkReg n 4) 6 = true)
    ∧ (∃ (s : State) (n : Nat) (low : Bool), n < 24 ∧ Serves s (.lnk n) ∧ s.chip.lnkState n = lsLock) :=
  ⟨⟨on (lk lsDisabled {}), .mgt, 3, 1, by decide +kernel⟩,
   ⟨on (lk lsDark {}), .mgt, 3, 0, by decide +kernel⟩,
   ⟨on (lk lsDark {}), 3, by decide +kernel⟩,
   ⟨on ((lk lsKey {}).setBit (lnkReg 3 4) 5 true), 3, by decide +kernel⟩,
   ⟨on (lk lsDark {}), 3, by decide +kernel⟩,
   ⟨on (lk lsLock {}), 3, true, by decide +kernel⟩⟩

theorem witness_LinksTrain_2 :
    (∃ (s : State) (n : Nat) (f : HelloFlit) (g : HelloFlit), n < 24 ∧ Serves s (.lnk n) ∧ s.chip.lnkState n = lsParam ∧ (s.chip.link
      n).hellos = [g] ∧ 72 ≤ f.dedicated ∧ s.chip.keyRuns < 4 ∧ s.chip.secServes = true)
    ∧ (∃ (s : State) (n : Nat) (f : HelloFlit) (g : HelloFlit), n < 24 ∧ Serves s (.lnk n) ∧ s.chip.lnkState n = lsParam ∧ (s.chip.link
      n).hellos = [g] ∧ 72 ≤ f.dedicated ∧ 4 ≤ s.chip.keyRuns) :=
  ⟨⟨on (secOk (lk lsParam { hellos := [hel 2] })), 3, hel 2, hel 2, by decide +kernel⟩,
   ⟨on keying, 3, hel 2, hel 2, by decide +kernel⟩⟩

theorem witness_LinksAreKeyed :
    (∃ (s : State) (n : Nat) (fr : Frags) (o : Offer), n < 24 ∧ Serves s (.lnk n) ∧ s.chip.lnkState n = lsKey ∧ (s.chip.link n).offer =
      none ∧ s.chip.secServes = true ∧ fragsWhole fr = true ∧ (s.chip.link n).begun = true ∧ o.anchor.toNat < 8 ∧ (look
      s.chip.fuses.anchors o.anchor.toNat = some (Config.sha3 (sized 2592 o.anchorPk))) ∧ o.anchor.toNat ∉ s.chip.fuses.anchorsRevoked ∧
      o.endorsed = true)
    ∧ (∃ (s : State) (n : Nat) (fr : Frags) (o : Offer), n < 24 ∧ Serves s (.lnk n) ∧ s.chip.lnkState n = lsKey ∧ (s.chip.link n).offer =
      none ∧ s.chip.secServes = true ∧ fragsWhole fr = true ∧ (s.chip.link n).begun = true ∧ (8 ≤ o.anchor.toNat ∨ ¬ (look
      s.chip.fuses.anchors o.anchor.toNat = some (Config.sha3 (sized 2592 o.anchorPk))) ∨ o.anchor.toNat ∈ s.chip.fuses.anchorsRevoked ∨
      o.endorsed = false))
    ∧ (∃ (s : State) (n : Nat) (fr : Frags) (o : Offer), n < 24 ∧ Serves s (.lnk n) ∧ s.chip.lnkState n = lsKey ∧ (s.chip.link n).offer =
      none ∧ s.chip.secServes = true ∧ fragsWhole fr = true ∧ (s.chip.link n).begun = false)
    ∧ (∃ (s : State) (n : Nat) (fr : Frags) (ct : List Byte) (secret : BitVec 256), n < 24 ∧ Serves s (.lnk n) ∧ s.chip.lnkState n = lsKey
      ∧ (s.chip.link n).begun = true ∧ (s.chip.link n).offer.isSome = true ∧ (s.chip.link n).resp = none ∧ s.chip.secServes = true ∧
      fragsWhole fr = true)
    ∧ (∃ (s : State) (n : Nat) (fr : Frags), n < 24 ∧ Serves s (.lnk n) ∧ s.chip.lnkState n = lsKey ∧ (s.chip.link n).resp.isSome = true ∧
      s.chip.secServes = true ∧ fragsWhole fr = true)
    ∧ (∃ (s : State) (n : Nat) (t1 : Nat) (t2 : Nat) (t3 : Nat) (arrival : Nat), n < 24 ∧ Serves s (.lnk n) ∧ s.chip.lnkState n = lsDelay) :=
  ⟨⟨on fusedW, 3, whole2, off0, ⟨by decide, by decide +kernel, by decide +kernel, by decide +kernel, by decide +kernel, by decide +kernel,
    by decide +kernel, by decide, rfl, by decide +kernel, rfl⟩⟩,
   ⟨on (secOk (lk lsKey { begun := true })), 3, whole2, ⟨77, 9, [], [], [], [88], true⟩, by decide +kernel⟩,
   ⟨on (secOk (lk lsKey {})), 3, whole2, off0, by decide +kernel⟩,
   ⟨on (secOk (lk lsKey offered)), 3, whole2, [5], 6, by decide +kernel⟩,
   ⟨on (secOk (lk lsKey answered)), 3, whole2, by decide +kernel⟩,
   ⟨on (lk lsDelay { delays := List.replicate 15 9 }), 3, 1, 2, 3, 25, by decide +kernel⟩⟩

theorem witness_LinksGoDown_1 :
    (∃ (s : State) (n : Nat), n < 24 ∧ Serves s (.lnk n) ∧ (s.chip.lnkState n = lsActive ∨ s.chip.lnkState n = lsRetrain))
    ∧ (∃ (s : State) (k : Nat), k < 4 ∧ s.chip.held.contains .rte = false)
    ∧ (∃ (s : State) (n : Nat) (locked : Byte) (low : Bool), n < 24 ∧ Serves s (.lnk n) ∧ (s.chip.lnkState n = lsLock ∨ s.chip.lnkState n
      = lsRetrain) ∧ locked ≠ 255)
    ∧ (∃ (s : State) (n : Nat), n < 24 ∧ Serves s (.lnk n) ∧ s.chip.lnkState n ∈ [lsLock, lsParam, lsKey, lsDelay, lsRetrain])
    ∧ (∃ (s : State) (n : Nat), n < 24 ∧ Serves s (.lnk n) ∧ s.chip.lnkState n = lsDown)
    ∧ (∃ (s : State) (who : Who) (n : Nat), n < 24 ∧ Reaches s who (lnkReg n 0x10) ∧ s.chip.lnkState n = lsActive ∧ (s.chip.link n).feed ≠
      0) :=
  ⟨⟨on (lk lsActive {}), 3, by decide +kernel⟩,
   ⟨on (lk lsActive {}), 0, by decide +kernel⟩,
   ⟨on (lk lsLock {}), 3, 0x7F, false, by decide +kernel⟩,
   ⟨on (lk lsDelay {}), 3, by decide +kernel⟩,
   ⟨on (lk lsDown {}), 3, by decide +kernel⟩,
   ⟨on (lk lsActive { feed := 2 }), .mgt, 3, by decide +kernel⟩⟩

theorem witness_LinksGoDown_2 :
    (∃ (s : State) (who : Who) (n : Nat), n < 24 ∧ Reaches s who (lnkReg n 0x10) ∧ s.chip.lnkState n = lsActive ∧ (s.chip.link n).feed = 0
      ∧ (s.chip.link n).said = false)
    ∧ (∃ (s : State) (who : Who) (n : Nat), n < 24 ∧ Reaches s who (lnkReg n 0x10) ∧ s.chip.lnkState n = lsActive ∧ (s.chip.link n).feed =
      0 ∧ (s.chip.link n).said = true ∧ (s.chip.link n).owed = none ∧ (s.chip.link n).later = [] ∧ (s.chip.link n).replay = []) :=
  ⟨⟨on (lk lsActive sent), .mgt, 3, by decide +kernel⟩,
   ⟨on (lk lsActive { said := true }), .mgt, 3, by decide +kernel⟩⟩

theorem witness_GroupsAreAcknowledged_1 :
    (∃ (s : State) (n : Nat) (g : TagIn) (seq : Quad), n < 24 ∧ Serves s (.lnk n) ∧ s.chip.lnkState n = lsActive ∧ seq = (s.chip.link
      n).rx ∧ (∀ p, (s.chip.link n).part = some p → p.out = .hold))
    ∧ (∃ (s : State) (n : Nat) (g : TagIn) (seq : Quad), n < 24 ∧ Serves s (.lnk n) ∧ s.chip.lnkState n = lsActive ∧ seq ≠ (s.chip.link
      n).rx ∧ (s.chip.link n).waiting = false)
    ∧ (∃ (s : State) (n : Nat) (g : TagIn) (seq : Quad), n < 24 ∧ Serves s (.lnk n) ∧ s.chip.lnkState n = lsActive ∧ seq ≠ (s.chip.link
      n).rx ∧ (s.chip.link n).waiting = true)
    ∧ (∃ (s : State) (n : Nat) (g : TagIn) (seq : Quad), n < 24 ∧ Serves s (.lnk n) ∧ s.chip.lnkState n = lsActive ∧ (((s.chip.link
      n).fails ++ [s.chip.esc.now]).filter (fun t => s.chip.esc.now < t + 1250000000)).length < 3 ∧ (seq = (s.chip.link n).rx ∨
      (s.chip.link n).waiting = false))
    ∧ (∃ (s : State) (n : Nat) (g : TagIn) (seq : Quad), n < 24 ∧ Serves s (.lnk n) ∧ s.chip.lnkState n = lsActive ∧ 3 ≤ (((s.chip.link
      n).fails ++ [s.chip.esc.now]).filter (fun t => s.chip.esc.now < t + 1250000000)).length)
    ∧ (∃ (s : State) (n : Nat) (f : LctlFlit) (old : List Group) (rest : List Group) (g : Group), n < 24 ∧ Serves s (.lnk n) ∧
      s.chip.lnkState n = lsActive ∧ (s.chip.link n).replay = old ++ g :: rest ∧ g.seq.setWidth 16 = f.ackSeq ∧ (∀ x ∈ old, x.seq.setWidth
      16 ≠ f.ackSeq) ∧ f.ackValid = true ∧ f.nakValid = false ∧ (s.chip.link n).closing = false ∧ (s.chip.link n).later = []) :=
  ⟨⟨on (lk lsActive { rx := 7, waiting := true }), 3, ⟨slots1, 1⟩, 7, by decide +kernel⟩,
   ⟨on (lk lsActive { rx := 7 }), 3, ⟨slots1, 0⟩, 8, by decide +kernel⟩,
   ⟨on (lk lsActive { rx := 7, waiting := true }), 3, ⟨slots1, 0⟩, 8, by decide +kernel⟩,
   ⟨on (lk lsActive { rx := 7 }), 3, ⟨[], 0⟩, 7, by decide +kernel⟩,
   ⟨on (lk lsActive { rx := 7, fails := [0, 0] }), 3, ⟨[], 0⟩, 7, by decide +kernel⟩,
   ⟨on (lk lsActive sent), 3, ack2, [grp 1], [grp 3], grp 2, by decide +kernel⟩⟩

theorem witness_GroupsAreAcknowledged_2 :
    (∃ (s : State) (n : Nat), n < 24 ∧ Serves s (.lnk n) ∧ s.chip.lnkState n = lsActive ∧ (s.chip.link n).replay ≠ [] ∧ (s.chip.link
      n).ackCyc + 80000 ≤ s.chip.esc.now)
    ∧ (∃ (s : State) (n : Nat) (seq : Quad), n < 24 ∧ Serves s (.lnk n) ∧ s.chip.lnkState n = lsActive ∧ (s.chip.link n).waiting = false)
    ∧ (∃ (s : State) (n : Nat), n < 24 ∧ Serves s (.lnk n) ∧ s.chip.lnkState n = lsActive ∧ s.chip.bit (lnkReg n 4) 4 = true ∧ 16 <
      (s.chip.link n).bad)
    ∧ (∃ (s : State) (who : Who) (n : Nat), n < 24 ∧ Reaches s who (lnkReg n 0x10) ∧ s.chip.lnkState n = lsActive) :=
  ⟨⟨on ((lk lsActive sent).setEsc { w.esc with now := 80000 }), 3, by decide +kernel⟩,
   ⟨on (lk lsActive sent), 3, 7, by decide +kernel⟩,
   ⟨on ((lk lsActive { bad := 17 }).setBit (lnkReg 3 4) 4 true), 3, by decide +kernel⟩,
   ⟨on (lk lsActive sent), .mgt, 3, by decide +kernel⟩⟩

theorem witness_MessagesAreRouted_1 :
    (∃ (s : State) (inp : Nat) (vc : Nat) (m : Transit) (rest : List Transit), inp < 24 ∧ Serves s .rte ∧ s.chip.bit rRTE_CTL 0 = true ∧
      lookD (s.chip.link inp).vcs vc [] = m :: rest ∧ s.chip.isOwnDest (headDest m.head) = false ∧ (∃ p ∈ s.chip.productive
      (s.chip.targetOf (headDest m.head)), s.chip.canSend p (3 * headCls m.head) (1 + m.data.length) = true))
    ∧ (∃ (s : State) (vc : Nat) (m : Msg) (rest : List Msg), Serves s .rte ∧ s.chip.stopped = false ∧ s.chip.bit rRTE_CTL 0 = true ∧ lookD
      s.chip.inject.q (vc / 3) [] = m :: rest ∧ s.chip.isOwnDest m.dest = false ∧ (∃ p ∈ s.chip.productive (s.chip.targetOf m.dest),
      s.chip.canSend p (3 * (vc / 3)) (1 + (flitsOfBytes m.data).length) = true))
    ∧ (∃ (s : State) (vc : Nat) (m : Msg) (rest : List Msg), Serves s .rte ∧ s.chip.stopped = false ∧ s.chip.bit rRTE_CTL 0 = true ∧ lookD
      s.chip.inject.q (vc / 3) [] = m :: rest ∧ s.chip.isOwnDest m.dest = false ∧ s.chip.productive (s.chip.targetOf m.dest) = [] ∧
      s.chip.escape (s.chip.targetOf m.dest) ownPort 0 = none)
    ∧ (∃ (s : State) (n : Nat) (vc : Nat) (p : Partial), n < 24 ∧ vc < 12 ∧ Serves s (.lnk n) ∧ s.chip.lnkState n = lsActive ∧
      (s.chip.link n).part = some p ∧ p.vc = vc ∧ p.out = .hold ∧ (s.chip.link n).owed = none)
    ∧ (∃ (s : State) (n : Nat) (vc : Nat) (p : Partial), n < 24 ∧ vc < 12 ∧ Serves s (.lnk n) ∧ s.chip.lnkState n = lsActive ∧
      (s.chip.link n).part = some p ∧ p.vc = vc ∧ ∃ q, ∃ chan, ∃ sh, p.out = .port q chan sh ∧ q ≠ n ∧ (s.chip.link q).later = [] ∧ {
      s.chip.link q with feed := 0 }.linkRoom = true)
    ∧ (∃ (s : State) (who : Who) (val : Word), Reaches s who rRTE_CTL ∧ bitOf val.toNat 0 = true ∧ s.chip.bit rRTE_CTL 0 = false ∧ (∃ n, n
      < 24 ∧ s.chip.lnkState n = lsActive)) :=
  ⟨⟨on routing, 4, 0, tmsg, [], by decide +kernel⟩,
   ⟨on { routing with inject := ⟨[(0, [own2])], 0⟩ }, 0, own2, [], by decide +kernel⟩,
   ⟨on { toward2 w with inject := ⟨[(0, [own2])], 0⟩ }, 0, own2, [], by decide +kernel⟩,
   ⟨on (lk lsActive { part := some ⟨0, thead, [9], .hold⟩, loans := [(0, 1)] }), 3, 0, ⟨0, thead, [9], .hold⟩, by decide +kernel⟩,
   ⟨on (cutThrough), 3, 0, ⟨0, thead, [9], .port 4 0 0⟩, by decide +kernel, by decide +kernel, by decide +kernel, by decide +kernel,
     by decide +kernel, by decide +kernel, 4, 0, 0, by decide +kernel⟩,
   ⟨on ((lk lsActive {}).setBit rRTE_CTL 0 false), .mgt, 1, ⟨by decide +kernel, by decide +kernel, by decide +kernel, 3,
     by decide +kernel⟩⟩⟩

theorem witness_MessagesAreRouted_2 :
    ∃ (s : State) (who : Who) (val : Word), Reaches s who rRTE_CTL ∧ bitOf val.toNat 0 = true ∧ s.chip.bit rRTE_CTL 0 = false ∧ (∀ n, n <
      24 → s.chip.lnkState n ≠ lsActive) :=
  ⟨on ((lk lsDark {}).setBit rRTE_CTL 0 false), .mgt, 1, by decide +kernel⟩

theorem witness_StacksAreMaintained_1 :
    (∃ (s : State) (k : Nat) (bank : Nat), k < 20 ∧ Serves s (.stk k) ∧ s.chip.stkState k = stkReady ∧ (∀ t, look (s.chip.stkOf k).due
      bank = some t → t + s.chip.refreshGap k ≤ s.chip.esc.now) ∧ s.chip.bankBusy k bank = false ∧ s.chip.holdBarred k bank false = false)
    ∧ (∃ (s : State) (k : Nat) (bank : Nat), k < 20 ∧ Serves s (.stk k) ∧ s.chip.stkState k = stkReady ∧ (∀ t, look (s.chip.stkOf k).due
      bank = some t → t + s.chip.refreshGap k ≤ s.chip.esc.now) ∧ (s.chip.bankBusy k bank = true ∨ s.chip.holdBarred k bank false = true))
    ∧ (∃ (s : State) (k : Nat) (bank : Nat), k < 20 ∧ Serves s (.stk k) ∧ s.chip.stkState k = stkReady ∧ max 1 (s.chip.stkOf k).rfmAt ≤
      lookD (s.chip.stkOf k).acts bank 0 ∧ s.chip.holdBarred k bank true = false)
    ∧ (∃ (s : State) (k : Nat) (temp : Nat), k < 20 ∧ s.chip.stkState k ≠ stkSelf)
    ∧ (∃ (s : State) (k : Nat) (temp : Nat), k < 20 ∧ s.chip.stkState k = stkSelf)
    ∧ (∃ (s : State) (k : Nat), k < 20 ∧ Serves s (.stk k) ∧ (s.chip.stkOf k).pause.running = true) :=
  ⟨⟨on (stkw false 0), 2, 4, by decide +kernel⟩,
   ⟨on ((rdw .issued).putStk sk (stk0 false 0)), sk, bk, by decide +kernel⟩,
   ⟨on (stkw false 0), 2, 4, by decide +kernel⟩,
   ⟨on (stkw false 0), 2, 86, by decide +kernel⟩,
   ⟨on ((stkw false 0).setStkState 2 stkSelf), 2, 86, by decide +kernel⟩,
   ⟨on (stkw true 0), 2, by decide +kernel⟩⟩

theorem witness_StacksAreMaintained_2 :
    ∃ (s : State) (k : Nat) (bank : Nat), k < 20 ∧ Serves s (.stk k) ∧ (look (s.chip.stkOf k).rows bank).isSome = true ∧ (∀ t, look
      (s.chip.stkOf k).seen bank = some t → t + 67 ≤ s.chip.esc.now) :=
  ⟨on (stkw false 0), 2, 4, by decide +kernel⟩

theorem witness_StacksRestAndReturn :
    (∃ (s : State) (k : Nat) (port : Nat) (level : Nat) (id : Nat) (r : ReadOp), k < 20 ∧ Serves s (.stk k) ∧ s.chip.aget (rSTK_REG + 16 *
      port) 0 1 = 0 ∧ 1 ≤ level ∧ level ≤ 4 ∧ (∀ e ∈ s.chip.int.stripes, e.2.q.port ≠ port) ∧ (∀ w ∈ (s.chip.stkOf k).wq, w.q.port ≠ port)
      ∧ s.chip.int.reads.find? (fun e => e.2.port == port && e.2.guaranteed && e.2.urgency == level - 1 && s.chip.urgentBy port e.2.start
      level && e.2.waitsAt k) = some (id, r) ∧ look s.chip.int.reads id = some r)
    ∧ (∃ (s : State) (k : Nat) (port : Nat) (level : Nat) (w : WrEnt), k < 20 ∧ Serves s (.stk k) ∧ s.chip.aget (rSTK_REG + 16 * port) 0 1
      = 0 ∧ 1 ≤ level ∧ level ≤ 4 ∧ (∀ e ∈ s.chip.int.reads, e.2.port ≠ port) ∧ (∀ e ∈ s.chip.int.stripes, e.2.q.port ≠ port) ∧
      (s.chip.stkOf k).wq.find? (fun w => w.q.port == port && w.q.guaranteed && w.q.urgency == level - 1 && s.chip.urgentBy port w.q.start
      level) = some w ∧ look s.chip.int.reads w.q.age = none ∧ look s.chip.int.stripes w.q.age = none)
    ∧ (∃ (s : State) (id : Nat), Serves s .int ∧ ∃ r, look s.chip.int.reads id = some r ∧ r.guaranteed = false ∧ 0 < r.waited)
    ∧ (∃ (s : State) (id : Nat), Serves s .int ∧ ∃ o, look s.chip.int.reads id = none ∧ look s.chip.int.stripes id = some o ∧
      o.q.guaranteed = false ∧ 0 < o.q.waited)
    ∧ (∃ (s : State) (k : Nat), k < 20 ∧ s.chip.selfAsked = true ∧ s.chip.stkState k = stkReady)
    ∧ (∃ (s : State) (k : Nat), k < 20 ∧ Serves s (.stk k) ∧ s.chip.stkState k ≠ stkReady ∧ s.chip.stkState k ≠ stkFailed ∧
      s.chip.selfAsked = false) :=
  ⟨⟨on ((w.setInt { w.int with reads := [(4, urgent 1)] }).setEsc { w.esc with now := 9000 }), sk, 3, 2, 4, urgent 1, by decide +kernel⟩,
   ⟨on lateW, 2, 3, 2, wrEnt, by decide +kernel⟩,
   ⟨on (w.setInt { w.int with reads := [(4, patient)] }), 4, by decide +kernel, patient, by decide +kernel⟩,
   ⟨on (w.setInt { w.int with stripes := [(6, patientO)] }), 6, by decide +kernel, patientO, by decide +kernel⟩,
   ⟨on (cReset 2 stkReady), 2, by decide +kernel⟩,
   ⟨on ((stkw true 1).setStkState 2 stkSelf), 2, by decide +kernel⟩⟩

theorem witness_IntegrityWorks_1 :
    (∃ (s : State), Serves s .int ∧ s.chip.int.scrubNow = none ∧ s.chip.bit rINT_CTL 0 = true ∧ s.chip.int.walkGrant ≠ 0 ∧ s.chip.quiesced
      = false ∧ s.chip.mayAccess 29 = true ∧ s.chip.locked < 2048 ∧ s.chip.stripeHeld (s.chip.word rINT_SCRUB_POS).toNat = false)
    ∧ (∃ (s : State) (n : Nat), Serves s .int ∧ s.chip.int.scrubNow = some n ∧ s.chip.mayAccess 29 = true ∧ s.chip.locked < 2048 ∧
      s.chip.stripeHeld n = false)
    ∧ (∃ (s : State) (who : Who) (stripe : Word), Reaches s who 0x1000020 ∧ stripe.toNat < s.chip.stripeCount)
    ∧ (∃ (s : State) (j : ZeroJob) (rest : List ZeroJob), Serves s .int ∧ s.chip.int.zero = j :: rest ∧ (s.chip.extent j.handle).st =
      .scrubbing ∧ s.chip.folioCost - s.chip.int.paid ≤ s.chip.zeroLeft ∧ s.chip.groupState 0 < 3 ∧ s.chip.groupState 1 < 3)
    ∧ (∃ (s : State) (who : Who) (val : Word), Reaches s who rINT_FLIP_CTL ∧ bitOf val.toNat 0 = true ∧ s.chip.card = true)
    ∧ (∃ (s : State) (who : Who) (val : Word), Reaches s who rINT_FLIP_CTL ∧ bitOf val.toNat 0 = true ∧ s.chip.card = false) :=
  ⟨⟨on intw, by decide +kernel⟩,
   ⟨on (intw.setInt { intw.int with scrubNow := some 51 }), 51, by decide +kernel⟩,
   ⟨on intw, .mgt, 52, by decide +kernel⟩,
   ⟨on zeroing, ⟨7, 1⟩, [], by decide +kernel⟩,
   ⟨on (w.setBit rRTE_STATUS 1 true), .mgt, 3, by decide +kernel⟩,
   ⟨on w, .mgt, 3, by decide +kernel⟩⟩

theorem witness_IntegrityWorks_2 :
    (∃ (s : State) (who : Who) (n : Nat), Reaches s who (0x1001000 + 16 * n))
    ∧ (∃ (s : State) (failing : List (Nat × Nat)), Serves s .int ∧ s.chip.bit 0x1000040 1 = false ∧ (∀ k, k < 20 → s.chip.stkState k =
      stkReady ∨ s.chip.stkState k = stkFailed)) :=
  ⟨⟨on catted, .mgt, 3, by decide +kernel⟩,
   ⟨on (Chip.with1 w []), [(2, 5)], by decide +kernel⟩⟩

theorem witness_PairsLoseAndResync :
    (∃ (s : State) (who : Who) (g : Nat), Reaches s who (groupWord g 0) ∧ s.chip.groupOn g = true ∧ (∀ e ∈ s.chip.usedExts, e.red = true →
      e.pairGroup ≠ g))
    ∧ (∃ (s : State) (who : Who) (g : Nat), Reaches s who (groupWord g 0) ∧ s.chip.groupOn g = true ∧ (∃ e ∈ s.chip.usedExts, e.red = true
      ∧ e.pairGroup = g))
    ∧ (∃ (s : State) (g : Nat) (why : LossCause), Serves s .red ∧ s.chip.groupOn g = true ∧ s.chip.groupPair g ≠ 1 ∧ s.chip.partnerGone g
      why = true)
    ∧ (∃ (s : State) (id : Nat) (t : Nat) (m : Mirror), Serves s .red ∧ look s.chip.red.mirrors id = some m ∧ m.retryAt = some t ∧ t ≤
      s.chip.esc.now)
    ∧ (∃ (s : State) (who : Who) (g : Nat) (all : Bool), Reaches s who (groupWord g 0) ∧ s.chip.groupOn g = true ∧ s.chip.bit rRED_CTL 0 =
      true)
    ∧ (∃ (s : State) (g : Nat) (f : Nat) (r : Resync), Serves s .red ∧ r ∈ s.chip.red.resyncs ∧ r.group = g ∧ r.folio = f ∧ r.next = 512 ∧
      (∀ id ∈ r.outstanding, look s.chip.red.mirrors id = none)) :=
  ⟨⟨on (grp5 false), .mgt, 5, by decide +kernel⟩,
   ⟨on (grp5 true), .mgt, 5, by decide +kernel⟩,
   ⟨on ((mirrored none).setEsc { w.esc with bounds := 1000000 }), 5, .heartbeat, by decide +kernel⟩,
   ⟨on (mirrored (some 0)), 8, 0, mir (some 0), by decide +kernel⟩,
   ⟨on (grp5 true), .mgt, 5, true, by decide +kernel⟩,
   ⟨on resyncing, 5, 100, ⟨5, 100, 512, []⟩, by decide +kernel⟩⟩

theorem witness_TablesAndStripesAreRestored :
    (∃ (s : State) (h : Nat) (next : Nat) (rest : List (Nat × Nat)) (lines : List (List Byte)), Serves s .int ∧ s.chip.red.rebuilding =
      (h, next) :: rest ∧ s.chip.groupPair (s.chip.extent h).pairGroup ≠ 1 ∧ 640 ≤ s.chip.int.rebuildGrant ∧ lines.length = 8 ∧ (∀ l ∈
      lines, l.length = 64) ∧ s.chip.red.fetch = some next ∧ s.chip.mayAccess 29 = true ∧ (s.chip.extent h).tchk = 0 ∧ s.chip.groupState
      (next % 2) < 3)
    ∧ (∃ (s : State), Serves s .red ∧ s.chip.bit rINT_STATUS 0 = true ∧ s.chip.bit rRED_STATUS 0 = false ∧ s.chip.bit rTCHK_CTL 2 = false
      ∧ ∃ h, s.chip.red.header = some h ∧ s.chip.bit rRED_REGION 0 = true)
    ∧ (∃ (s : State), Serves s .red ∧ s.chip.bit rINT_STATUS 0 = true ∧ s.chip.bit rRED_STATUS 0 = false ∧ s.chip.bit rTCHK_CTL 2 = false
      ∧ s.chip.red.header = none)
    ∧ (∃ (s : State) (who : Who), Reaches s who 0x1100038 ∧ s.chip.bit rRED_CTL 0 = true ∧ s.chip.get rRED_STATUS 2 2 ≠ 1)
    ∧ (∃ (s : State), Serves s .red ∧ s.chip.get rRED_STATUS 2 2 = 1 ∧ s.chip.bit rTCHK_CTL 2 = false)
    ∧ (∃ (s : State), Serves s .red ∧ s.chip.get rRED_STATUS 2 2 = 1 ∧ s.chip.bit rTCHK_CTL 2 = false ∧ ∃ (x : Restored), x.code =
      s.chip.get 0x0 24 2 ∧ x.imageOk = true) :=
  ⟨⟨on rebuilding, 7, 409600, [], List.replicate 8 (List.replicate 64 7), by decide +kernel⟩,
   ⟨on (restoring (some head0)), by decide +kernel, by decide +kernel, by decide +kernel, by decide +kernel, head0, by decide +kernel⟩,
   ⟨on (restoring none), by decide +kernel⟩,
   ⟨on (w.setBit rRED_CTL 0 true), .mgt, by decide +kernel⟩,
   ⟨on taking, by decide +kernel⟩,
   ⟨on taking, by decide +kernel, by decide +kernel, by decide +kernel, copy0, by decide +kernel⟩⟩

theorem witness_ActiveCopiesAreVoted :
    (∃ (c : Chip) (off : Nat) (i : Nat) (v : Votes), look c.act off = some v ∧ i < 32)
    ∧ (∃ (s : State) (off : Nat) (v : Votes), s.chip.stopped = false ∧ look s.chip.act off = some v) :=
  ⟨⟨differ, 0x100, 0, ⟨1, 3, 2⟩, by decide +kernel⟩,
   ⟨on differ, 0x100, ⟨1, 3, 2⟩, by decide +kernel⟩⟩

theorem witness_JournalAndCheckpoint :
    (∃ (s : State) (who : Who) (val : Word), Reaches s who rRED_CTL ∧ bitOf val.toNat 0 = true)
    ∧ (∃ (s : State) (who : Who) (val : Word), Reaches s who rRED_CTL ∧ bitOf val.toNat 0 = false)
    ∧ (∃ (s : State) (q : Quad) (partner : Bool), Serves s .red ∧ (partner = true ∨ s.chip.red.owed = 0))
    ∧ (∃ (s : State) (h : Header), Serves s .red ∧ s.chip.red.ckpt = some h ∧ s.chip.red.ckptTxns = [] ∧ s.chip.red.owed = 0 ∧
      s.chip.esc.lock.unlockedFlag = false ∧ s.chip.get 0x20010 0 3 = 0)
    ∧ (∃ (s : State) (h : Header), Serves s .red ∧ s.chip.red.ckpt = some h ∧ s.chip.red.ckptTxns = [] ∧ s.chip.red.owed = 0 ∧
      s.chip.esc.lock.unlockedFlag = true) :=
  ⟨⟨on w, .mgt, 1, by decide +kernel⟩,
   ⟨on (ckpt0 false), .mgt, 0, by decide +kernel⟩,
   ⟨on (ckpt0 false), 1, false, by decide +kernel⟩,
   ⟨on (ckpt0 false), head0, by decide +kernel⟩,
   ⟨on (ckpt0 true), head0, by decide +kernel⟩⟩

theorem witness_SignedCommandsAct_1 :
    (∃ (s : State) (x : SignedCmd) (slot : Nat) (img : Image), SignedOk s.chip x false ∧ s.chip.inhibit = false ∧ slot < 2 ∧ slot ≠
      s.chip.activeSlot ∧ s.chip.slotValid slot = true ∧ s.chip.imageOk img = true ∧ s.chip.fuses.therm ≤ img.svn)
    ∧ (∃ (s : State) (x : SignedCmd), SignedOk s.chip x false ∧ s.chip.inhibit = false)
    ∧ (∃ (s : State) (x : SignedCmd) (slot : Nat), SignedOk s.chip x true ∧ s.chip.inhibit = false ∧ slot < 4 ∧ ∃ (h : BitVec 384), look
      s.chip.fuses.mgmt slot = none)
    ∧ (∃ (s : State) (x : SignedCmd) (slot : Nat), SignedOk s.chip x true ∧ s.chip.inhibit = false ∧ slot < 4)
    ∧ (∃ (s : State) (x : SignedCmd) (slot : Nat), SignedOk s.chip x false ∧ s.chip.inhibit = false ∧ 0 < slot ∧ slot < 8 ∧ ∃ (h : BitVec
      384), look s.chip.fuses.anchors slot = none)
    ∧ (∃ (s : State) (x : SignedCmd) (slot : Nat), SignedOk s.chip x false ∧ s.chip.inhibit = false ∧ 0 < slot ∧ slot < 8) :=
  ⟨⟨on secW, sg true, 1, imgW, by decide +kernel⟩,
   ⟨on secW, sg true, by decide +kernel⟩,
   ⟨on secW, sg true, 2, by decide +kernel, by decide +kernel, by decide +kernel, 5, by decide +kernel⟩,
   ⟨on secW, sg true, 2, by decide +kernel⟩,
   ⟨on secW, sg true, 2, by decide +kernel, by decide +kernel, by decide +kernel, by decide +kernel, 5, by decide +kernel⟩,
   ⟨on secW, sg true, 2, by decide +kernel⟩⟩

theorem witness_SignedCommandsAct_2 :
    (∃ (s : State) (x : SignedCmd), SignedOk s.chip x false)
    ∧ (∃ (s : State) (x : SignedCmd), SignedOk s.chip x false ∧ s.chip.fuses.debugLocked = false)
    ∧ (∃ (s : State) (x : SignedCmd) (slot : Nat) (level : Nat) (img : Image) (k : KeySet), s.chip.held.contains .sec = false ∧
      (x.eth.isSome = true → s.chip.held.contains .mgt = false ∧ s.chip.recovery = false) ∧ (x.eth = none → s.chip.mboxBusy = false) ∧
      s.chip.secError = false ∧ s.chip.secReady = true ∧ x.lenOk = true ∧ x.rsvd = false ∧ (x.keyIndex.toNat < 4 ∨ x.keyIndex.toNat = 255)
      ∧ ∃ p, p ∈ [(false, Instr.fwStage x slot img), (false, .fwCancel x), (false, .svnAdvance x), (true, .mgmtKeySet x slot k), (false,
      .anchorSet x slot k), (false, .debugUnlock x level)] ∧ s.chip.verifies x p.1 = false) :=
  ⟨⟨on secW, sg true, by decide +kernel⟩,
   ⟨on secW, sg true, by decide +kernel⟩,
   ⟨on secW, sg false, 1, 0, imgW, .revoke, by decide +kernel, by decide +kernel, by decide +kernel, by decide +kernel, by decide +kernel,
     by decide +kernel, by decide +kernel, by decide +kernel, (false, .fwCancel (sg false)), by decide +kernel, by decide +kernel⟩⟩

theorem witness_TenantsBindAndUnbind :
    (∃ (s : State) (d : Desc) (b : BindBlob) (o : BindSealed), Serves s .sec ∧ SecFree s.chip d ∧ s.chip.secStep1 true = none ∧
      (s.chip.caller d).mgmt = true ∧ tbBad d = false ∧ b.opened = some o ∧ (∃ st n x l, (s.chip.turn.poolRead elbSeq 27 (secReq d 24 1712
      false)).2 = .got st n x l ∧ st.good = true) ∧ ((s.chip.turn.poolRead elbSeq 27 (secReq d 24 1712 false)).1.wouldAdmit elbSeq (secReq
      d 32 32 true)).2.1 = none ∧ ((s.chip.turn.poolRead elbSeq 27 (secReq d 24 1712 false)).1.wouldAdmit elbSeq (secReq d 32 32
      true)).1.bindFails d b = none ∧ (∃ st n x l, (((s.chip.turn.poolRead elbSeq 27 (secReq d 24 1712 false)).1.wouldAdmit elbSeq (secReq
      d 32 32 true)).1.poolWrite elbSeq 27 (secReq d 32 32 true) (bytesBE 32 o.confirm.toNat)).2 = .got st n x l ∧ st.good = true))
    ∧ (∃ (s : State) (d : Desc), Serves s .sec ∧ SecFree s.chip d ∧ s.chip.secStep1 false = none ∧ ((s.chip.caller d).mgmt = true ∨
      ((s.chip.caller d).admin = true ∧ (s.chip.caller d).tenant = tbTenant d)) ∧ tbTenant d ≠ 0 ∧ d.zero 16 10 6 = true ∧ d.zero 18 0 368
      = true ∧ s.chip.unbinding (tbTenant d) = false ∧ s.chip.turn.nothingLeft (tbTenant d) = false ∧ s.chip.journalFull = false)
    ∧ (∃ (s : State) (d : Desc), Serves s .sec ∧ SecFree s.chip d ∧ s.chip.secStep1 false = none ∧ ((s.chip.caller d).mgmt = true ∨
      ((s.chip.caller d).admin = true ∧ (s.chip.caller d).tenant = tbTenant d)) ∧ tbTenant d ≠ 0 ∧ d.zero 16 10 6 = true ∧ d.zero 18 0 368
      = true ∧ s.chip.unbinding (tbTenant d) = false ∧ s.chip.turn.nothingLeft (tbTenant d) = true)
    ∧ (∃ (s : State) (t : Nat) (u : Unbind), Serves s .rng ∧ look s.chip.unbinds t = some u ∧ u.aborted = false ∧ (∀ h ∈
      s.chip.tenantHandles t, ∀ rv, look s.chip.ext.revokes h = some rv → rv.point = true))
    ∧ (∃ (s : State) (t : Nat) (u : Unbind), Serves s .ext ∧ t ≠ 0 ∧ look s.chip.unbinds t = some u ∧ u.aborted = true ∧ u.retired = false
      ∧ (∀ h ∈ s.chip.tenantHandles t, (s.chip.extent h).st ≠ .draining) ∧ (∀ r ∈ s.chip.tenantRings t, ∃ d ∈ u.descs, d.ring = r))
    ∧ (∃ (s : State) (t : Nat) (u : Unbind), Serves s .rng ∧ look s.chip.unbinds t = some u ∧ u.retired = true ∧ s.chip.tenantHandles t =
      []) :=
  ⟨⟨on secW, bindD, bindB, bindO, ⟨by decide +kernel, by decide +kernel, by decide +kernel, by decide +kernel, by decide +kernel, rfl,
    got_fine (by decide +kernel), by decide +kernel, by decide +kernel, got_fine (by decide +kernel)⟩⟩,
   ⟨on secW, unbD 1, by decide +kernel⟩,
   ⟨on secW, unbD 3, by decide +kernel⟩,
   ⟨on (unbW unbU), 2, unbU, by decide +kernel⟩,
   ⟨on (unbW { unbU with aborted := true }), 2, { unbU with aborted := true }, by decide +kernel⟩,
   ⟨on (unbW { unbU with aborted := true, retired := true }), 2, { unbU with aborted := true, retired := true }, by decide +kernel⟩⟩

theorem witness_SecServes_1 :
    (∃ (s : State) (via : Transport) (tenant : Nat) (valid : Bool) (nonce : BitVec 256) (fn : Nat), s.chip.held.contains .sec = false ∧
      s.chip.secError = false ∧ s.chip.recovery = false ∧ s.chip.secReady = true ∧ s.chip.sec.attests.length < 4 ∧ via = .mailbox ∧
      s.chip.mboxBusy = false)
    ∧ (∃ (s : State) (via : Transport) (tenant : Nat) (valid : Bool) (nonce : BitVec 256) (fn : Nat), s.chip.held.contains .sec = false ∧
      s.chip.secError = false ∧ s.chip.recovery = false ∧ s.chip.secReady = true ∧ s.chip.sec.attests.length < 4 ∧ via = .doe fn)
    ∧ (∃ (s : State) (via : Transport) (tenant : Nat) (valid : Bool) (nonce : BitVec 256) (fn : Nat), s.chip.held.contains .sec = false ∧
      s.chip.secError = false ∧ s.chip.recovery = false ∧ ∃ (id : Word), s.chip.secReady = true ∧ via = .ethernet id ∧
      s.chip.sec.attests.any (fun x => ethVia x.via) = false ∧ s.chip.sec.attests.length < 4)
    ∧ (∃ (s : State) (via : Transport) (tenant : Nat) (valid : Bool) (nonce : BitVec 256) (fn : Nat), s.chip.held.contains .sec = false ∧
      s.chip.secError = false ∧ s.chip.recovery = false ∧ ∃ (id : Word), s.chip.secReady = true ∧ via = .ethernet id ∧
      s.chip.sec.attests.any (fun x => ethVia x.via) = true ∧ s.chip.held.contains .mgt = false)
    ∧ (∃ (s : State) (via : Transport) (tenant : Nat) (valid : Bool) (nonce : BitVec 256) (fn : Nat), s.chip.held.contains .sec = false ∧
      s.chip.secError = false ∧ s.chip.recovery = false ∧ s.chip.secReady = true ∧ s.chip.sec.attests.length = 4 ∧ via = .doe fn ∧
      s.chip.held.contains .pci = false)
    ∧ (∃ (s : State) (via : Transport) (tenant : Nat) (valid : Bool) (nonce : BitVec 256) (fn : Nat), s.chip.held.contains .sec = false ∧
      s.chip.secError = false ∧ s.chip.recovery = false ∧ s.chip.secReady = false ∧ via = .doe fn ∧ s.chip.held.contains .pci = false) :=
  ⟨⟨on secW, .mailbox, 0, false, 3, 0, by decide +kernel⟩,
   ⟨on secW, .doe 0, 0, false, 3, 0, by decide +kernel⟩,
   ⟨on secW, .ethernet 9, 0, false, 3, 0, by decide +kernel, by decide +kernel, by decide +kernel, 9, by decide +kernel⟩,
   ⟨on (attested [att (.ethernet 8)]), .ethernet 9, 0, false, 3, 0, by decide +kernel, by decide +kernel, by decide +kernel, 9,
     by decide +kernel⟩,
   ⟨on (attested (List.replicate 4 (att (.doe 0)))), .doe 0, 0, false, 3, 0, by decide +kernel⟩,
   ⟨on w, .doe 0, 0, false, 3, 0, by decide +kernel⟩⟩

theorem witness_SecServes_2 :
    (∃ (c : Chip) (r : AttestReq) (rest : List AttestReq) (fn : Nat), c.sec.attests = r :: rest ∧ r.via = .doe fn ∧ c.held.contains .sec =
      false ∧ c.held.contains .pci = false ∧ c.secError = false ∧ c.recovery = false ∧ c.secReady = true)
    ∧ (∃ (s : State) (d : Desc) (e : Envelope) (x : Option ElbE) (slot : Nat), Serves s .sec ∧ SecFree s.chip d ∧ s.chip.secStep1 true =
      none ∧ ckBad d e = false ∧ (∃ st n x l, (s.chip.ckHeader d e).2 = .got st n x l ∧ st.good = true) ∧ (s.chip.ckSource d e).2.1 = none
      ∧ (s.chip.ckDest d e).2.1 = none ∧ (s.chip.ckDest d e).2.2 = x ∧ (s.chip.ckDest d e).1.slotOf ((s.chip.ckDest d e).1.caller
      d).tenant = some slot ∧ ((s.chip.ckDest d e).1.slot slot).st = .bound ∧ (∃ y, x = some y ∧ y.e.keyValid = true ∧ y.e.keySlot = slot)
      ∧ e.names = true ∧ e.unwraps = true ∧ (s.chip.ckLoaded d e).2.2 = .stops ∧ ckTiles d ≤ (s.chip.ckLoaded d e).2.1)
    ∧ (∃ (s : State), s.chip.held.contains .sec = false)
    ∧ (∃ (s : State), s.chip.held.contains .sec = false ∧ 2 ^ 24 ≤ s.chip.sec.draws)
    ∧ (∃ (s : State), s.chip.held.contains .sec = false ∧ s.chip.sec.testsOk = false ∧ s.chip.secError = false)
    ∧ (∃ (s : State) (a : Image) (b : Image) (r : BootRec) (isA : Bool), s.chip.held.contains .sec = false ∧ s.chip.bootState = 0 ∧
      s.chip.flash.current = some (r, isA) ∧ r.active < 2 ∧ r.prev < 2 ∧ s.chip.boots ((fun (k : Nat) => (if k = 0 then a else b : Image))
      (if r.st = 1 ∧ s.chip.bit rMGT_BOOT 0 = true then r.prev else r.active)) = true) :=
  ⟨⟨attested [att (.doe 0)], att (.doe 0), [], 0, by decide +kernel⟩,
   ⟨on ckW, ckD, ckE, ckX, 4, ⟨by decide +kernel, by decide +kernel, by decide +kernel, by decide +kernel, got_fine ck_header, ck_source,
     ck_dest, ck_x, ck_slot, ck_bound, keyed_by ck_keyed, rfl, rfl, ck_all.2, ck_all.1⟩⟩,
   ⟨on w, by decide +kernel⟩,
   ⟨on (w.setSec { w.sec with draws := 20000000 }), by decide +kernel⟩,
   ⟨on w, by decide +kernel⟩,
   ⟨on romW, imgW, imgX, ⟨1, 0, 1, 0⟩, true, by decide +kernel⟩⟩

theorem witness_SecServes_3 :
    (∃ (s : State) (a : Image) (b : Image) (r : BootRec) (isA : Bool), s.chip.held.contains .sec = false ∧ s.chip.bootState = 0 ∧
      s.chip.flash.current = some (r, isA) ∧ r.active < 2 ∧ r.prev < 2 ∧ s.chip.boots ((fun (k : Nat) => (if k = 0 then a else b : Image))
      (if r.st = 1 ∧ s.chip.bit rMGT_BOOT 0 = true then r.prev else r.active)) = false ∧ s.chip.boots ((fun (k : Nat) => (if k = 0 then a
      else b : Image)) (1 - (if r.st = 1 ∧ s.chip.bit rMGT_BOOT 0 = true then r.prev else r.active))) = false)
    ∧ (∃ (s : State) (mgt : Bool) (digest : BitVec 384), s.chip.held.contains .sec = false ∧ s.chip.held.contains (if mgt then .mgt else
      .seq) = true ∧ s.chip.bootState = 2 ∧ s.chip.rcu.asserted = none ∧ s.chip.pwr.retain = false ∧ (digest = (if mgt then
      s.chip.sec.mgtDigest else s.chip.sec.seqDigest)))
    ∧ (∃ (s : State) (mgt : Bool) (digest : BitVec 384), s.chip.held.contains .sec = false ∧ s.chip.held.contains (if mgt then .mgt else
      .seq) = true ∧ s.chip.bootState = 2 ∧ s.chip.rcu.asserted = none ∧ s.chip.pwr.retain = false ∧ ¬ (digest = (if mgt then
      s.chip.sec.mgtDigest else s.chip.sec.seqDigest)))
    ∧ (∃ (s : State) (link : Word), s.chip.bootState = 2 ∧ s.chip.held.contains .mgt = false ∧ s.chip.sec.confirmed = false ∧
      s.chip.inhibit = false)
    ∧ (∃ (s : State) (ct : List Byte) (secret : BitVec 256), s.chip.held.contains .sec = false ∧ s.chip.held.contains .pci = false ∧
      s.chip.secReady = true ∧ s.chip.secError = false)
    ∧ (∃ (s : State) (n : Nat) (key : BitVec 256), s.chip.held.contains .sec = false ∧ s.chip.held.contains .pci = false ∧ n < 5 ∧
      s.chip.sec.session.isSome = true ∧ s.chip.secError = false ∧ s.chip.hostWait = []) :=
  ⟨⟨on romW, imgX, imgX, ⟨1, 0, 1, 0⟩, true, by decide +kernel⟩,
   ⟨on seqHeld, false, 0, by decide +kernel⟩,
   ⟨on seqHeld, false, 1, by decide +kernel⟩,
   ⟨on secW, 5, by decide +kernel⟩,
   ⟨on secW, [1], 2, by decide +kernel⟩,
   ⟨on (secW.setSec { secW.sec with session := some 4 }), 1, 5, by decide +kernel⟩⟩

theorem witness_SecServes_4 :
    (∃ (s : State) (n : Nat), (look s.chip.sec.streams n).isSome = true ∧ s.chip.held.contains .pci = false)
    ∧ (∃ (s : State) (fn : Nat), fn < 256 ∧ s.chip.held.contains .pci = false) :=
  ⟨⟨on (secW.setSec { secW.sec with streams := [(1, 5)] }), 1, by decide +kernel⟩,
   ⟨on w, 0, by decide +kernel⟩⟩

theorem witness_ResetsAreEntered_1 :
    (∃ (s : State), s.chip.get 0x10000 0 2 = 2 ∧ s.chip.absorbs .s = false)
    ∧ (∃ (s : State), s.chip.get 0x10000 0 2 = 1 ∧ s.chip.absorbs .c = false ∧ s.chip.recentResets.length < 8)
    ∧ (∃ (s : State), s.chip.get 0x10000 0 2 ≠ 1 ∧ s.chip.get 0x10000 0 2 ≠ 2)
    ∧ (∃ (s : State) (who : Who) (sensor : TamperSensor), s.chip.absorbs .s = false)
    ∧ (∃ (s : State) (who : Who) (sensor : TamperSensor), s.chip.absorbs .s = false ∧ (sensor = .voltage false → s.chip.rcu.sysPin =
      false))
    ∧ (∃ (s : State) (who : Who) (sensor : TamperSensor), s.chip.absorbs .s = false ∧ s.chip.bit 0x10040 0 = true ∧ s.chip.rcu.kick +
      s.chip.get 0x10040 16 16 * 1250000 ≤ s.chip.esc.now) :=
  ⟨⟨on (scope 2), by decide +kernel⟩,
   ⟨on (scope 1), by decide +kernel⟩,
   ⟨on (scope 0), by decide +kernel⟩,
   ⟨on w, .mgt, .mesh, by decide +kernel⟩,
   ⟨on w, .mgt, .mesh, by decide +kernel⟩,
   ⟨on ((w.setBit 0x10040 0 true).set 0x10040 16 16 0), .mgt, .mesh, by decide +kernel⟩⟩

theorem witness_ResetsAreEntered_2 :
    (∃ (s : State) (who : Who) (sensor : TamperSensor), s.chip.absorbs .s = false ∧ (who = .pf0 ∨ who = .mgt) ∧ Reaches s who 0x10004)
    ∧ (∃ (s : State) (who : Who), s.chip.absorbs .c = false ∧ s.chip.recentResets.length < 8)
    ∧ (∃ (s : State) (who : Who), s.chip.absorbs .c = false ∧ s.chip.recentResets.length < 8 ∧ (who = .pf0 ∨ who = .mgt) ∧ Reaches s who
      0x10004)
    ∧ (∃ (s : State) (who : Who), s.chip.absorbs .c = false ∧ 8 ≤ s.chip.recentResets.length)
    ∧ (∃ (s : State) (who : Who), (who = .pf0 ∨ who = .mgt) ∧ Reaches s who 0x10044)
    ∧ (∃ (s : State), s.chip.rcu.sysPin = true) :=
  ⟨⟨on w, .mgt, .mesh, by decide +kernel⟩,
   ⟨on w, .mgt, by decide +kernel⟩,
   ⟨on w, .mgt, by decide +kernel⟩,
   ⟨on eight, .mgt, by decide +kernel⟩,
   ⟨on w, .mgt, by decide +kernel⟩,
   ⟨on (w.setRcu { w.rcu with sysPin := true }), by decide +kernel⟩⟩

theorem witness_ResetsAreEntered_3 :
    (∃ (s : State), 0 ∉ s.chip.rcu.lost ∧ s.chip.absorbs .c = false ∧ s.chip.recentResets.length < 8)
    ∧ (∃ (s : State), 51 ∉ s.chip.rcu.lost ∧ s.chip.absorbs .s = false)
    ∧ (∃ (s : State) (k : Nat), k < 20 ∧ 1 + k ∉ s.chip.rcu.lost)
    ∧ (∃ (s : State) (n : Nat), n < 24 ∧ 21 + n ∉ s.chip.rcu.lost) :=
  ⟨⟨on w, by decide +kernel⟩,
   ⟨on w, by decide +kernel⟩,
   ⟨on w, 2, by decide +kernel⟩,
   ⟨on (lk lsActive {}), 3, by decide +kernel⟩⟩

theorem witness_HigherLevelsTakeOver :
    (∃ (s : State), (s.chip.rcu.asserted = some .c ∨ s.chip.rcu.asserted = none) ∧ s.chip.rcu.releasing ≠ some .p ∧ s.chip.bit 0x10014 1 =
      false)
    ∧ (∃ (s : State), (s.chip.rcu.asserted = some .p ∨ s.chip.rcu.releasing = some .p))
    ∧ (∃ (s : State), (s.chip.rcu.asserted = some .s ∨ s.chip.rcu.asserted = some .p ∨ s.chip.rcu.releasing = some .p ∨ s.chip.rcu.fusing
      = true))
    ∧ (∃ (s : State), s.chip.rcu.asserted = some .s)
    ∧ (∃ (s : State), s.chip.rcu.asserted = some .p) :=
  ⟨⟨on (inReset (some .c)), by decide +kernel⟩,
   ⟨on (inReset (some .p)), by decide +kernel⟩,
   ⟨on (inReset (some .s)), by decide +kernel⟩,
   ⟨on (inReset (some .s)), by decide +kernel⟩,
   ⟨on (inReset (some .p)), by decide +kernel⟩⟩

theorem witness_ResetsAreReleased_1 :
    (∃ (s : State) (link : Word), s.chip.rcu.asserted = some .p)
    ∧ (∃ (s : State) (link : Word), s.chip.rcu.asserted = some .s ∧ (∀ k, k < 20 → s.chip.stkState k ≠ stkReady) ∧ s.chip.rcu.refLost =
      false ∧ s.chip.bit 0x10010 0 = false)
    ∧ (∃ (s : State) (link : Word), s.chip.rcu.asserted = some .s ∧ (∀ k, k < 20 → s.chip.stkState k ≠ stkReady) ∧ s.chip.rcu.refLost =
      false ∧ s.chip.bit 0x10010 0 = true)
    ∧ (∃ (s : State) (link : Word), s.chip.rcu.asserted = none ∧ s.chip.held.contains .pci = true ∧ s.chip.sec.confirmed = true ∧
      s.chip.pwr.retain = false ∧ 45 ∉ s.chip.rcu.lost)
    ∧ (∃ (s : State) (link : Word), s.chip.rcu.asserted = some .c ∧ (∀ k, k < 20 → s.chip.stkState k ≠ stkReady) ∧ 0 ∉ s.chip.rcu.lost ∧
      s.chip.held.contains .pci = false)
    ∧ (∃ (s : State) (ok : Bool), s.chip.rcu.fusing = true ∧ s.chip.rcu.asserted = none ∧ s.chip.bit 0x10014 1 = false ∧ ok = true) :=
  ⟨⟨on (inReset (some .p)), 5, by decide +kernel⟩,
   ⟨on (slept (inReset (some .s))), 5, by decide +kernel⟩,
   ⟨on ((slept (inReset (some .s))).setBit 0x10010 0 true), 5, by decide +kernel⟩,
   ⟨on pciHeld, 5, by decide +kernel⟩,
   ⟨on (slept (inReset (some .c))), 5, by decide +kernel⟩,
   ⟨on (fusingW 0), true, by decide +kernel⟩⟩

theorem witness_ResetsAreReleased_2 :
    (∃ (s : State) (ok : Bool), s.chip.rcu.fusing = true ∧ s.chip.rcu.asserted = none ∧ s.chip.bit 0x10014 1 = false ∧ ok = false ∧
      s.chip.get 0x10014 2 2 < 2)
    ∧ (∃ (s : State) (ok : Bool), s.chip.rcu.fusing = true ∧ s.chip.rcu.asserted = none ∧ s.chip.bit 0x10014 1 = false ∧ ok = false ∧
      s.chip.get 0x10014 2 2 = 2)
    ∧ (∃ (s : State) (i3c : Bool), s.chip.bit 0x10010 0 = true ∧ s.chip.rcu.asserted = some .s ∧ s.chip.rcu.refLost = false)
    ∧ (∃ (s : State) (d : Nat), d < 52 ∧ d ∈ s.chip.rcu.lost) :=
  ⟨⟨on (fusingW 0), false, by decide +kernel⟩,
   ⟨on (fusingW 2), false, by decide +kernel⟩,
   ⟨on ((inReset (some .s)).setBit 0x10010 0 true), true, by decide +kernel⟩,
   ⟨on (lostW [3]), 3, by decide +kernel⟩⟩

theorem witness_PowerStatesChange_1 :
    (∃ (s : State), s.chip.stopped = false ∧ s.chip.noWork = true ∧ s.chip.quiesced = false ∧ s.chip.pwr.retain = false ∧
      s.chip.held.contains .rng = false)
    ∧ (∃ (s : State) (who : Who), Reaches s who 0x20004)
    ∧ (∃ (s : State) (who : Who), Reaches s who 0x20004 ∧ ∃ (pciIdle : Bool), s.chip.pwr.retain = false ∧ s.chip.retainRefusal pciIdle ≠
      0)
    ∧ (∃ (s : State) (who : Who), Reaches s who 0x20004 ∧ ∃ (pciIdle : Bool), s.chip.pwr.retain = false ∧ s.chip.retainRefusal pciIdle =
      0)
    ∧ (∃ (s : State), s.chip.quiesced = true ∧ s.chip.unitsIdle = true)
    ∧ (∃ (s : State), s.chip.pwr.retain = true ∧ (∀ k, k < 20 → s.chip.stkState k ≠ stkReady) ∧ s.chip.ext.revokes = []) :=
  ⟨⟨on w, by decide +kernel⟩,
   ⟨on w, .mgt, by decide +kernel⟩,
   ⟨on w, .mgt, by decide +kernel, true, by decide +kernel⟩,
   ⟨on calm, .mgt, by decide +kernel, true, by decide +kernel⟩,
   ⟨on calm, by decide +kernel⟩,
   ⟨on (slept (w.setPwr { w.pwr with soft := true, reached := true, retain := true })), by decide +kernel⟩⟩

theorem witness_PowerStatesChange_2 :
    (∃ (s : State) (t : Nat), nextLevel (s.chip.get 0x20020 0 2) t s.chip.hottest < 3)
    ∧ (∃ (s : State) (t : Nat), s.chip.get 0x20020 0 2 < 3 ∧ 125 ≤ t ∧ s.chip.absorbs .s = false) :=
  ⟨⟨on w, 110, by decide +kernel⟩,
   ⟨on w, 125, by decide +kernel⟩⟩

theorem witness_StopsAndTrace_1 :
    (∃ (s : State) (who : Who), s.chip.dbgLevel ≠ 0 ∧ s.chip.stopped = false ∧ Reaches s who 0x50010)
    ∧ (∃ (s : State) (who : Who), s.chip.dbgLevel ≠ 0 ∧ s.chip.stopped = false ∧ s.chip.bit 0x50010 3 = true)
    ∧ (∃ (s : State) (who : Who), s.chip.dbgLevel ≠ 0 ∧ s.chip.stopped = false)
    ∧ (∃ (s : State) (who : Who), Reaches s who 0x50010 ∧ s.chip.dbgLevel ≠ 0 ∧ s.chip.stopped = true ∧ s.chip.bit 0x50010 9 = false)
    ∧ (∃ (s : State) (who : Who), Reaches s who 0x50010 ∧ s.chip.dbgLevel ≠ 0 ∧ s.chip.stopped = true ∧ s.chip.bit 0x50010 9 = true)
    ∧ (∃ (s : State), s.chip.dbgLevel = 2 ∧ s.chip.stopped = true) :=
  ⟨⟨on (dbgW 0), .mgt, by decide +kernel⟩,
   ⟨on ((dbgW 0).setBit 0x50010 3 true), .mgt, by decide +kernel⟩,
   ⟨on (dbgW 0), .mgt, by decide +kernel⟩,
   ⟨on (stoppedW 0), .mgt, by decide +kernel⟩,
   ⟨on ((stoppedW 0).setBit 0x50010 9 true), .mgt, by decide +kernel⟩,
   ⟨on (stoppedW 1), by decide +kernel⟩⟩

theorem witness_StopsAndTrace_2 :
    (∃ (s : State) (who : Who), Reaches s who 0x1300100 ∧ s.chip.dbgLevel ≠ 0 ∧ s.chip.capturing = false)
    ∧ (∃ (s : State) (who : Who), Reaches s who 0x1300100 ∧ s.chip.dbgLevel ≠ 0 ∧ s.chip.capturing = true ∧ s.chip.triggered = false)
    ∧ (∃ (s : State) (e : TraceEntry), s.chip.capturing = true ∧ s.chip.kindTaken e.kind.toNat = true ∧ s.chip.trigMatch e = false ∧
      s.chip.dbg.fifo = [] ∧ s.chip.dbg.run = 0 ∧ s.chip.trcFull = false)
    ∧ (∃ (s : State), s.chip.stopped = false ∧ s.chip.trcSpill = true ∧ 128 ≤ s.chip.dbg.written - s.chip.dbg.spilled ∧ s.chip.mayAccess
      31 = true ∧ s.chip.held.contains .spine = false ∧ (∃ st n x l, (s.chip.poolWrite elbInt 31 s.chip.spillReq s.chip.spillData).2 =
      .got st n x l ∧ st ≠ .busyRetry)) :=
  ⟨⟨on (dbgW 0), .mgt, by decide +kernel⟩,
   ⟨on capW, .mgt, by decide +kernel⟩,
   ⟨on capW, te, by decide +kernel⟩,
   ⟨on (spilling.setExt { spilling.ext with dir := [] }), ⟨by decide +kernel, by decide +kernel, by decide +kernel, by decide +kernel,
     by decide +kernel, got_done (by decide +kernel)⟩⟩⟩

theorem witness_FlashAndCacheCommands_1 :
    (∃ (s : State) (who : Who), Reaches s who 0xB00000 ∧ s.chip.bit rLCC_STATUS 1 = false)
    ∧ (∃ (s : State), Serves s .lcc)
    ∧ (∃ (s : State) (who : Who), Reaches s who 0x40014 ∧ FlashFree s.chip ∧ s.chip.inhibit = false ∧ s.chip.flashProtected ((s.chip.get
      0x40010 0 26) / 65536 * 65536) = false)
    ∧ (∃ (s : State) (who : Who), Reaches s who 0x40014 ∧ FlashFree s.chip ∧ s.chip.inhibit = false ∧ s.chip.flashProtected ((s.chip.get
      0x40010 0 26) / 65536 * 65536) = true)
    ∧ (∃ (s : State) (who : Who), Reaches s who 0x40014 ∧ FlashFree s.chip ∧ s.chip.inhibit = false ∧ ∃ (data : List Byte),
      s.chip.flashProtected ((s.chip.get 0x40010 0 26) / 256 * 256) = false)
    ∧ (∃ (s : State) (id : Word) (raw : Nat) (data : List Byte), FlashFree s.chip ∧ s.chip.inhibit = false ∧ raw < 2 ^ 26 ∧ data.length =
      256 ∧ s.chip.flashProtected (raw / 256 * 256) = false) :=
  ⟨⟨on w, .mgt, by decide +kernel⟩,
   ⟨on (w.setBit rLCC_STATUS 1 true), by decide +kernel⟩,
   ⟨on (w.set 0x40010 0 26 0x2000000), .mgt, by decide +kernel⟩,
   ⟨on w, .mgt, by decide +kernel⟩,
   ⟨on (w.set 0x40010 0 26 0x2000000), .mgt, by decide +kernel, by decide +kernel, by decide +kernel, [7], by decide +kernel⟩,
   ⟨on w, 3, 0x2000000, List.replicate 256 7, by decide +kernel⟩⟩

theorem witness_FlashAndCacheCommands_2 :
    (∃ (s : State) (o : FlashOp) (who : Who), s.chip.flash.op = some o ∧ o.src = .register who ∧ s.chip.recovery = false)
    ∧ (∃ (s : State) (id : Word), s.chip.held.contains .mgt = false) :=
  ⟨⟨on (flashing true), ⟨true, 0x80000, [7], .register .mgt⟩, .mgt, by decide +kernel⟩,
   ⟨on w, 3, by decide +kernel⟩⟩

end Sys2Proof.Tests
end

section
/-! SUPPORT. The voted active copies of the commit groups (13_redundancy.md R376): what the vote answers, what the rewrite of a copy leaves,
and the statement about them. -/

namespace Sys2Proof.Machine

/-! ### The vote -/

/-- Bit by bit, the word used is what at least two of the three copies hold. -/
theorem Votes.majority_getLsbD (v : Votes) (i : Nat) :
    v.majority.getLsbD i = decide (2 ≤ (v.a.getLsbD i).toNat + (v.b.getLsbD i).toNat + (v.d.getLsbD i).toNat) := by
  simp only [Votes.majority, BitVec.getLsbD_or, BitVec.getLsbD_and]
  cases v.a.getLsbD i <;> cases v.b.getLsbD i <;> cases v.d.getLsbD i <;> rfl

/-- Three equal copies vote for themselves, so the copies that a rewrite leaves need none. -/
@[simp] theorem Votes.majority_agree (w : Word) : Votes.majority ⟨w, w, w⟩ = w := by
  simp [Votes.majority]

/-! ### The word that the blocks act on -/

theorem Chip.actWord_of_look {c : Chip} {off : Nat} {v : Votes} (h : look c.act off = some v) : c.actWord off = v.majority := by
  rw [Chip.actWord, h]

/-- It depends on the copies at its offset only. -/
theorem Chip.actWord_congr {c c' : Chip} {off : Nat} (h : look c'.act off = look c.act off) : c'.actWord off = c.actWord off := by
  rw [Chip.actWord, Chip.actWord, h]

/-! ### The rewrite from the majority -/

theorem Chip.rewriteActive_of_look {c : Chip} {off : Nat} {v : Votes} (h : look c.act off = some v) :
    c.rewriteActive off = { c with act := put c.act off ⟨c.actWord off, c.actWord off, c.actWord off⟩ } := by
  rw [Chip.rewriteActive, h, Chip.actWord_of_look h]

/-- The word `Chip.actWord` of the state before, so the copies now agree on what the blocks already used. -/
theorem Chip.look_rewriteActive_self {c : Chip} {off : Nat} {v : Votes} (h : look c.act off = some v) :
    look (c.rewriteActive off).act off = some ⟨c.actWord off, c.actWord off, c.actWord off⟩ := by
  simp [Chip.rewriteActive_of_look h]

theorem Chip.look_rewriteActive_ne {c : Chip} {off o : Nat} (ho : o ≠ off) : look (c.rewriteActive off).act o = look c.act o := by
  cases h : look c.act off with
  | none => rw [Chip.rewriteActive, h]
  | some v => simp only [Chip.rewriteActive_of_look h, look_put_ne _ _ ho]

@[simp] theorem Chip.actWord_rewriteActive (c : Chip) (off o : Nat) : (c.rewriteActive off).actWord o = c.actWord o := by
  by_cases ho : o = off
  · subst ho
    cases h : look c.act o with
    | none => rw [Chip.rewriteActive, h]
    | some v => rw [Chip.actWord_of_look (Chip.look_rewriteActive_self h), Votes.majority_agree]
  · exact Chip.actWord_congr (Chip.look_rewriteActive_ne ho)

/-- Only the active copies can change. -/
theorem Chip.rewriteActive_frame (c : Chip) (off : Nat) : c.rewriteActive off = { c with act := (c.rewriteActive off).act } := by
  cases h : look c.act off with
  | none => rw [Chip.rewriteActive, h]
  | some v => rw [Chip.rewriteActive_of_look h]

theorem exec_activeCopyRewrite (off : Nat) (s : State) : exec (.activeCopyRewrite off) s = execActiveCopyRewrite off s := rfl

/-- ACTIVE_COPY_REWRITE completes in a package that is not stopped (R471), with the copies rewritten. -/
theorem activeCopyRewrite_runs {s : State} {P : Chip → Prop} (off : Nat) (hs : s.chip.stopped = false) (h : P (s.chip.rewriteActive off)) :
    Runs (.activeCopyRewrite off) s P :=
  ⟨{ s with chip := s.chip.rewriteActive off }, by rw [exec_activeCopyRewrite, execActiveCopyRewrite, hs]; rfl, rfl, h⟩

/-- Settles O50: the vote bit by bit, then the rewrite, of which only the copies at its offset are changed, to the word that they voted for. -/
theorem activeCopiesAreVoted : Obligations.ActiveCopiesAreVoted := by
  unfold Obligations.ActiveCopiesAreVoted
  constructor
  · intro c off i v hv _
    rw [Chip.actWord_of_look hv, Votes.majority_getLsbD]
  · intro s off v hs hv
    refine activeCopyRewrite_runs off hs ⟨⟨s.chip.actWord off, Chip.look_rewriteActive_self hv, rfl⟩, ?_, ?_, ?_⟩
    · exact fun o => Chip.actWord_rewriteActive s.chip off o
    · exact fun o ho => Chip.look_rewriteActive_ne ho
    · exact Chip.rewriteActive_frame s.chip off

end Sys2Proof.Machine
end

section
/-! SUPPORT. Reset levels (15_reset_clocks_power.md R439 to R443): what an absorbed assertion leaves, what entry of S reset takes and keeps,
and the statement about the order of the levels. -/

namespace Sys2Proof.Machine

/-! ### Fields inside fields -/

theorem bitsOf_bitsOf (x lo : Nat) {w k m : Nat} (h : k + m ≤ w) : bitsOf (bitsOf x lo w) k m = bitsOf x (lo + k) m := by
  obtain ⟨d, rfl⟩ := Nat.exists_eq_add_of_le h
  rw [bitsOf, bitsOf, bitsOf, Nat.pow_add, Nat.pow_add, Nat.mul_assoc, Nat.mod_mul_right_div_self, Nat.mod_mul_right_mod,
    Nat.div_div_eq_div_mul, ← Nat.pow_add]

/-- A field that lies inside the one replaced is that of the new value. -/
theorem bitsOf_withBits_inside (x lo v : Nat) {w k m : Nat} (h : k + m ≤ w) : bitsOf (withBits x lo w v) (lo + k) m = bitsOf v k m := by
  have hv : v % 2 ^ w = bitsOf v 0 w := by simp [bitsOf]
  rw [← bitsOf_bitsOf _ _ h, bitsOf_withBits_self, hv, bitsOf_bitsOf _ _ h, Nat.zero_add]

/-! ### Words after S reset (R11) -/

/-- A word none of whose fields S reset keeps. -/
theorem resetTo_s_of_unkept {off : Nat} (v : Word) (h : ∀ r ∈ rowsAt off, r.keepS = false) : resetTo .s off v = resetWord off := by
  have hfold : (rowsAt off).foldl (fun a r => if r.keepS then withBits a r.lo r.width (bitsOf v.toNat r.lo r.width) else a)
      (resetWord off).toNat = (resetWord off).toNat :=
    List.foldlRecOn (motive := fun a => a = (resetWord off).toNat) _ _ rfl (fun a ha r hr => by simp [h r hr, ha])
  rw [resetTo, hfold, BitVec.ofNat_toNat, BitVec.setWidth_eq]

theorem rowsAt_resetCause : rowsAt 0x10008 = [⟨0x10008, 0, 1, 12, 2, .ro, 0, true, true, none⟩, ⟨0x10008, 0, 1, 0, 10, .w1c, 1, true, true, none⟩] := by
  decide +kernel

/-- S reset keeps the ten cause bits of RCU_RESET_CAUSE. -/
theorem resetTo_s_cause (v : Word) {k : Nat} (hk : k < 10) : bitsOf (resetTo .s 0x10008 v).toNat k 1 = bitsOf v.toNat k 1 := by
  have hlast : withBits (resetWord 0x10008).toNat 12 2 (bitsOf v.toNat 12 2) < 2 ^ 32 := withBits_lt (resetWord 0x10008).isLt (by decide)
  have hword : (resetTo .s 0x10008 v).toNat =
      withBits (withBits (resetWord 0x10008).toNat 12 2 (bitsOf v.toNat 12 2)) 0 10 (bitsOf v.toNat 0 10) := by
    simp only [resetTo, rowsAt_resetCause, List.foldl_cons, List.foldl_nil, if_true, BitVec.toNat_ofNat]
    exact Nat.mod_eq_of_lt (withBits_lt hlast (by decide))
  have hin := bitsOf_withBits_inside (withBits (resetWord 0x10008).toNat 12 2 (bitsOf v.toNat 12 2)) 0 (bitsOf v.toNat 0 10)
    (w := 10) (k := k) (m := 1) (by omega)
  rw [hword, ← Nat.zero_add k, hin, bitsOf_bitsOf _ _ (by omega)]

/-- No field of a link's STATUS is kept by S reset, and its STATE is DISABLED then. -/
theorem linkStatus_unkept : ∀ n < 24, (∀ r ∈ rowsAt (lnkReg n 4), r.keepS = false) ∧ bitsOf (resetWord (lnkReg n 4)).toNat 0 4 = lsDisabled := by
  decide +kernel

/-- Below the stacks' registers every stored word takes the value of its table. -/
theorem Chip.word_resetRegs (c : Chip) (l : Level) {off : Nat} (h : off < rSTK) :
    (c.resetRegs l).word off = ((look c.regs off).map (resetTo l off)).getD (resetWord off) := by
  simp [Chip.word, Chip.resetRegs, Nat.not_le.2 h]

/-! ### The interleave base set after S reset (03_extents.md R88) -/

/-- Its registers are the only words it writes. -/
theorem Chip.word_ownIlv (c : Chip) {off : Nat} (h : off < 0x100104 ∨ 0x100200 ≤ off) : c.ownIlv.word off = c.word off := by
  refine List.foldlRecOn (motive := fun d : Chip => d.word off = c.word off) _ _ rfl (fun d hd o ho => ?_)
  have hne : off ≠ o := by
    simp only [List.mem_flatMap, upTo, List.mem_range, List.mem_cons, List.not_mem_nil, or_false] at ho
    obtain ⟨n, hn, ho⟩ := ho
    omega
  exact (word_setWord_ne d _ hne).trans hd

/-! ### The answers that a reset gives (R442 step 2, R444) -/

/-- Outputs, and the state that answers go through, may differ; nothing else does. -/
def Chip.AnswersOnly (c d : Chip) : Prop := d = { c with out := d.out, inject := d.inject, dbg := d.dbg, pci := d.pci, coh := d.coh }

theorem Chip.AnswersOnly.refl (c : Chip) : c.AnswersOnly c := rfl

theorem Chip.AnswersOnly.trans {c d e : Chip} (h : c.AnswersOnly d) (k : d.AnswersOnly e) : c.AnswersOnly e := by
  rw [Chip.AnswersOnly] at h k ⊢
  rw [k, h]

theorem Chip.AnswersOnly.foldl {α : Type} {f : Chip → α → Chip} (h : ∀ (c : Chip) a, c.AnswersOnly (f c a)) (l : List α) (c : Chip) :
    c.AnswersOnly (l.foldl f c) :=
  List.foldlRecOn l f (.refl c) (fun d hd a _ => hd.trans (h d a))

theorem Chip.emit_answersOnly (c : Chip) (o : Out) : c.AnswersOnly (c.emit o) := rfl

theorem Chip.lendDone_answersOnly (c : Chip) (m : Msg) : c.AnswersOnly (c.lendDone m) := by
  unfold Chip.lendDone
  split
  · exact c.emit_answersOnly _
  · exact .refl c

theorem Chip.sendRefusal_answersOnly (c : Chip) (m : Msg) (st : Status) (us lat : Nat) : c.AnswersOnly (c.sendRefusal m st us lat) := by
  unfold Chip.sendRefusal
  split
  · exact (c.emit_answersOnly _).trans (Chip.lendDone_answersOnly _ m)
  · exact .refl c

theorem Chip.answerRead_answersOnly (c : Chip) (r : ReadOp) (st : Status) (data : List Byte) (lat : Nat) :
    c.AnswersOnly (c.answerRead r st data lat) := by
  unfold Chip.answerRead
  cases r.who with
  | fabric link m => exact (c.emit_answersOnly _).trans (Chip.lendDone_answersOnly _ m)
  | bar4 fn tag => dsimp only; split <;> rfl
  | coherent id => rfl
  | wb m => exact .refl c
  | none => exact .refl c

theorem Chip.answerWrite_answersOnly (c : Chip) (w : WriteOp) : c.AnswersOnly (c.answerWrite w) := by
  unfold Chip.answerWrite
  cases w.who with
  | fabric link m => exact (c.emit_answersOnly _).trans (Chip.lendDone_answersOnly _ m)
  | bar4 fn tag => exact .refl c
  | coherent id => rfl
  | wb m => exact c.emit_answersOnly _
  | none => exact .refl c

theorem Chip.cohRefuse_answersOnly (c : Chip) (who : Requester) (st : Status) : c.AnswersOnly (c.cohRefuse who st) := by
  unfold Chip.cohRefuse
  cases who with
  | fabric link m => exact c.sendRefusal_answersOnly m _ _ _
  | bar4 fn tag => dsimp only; split <;> rfl
  | coherent id => exact .refl c
  | wb m => exact .refl c
  | none => exact .refl c

theorem Chip.blockReset_answersOnly (c : Chip) : c.AnswersOnly c.blockReset := by
  unfold Chip.blockReset
  have hread := Chip.AnswersOnly.foldl (fun (d : Chip) (e : Nat × ReadOp) => d.answerRead_answersOnly e.2 .blockReset [] 0)
  have hwrite := Chip.AnswersOnly.foldl (fun (d : Chip) (e : Nat × WriteOp) => d.answerWrite_answersOnly { e.2 with status := .blockReset })
  have htxn := Chip.AnswersOnly.foldl (fun (d : Chip) (e : Nat × CohTxn) => d.cohRefuse_answersOnly e.2.who .blockReset)
  have hfront := Chip.AnswersOnly.foldl (fun (d : Chip) (t : CohTxn) => d.cohRefuse_answersOnly t.who .blockReset)
  exact (((hread _ c).trans (hwrite _ _)).trans (htxn _ _)).trans (hfront _ _)

theorem Chip.darken_answersOnly (c : Chip) : c.AnswersOnly c.darken := by
  refine Chip.AnswersOnly.foldl (fun d n => ?_) _ c
  split
  · exact .refl d
  · exact d.emit_answersOnly _

/-! ### Entry of S reset (R442) -/

/-- The answers given before S reset is entered leave everything else. -/
theorem Chip.blockReset_darken_answersOnly (c : Chip) : c.AnswersOnly c.blockReset.darken :=
  c.blockReset_answersOnly.trans (Chip.darken_answersOnly _)

/-- Entry of S reset changes no stored byte, stack, fuse or flash page. -/
theorem Chip.enterS_keeps (c : Chip) : c.enterS.mem = c.mem ∧ c.enterS.stk = c.stk ∧ c.enterS.fuses = c.fuses ∧ c.enterS.flash = c.flash := by
  have hlast : c.enterS.mem = c.blockReset.darken.mem ∧ c.enterS.stk = c.blockReset.darken.stk
      ∧ c.enterS.fuses = c.blockReset.darken.fuses ∧ c.enterS.flash = c.blockReset.darken.flash := by
    unfold Chip.enterS
    generalize c.blockReset.darken = b
    cases b
    exact ⟨rfl, rfl, rfl, rfl⟩
  rw [c.blockReset_darken_answersOnly] at hlast
  exact hlast

/-- What it empties: rings, operators, regions, line cache, directory, contexts, key slots, keys. -/
theorem Chip.enterS_empties (c : Chip) :
    c.enterS.rng.rings = [] ∧ c.enterS.eng.ops = [] ∧ c.enterS.eng.regions = [] ∧ c.enterS.lcc = [] ∧ c.enterS.ext.dir = []
    ∧ c.enterS.ext.ctxs = [] ∧ c.enterS.slots = [] ∧ c.enterS.keys = [] :=
  ⟨rfl, rfl, rfl, rfl, rfl, rfl, rfl, rfl⟩

theorem Chip.enterS_held (c : Chip) : c.enterS.held = (c.blockReset.darken.shutBlks (coreBlks ++ outerBlks)).held := by
  unfold Chip.enterS
  generalize c.blockReset.darken = b
  cases b
  rfl

theorem Chip.mem_shutBlks (c : Chip) (l : List Blk) (b : Blk) : b ∈ (c.shutBlks l).held ↔ b ∈ c.held ∨ b ∈ l := by
  simp only [Chip.shutBlks, List.mem_append, List.mem_filter, Bool.not_eq_true', List.contains_eq_mem, decide_eq_false_iff_not]
  tauto

theorem Chip.enterS_holds (c : Chip) : ∀ b ∈ coreBlks ++ outerBlks, b ∈ c.enterS.held := by
  intro b hb
  rw [Chip.enterS_held, Chip.mem_shutBlks]
  exact .inr hb

/-- Its registers are those of the reset of level S, but for the interleave base set, which is written over them. -/
theorem Chip.enterS_regs (c : Chip) : ∃ d : Chip, c.enterS = d.ownIlv ∧ d.regs = (c.resetRegs .s).regs := by
  have hregs : (c.resetRegs .s).regs = (c.blockReset.darken.resetRegs .s).regs := by rw [c.blockReset_darken_answersOnly]; rfl
  rw [hregs]
  unfold Chip.enterS
  refine ⟨_, rfl, ?_⟩
  generalize c.blockReset.darken = b
  cases b
  rfl

theorem Chip.word_enterS (c : Chip) {off : Nat} (h : off < 0x100104 ∨ 0x100200 ≤ off) : c.enterS.word off = (c.resetRegs .s).word off := by
  obtain ⟨d, he, hd⟩ := c.enterS_regs
  rw [he, Chip.word_ownIlv d h, Chip.word, hd, Chip.word]

theorem Chip.bit_enterS_cause (c : Chip) {k : Nat} (hk : k < 10) : c.enterS.bit 0x10008 k = c.bit 0x10008 k := by
  rw [Chip.bit, Chip.get, Chip.word_enterS c (by decide), Chip.word_resetRegs c .s (by decide), Chip.bit, Chip.get, Chip.word]
  cases look c.regs 0x10008 with
  | none => rfl
  | some v => exact congrArg (· == 1) (resetTo_s_cause v hk)

theorem Chip.lnkState_enterS (c : Chip) {n : Nat} (hn : n < 24) : c.enterS.lnkState n = lsDisabled := by
  obtain ⟨hkept, hzero⟩ := linkStatus_unkept n hn
  have hword : c.enterS.word (lnkReg n 4) = resetWord (lnkReg n 4) := by
    rw [Chip.word_enterS c (by simp only [lnkReg]; omega), Chip.word_resetRegs c .s (by simp only [lnkReg, rSTK]; omega)]
    cases look c.regs (lnkReg n 4) with
    | none => rfl
    | some v => exact resetTo_s_of_unkept v hkept
  rw [Chip.lnkState, Chip.get, hword, hzero]

/-! ### Assertion (R439, R443) -/

@[simp] theorem Chip.absorbs_setCause (c : Chip) (l : Level) (n : Nat) : (c.setBit 0x10008 n true).absorbs l = c.absorbs l := by
  simp [Chip.absorbs, bit_setBit_ne c (o := 0x10014) (off := 0x10008) n 1 true (by decide)]

/-- P under way or being released, and S under way, absorb every assertion. -/
theorem Chip.absorbs_of_higher {c : Chip} (l : Level)
    (h : c.rcu.asserted = some .s ∨ c.rcu.asserted = some .p ∨ c.rcu.releasing = some .p) : c.absorbs l = true := by
  rcases h with h | h | h <;> simp [Chip.absorbs, h]

/-- The release of S, which goes on until the fuses are loaded, absorbs C. -/
theorem Chip.absorbs_c_of_fusing {c : Chip} (h : c.rcu.fusing = true) : c.absorbs .c = true := by
  simp [Chip.absorbs, h]

theorem Chip.absorbs_s_eq_false {c : Chip} (ha : c.rcu.asserted = some .c ∨ c.rcu.asserted = none) (hr : c.rcu.releasing ≠ some .p)
    (hf : c.bit 0x10014 1 = false) : c.absorbs .s = false := by
  rcases ha with ha | ha <;> simp [Chip.absorbs, ha, hr, hf]

/-- An absorbed assertion sets its bit of RCU_RESET_CAUSE and changes nothing else. -/
theorem Chip.assertReset_absorbed {c : Chip} {l : Level} {cause : Nat} (hc : cause < 10) (h : c.absorbs l = true) :
    (c.assertReset l cause).bit 0x10008 cause = true
    ∧ (∀ n, n ≠ cause → (c.assertReset l cause).bit 0x10008 n = c.bit 0x10008 n)
    ∧ (∀ o, o ≠ 0x10008 → (c.assertReset l cause).word o = c.word o)
    ∧ c.assertReset l cause = { c with regs := (c.assertReset l cause).regs } := by
  have hset : c.assertReset l cause = c.setBit 0x10008 cause true := by simp [Chip.assertReset, h]
  rw [hset]
  exact ⟨bit_setBit_self c _ true (by omega), fun _ hn => bit_setBit_beside c _ true (by omega) hn,
    fun _ ho => word_setBit_ne c _ true ho, rfl⟩

/-- A counter that saturates changes its own word alone. -/
theorem Chip.bump_frame (c : Chip) {off : Nat} (n : Nat) (h : unsaid off = false) :
    (∀ o, o ≠ off → (c.bump off n).word o = c.word o) ∧ c.bump off n = { c with regs := (c.bump off n).regs } := by
  rw [Chip.bump, h]
  split
  · exact ⟨fun o ho => word_setWord_ne c _ ho, rfl⟩
  · exact ⟨fun o ho => word_setWord_ne c _ ho, rfl⟩

/-- RCU records an S reset: its cause bit, LAST, the count. -/
def Chip.recordReset (c : Chip) (cause : Nat) : Chip := ((c.setBit 0x10008 cause true).set 0x10008 12 2 1).bump 0x1000C 1

/-- And STORM, where it is the ninth within a second (R439). -/
def Chip.recordS (c : Chip) (cause : Nat) : Chip :=
  if (c.recentResets ++ [c.esc.now]).length ≥ 9 then (c.recordReset cause).setBit 0x10010 0 true else c.recordReset cause

theorem Chip.recordReset_regs (c : Chip) (cause : Nat) : c.recordReset cause = { c with regs := (c.recordReset cause).regs } := by
  rw [Chip.recordReset, (Chip.bump_frame _ 1 (by decide)).2]
  rfl

theorem Chip.recordS_regs (c : Chip) (cause : Nat) : c.recordS cause = { c with regs := (c.recordS cause).regs } := by
  rw [Chip.recordS]
  split
  · rw [c.recordReset_regs]; rfl
  · exact c.recordReset_regs cause

theorem Chip.recordReset_cause (c : Chip) {cause : Nat} (hc : cause < 10) : (c.recordReset cause).bit 0x10008 cause = true := by
  rw [Chip.recordReset, Chip.bit, Chip.get, (Chip.bump_frame _ 1 (by decide)).1 _ (by decide), ← Chip.get,
    get_set_beside _ _ _ (by decide) (.inl (by omega)), ← Chip.bit, bit_setBit_self c _ true (by omega)]

theorem Chip.recordS_cause (c : Chip) {cause : Nat} (hc : cause < 10) : (c.recordS cause).bit 0x10008 cause = true := by
  rw [Chip.recordS]
  split
  · rw [bit_setBit_ne _ _ _ _ (by decide), c.recordReset_cause hc]
  · exact c.recordReset_cause hc

/-- An S reset that is not absorbed, storm or not, is recorded, and S is entered from there. -/
theorem Chip.assertReset_s_taken {c : Chip} (cause : Nat) (h : c.absorbs .s = false) :
    ∃ x : Rcu, c.assertReset .s cause = ((c.recordS cause).enterS.emit .ibi).setRcu x ∧ x.asserted = some .s ∧ x.fusing = true := by
  unfold Chip.assertReset
  extract_lets marked resets storm level counted recorded entered
  rw [if_neg (show ¬ marked.absorbs .s = true by simp [marked, h])]
  have hlevel : level = .s := ite_self _
  have hrecorded : recorded = c.recordS cause := by
    simp only [recorded, counted, hlevel, beq_self_eq_true, if_true, storm, decide_eq_true_eq, resets]
    rfl
  have hentered : entered = (c.recordS cause).enterS.emit .ibi := by
    simp only [entered, hlevel, beq_self_eq_true, if_true, hrecorded]
  rw [hentered, hlevel]
  exact ⟨_, rfl, rfl, Bool.or_true _⟩

/-- S reset is then entered for that cause: the record keeps what entry keeps, and entry keeps the cause bit. -/
theorem Chip.assertReset_s_entersS {s : State} {cause : Nat} (hc : cause < 10) (h : s.chip.absorbs .s = false) :
    EntersS s (s.chip.assertReset .s cause) cause := by
  obtain ⟨x, he, hasserted, hfusing⟩ := Chip.assertReset_s_taken cause h
  obtain ⟨hmem, hstk, hfuses, hflash⟩ := (s.chip.recordS cause).enterS_keeps
  obtain ⟨hrings, hops, hregions, hlcc, hdir, hctxs, hslots, hkeys⟩ := (s.chip.recordS cause).enterS_empties
  have hcause := ((s.chip.recordS cause).bit_enterS_cause hc).trans (s.chip.recordS_cause hc)
  have hheld := (s.chip.recordS cause).enterS_holds
  have hlinks := fun n (hn : n < 24) => (s.chip.recordS cause).lnkState_enterS hn
  rw [he]
  generalize (s.chip.recordS cause).enterS = e at *
  rw [s.chip.recordS_regs] at hmem hstk hfuses hflash
  cases e
  exact ⟨hasserted, hfusing, hcause, hheld, hrings, hops, hregions, hlcc, hdir, hctxs, hslots, hkeys, hlinks, hmem, hstk, hfuses, hflash⟩

/-! ### The commands that assert (R437, R438) -/

theorem rstSysN_runs {s : State} {P : Chip → Prop} (h : P s.chip.sysPinLow) : Runs .rstSysN s P := ⟨_, rfl, rfl, h⟩

theorem rstCoreN_runs {s : State} {P : Chip → Prop} (h : P (s.chip.assertReset .c 3)) : Runs .rstCoreN s P := ⟨_, rfl, rfl, h⟩

theorem vddCoreLow_runs {s : State} {P : Chip → Prop} (h : P (s.chip.assertReset .s 9)) : Runs .vddCoreLow s P := ⟨_, rfl, rfl, h⟩

theorem powerOnReset_runs {s : State} {P : Chip → Prop} (h : P ((s.chip.enterP.emit (.thermtripN true)).emit .ibi)) : Runs .powerOnReset s P :=
  ⟨_, rfl, rfl, h⟩

/-- The package with RST_SYS_N known to be low. -/
def Chip.holdSysPin (c : Chip) : Chip := c.setRcu { c.rcu with sysPin := true }

/-- P reset is held on by the pin, and records nothing (19_package_electrical.md R513). -/
theorem Chip.sysPinLow_of_p {c : Chip} (h : c.rcu.asserted = some .p) : c.sysPinLow = c.holdSysPin := by
  simp [Chip.sysPinLow, Chip.holdSysPin, h]

/-- Otherwise the pin asserts S reset. -/
theorem Chip.sysPinLow_of_ne_p {c : Chip} (h : c.rcu.asserted ≠ some .p) : c.sysPinLow = c.holdSysPin.assertReset .s 2 := by
  simp [Chip.sysPinLow, Chip.holdSysPin, h]

/-- Every register of the package that P reset leaves has its table's value, since none is stored. -/
theorem Chip.enterP_word (c : Chip) (o : Nat) : c.enterP.word o = resetWord o := rfl

/-! ### The order of the levels -/

/-- Settles O56: an assertion is absorbed or taken, by the level under way; absorbed, it records its cause bit alone; taken, it enters S reset. -/
theorem higherLevelsTakeOver : Obligations.HigherLevelsTakeOver := by
  unfold Obligations.HigherLevelsTakeOver
  refine ⟨?taken, ?vddAbsorbed, ?coreAbsorbed, ?sysAbsorbed, ?sysDuringP, ?powerOn⟩
  case taken =>
    intro s ha hr hf
    have hs : s.chip.absorbs .s = false := Chip.absorbs_s_eq_false ha hr hf
    have hp : s.chip.rcu.asserted ≠ some .p := by rcases ha with ha | ha <;> simp [ha]
    refine ⟨rstSysN_runs ?_, vddCoreLow_runs (Chip.assertReset_s_entersS (by decide) hs)⟩
    rw [Chip.sysPinLow_of_ne_p hp]
    exact Chip.assertReset_s_entersS (s := { s with chip := s.chip.holdSysPin }) (by decide) hs
  case vddAbsorbed =>
    intro s h
    exact vddCoreLow_runs (Chip.assertReset_absorbed (by decide) (Chip.absorbs_of_higher .s (.inr h)))
  case coreAbsorbed =>
    intro s h
    refine rstCoreN_runs (Chip.assertReset_absorbed (by decide) ?_)
    rcases h with h | h | h | h
    · exact Chip.absorbs_of_higher .c (.inl h)
    · exact Chip.absorbs_of_higher .c (.inr (.inl h))
    · exact Chip.absorbs_of_higher .c (.inr (.inr h))
    · exact Chip.absorbs_c_of_fusing h
  case sysAbsorbed =>
    intro s h
    refine rstSysN_runs ?_
    rw [Chip.sysPinLow_of_ne_p (by simp [h])]
    exact Chip.assertReset_absorbed (c := s.chip.holdSysPin) (by decide) (Chip.absorbs_of_higher .s (.inl h))
  case sysDuringP =>
    intro s h
    exact rstSysN_runs (Chip.sysPinLow_of_p h)
  case powerOn =>
    intro s
    exact powerOnReset_runs ⟨rfl, rfl, rfl, fun o => s.chip.enterP_word o⟩

end Sys2Proof.Machine
end
